-- ==== Sys2Proof/Word.lean ====
section
/-!
DEFINITION. The word types of the block and the plainest arithmetic on them.
-/
namespace Sys2Proof

/-- One byte. -/
abbrev Byte := BitVec 8
/-- One 32-bit register word (R6: little-endian wherever it lies in memory). -/
abbrev Word := BitVec 32
/-- One 64-bit value. -/
abbrev Dword := BitVec 64
/-- A run of bytes, lowest address first. -/
abbrev Bytes := List Byte

end Sys2Proof
end

