-- ==== Sys2Proof/Syntax.lean ====
section
/-!
DEFINITION. The commands of the block: one constructor per row of the table of operations and events, with the
row's operands. The table gives no operand fields, so the operands are what the row's rule names (log entry 7).
-/
namespace Sys2Proof

/-- A descriptor as it reaches its opcode: function, descriptor ring, index (R296) and its 64 bytes (R293), byte k in
bits [8k+7:8k]. -/
structure Desc where
  func  : Fin 64
  ring  : Fin 64
  index : Word
  raw   : BitVec 512
deriving DecidableEq, Repr

/-- One unit of a stream, by stream index (R293) and unit number. -/
structure UnitRef where
  stream : Fin 1025
  number : Nat
deriving DecidableEq, Repr

/-- A contract's seat (R262). -/
structure SeatRef where
  contract : BitVec 16
  seat     : Nat
deriving DecidableEq, Repr

/-- How a test ended (R385). -/
inductive TestOutcome where
  | passed
  | failed
  | repaired (unitBits : BitVec 32)
  | abandoned
deriving DecidableEq, Repr

/-- A rail of R405 and R406: the rail of a plain, or a common rail by number. -/
inductive Rail where
  | plain (p : Fin 8)
  | common (n : Fin 7)
deriving DecidableEq, Repr

/-- The outcome of the host-side read-back of a fuse burn (R381). -/
inductive BurnOutcome where
  | ok
  | mismatch
deriving DecidableEq, Repr

/-- One array shape (R79). -/
inductive Shape where
  | d16 | d8 | d4
deriving DecidableEq, Repr

/-- Where a load of activations finds its word (R110): in the record's line buffer, for an output position; in row layout, at an input position and
channel; or in row layout at a word that the tile fetched, its first element in the word and the address of its exponent byte. -/
inductive LdaSrc where
  | line (yo xo : Nat)
  | rows (y x elem : Nat)
  | word (w : Fin 2048) (elem : Fin 512) (rho : BitVec 18)
deriving DecidableEq, Repr

/-- A load of activations (R110, R111): the source, the first 16-channel group in the window register, the tap column it fills, which of the column's
words it is, the shift of the window before the load, whether the rows are in a wide re-run's layout, and the input row and column whose place in the
line buffer a copy fills instead. -/
structure LdaOp where
  src    : LdaSrc
  group  : Fin 256
  kx     : Fin 7
  part   : Fin 16
  shift  : Fin 8
  wide   : Bool
  toLine : Option (Nat × Nat)
deriving DecidableEq, Repr

/-- A normal issue (R83, R101): group of output channels, code index, entry, init flag, limb pass, first window element, INT16 activations, and wide (a
bounded record's weights read as FP16, R39). The shape is the record's (R80). -/
structure MacOp where
  group  : Fin 4
  code   : Fin 32
  entry  : Fin 16
  init   : Bool
  pass   : Fin 196
  first  : Fin 784
  act16  : Bool
  wide   : Bool
deriving DecidableEq, Repr

/-- A transposed issue (R82): its 16 outputs are a group of output channels; wide as in MacOp. -/
structure MactOp where
  group : Fin 64
  code  : Fin 32
  entry : Fin 16
  init  : Bool
  pass  : Fin 196
  first : Fin 784
  wide  : Bool
deriving DecidableEq, Repr

/-- Where a vector operation reads or writes: a vector temporary, or the read-out values from a channel on. -/
inductive VReg where
  | temp (n : Fin 64)
  | epi (off : Fin 1024)
deriving DecidableEq, Repr

/-- The operations of the vector unit (R55, R94, R101). -/
inductive VFun where
  | add | sub | mul | fma | div | sqrt | cmp | minNum | maxNum
  | convert (src dst : Fin 12) (sat : Bool) (stochastic : Bool)
  | iadd
  | ishl (n : Fin 32)
  | irsh (n : Fin 32)
  | inarrow (nbitsLess1 : Fin 32)
  | icmp
  | itable
deriving DecidableEq, Repr

/-- A vector operation: function, width (FP64 or FP32), destination and sources. -/
structure VopOp where
  fn   : VFun
  fp64 : Bool
  dst  : VReg
  a    : VReg
  b    : VReg
  c    : VReg
deriving DecidableEq, Repr

/-- A store of consecutive output codes of a position and of its row exponent (R89, R110): output column and row, first channel of the tile's part, and
number of codes. -/
structure StOp where
  x     : Nat
  y     : Nat
  first : Fin 1024
  count : Fin 129
deriving DecidableEq, Repr

/-- A halo word (R115, R116, R457): the output row, the consuming record, the sliver that receives it (0 the left neighbour, 1 the right neighbour, 2
the tile's own), the channel part there, and which word of the row's transfer it is. -/
structure HaloOp where
  y    : Nat
  cons : Fin 24
  side : Fin 3
  part : Fin 4
  k    : Fin 2048
deriving DecidableEq, Repr

/-- What a transfer moves: a word of SRAM, 16 accumulator entries (R88), a word of a line buffer row as position units (R117, R120), by input row and
the producer's channel part, or the record's halo counters (R117). -/
inductive XferUnit where
  | sram (word : Fin 2048)
  | acc (arr : Fin 4) (first : Fin 64)
  | line (y : Nat) (part : Fin 4) (wide : Bool) (k : Fin 2048)
  | counters
deriving DecidableEq, Repr

/-- Where a transfer goes: the plain's pool at a word, or an HBM address. -/
inductive XferPlace where
  | pool (word : Fin 65536)
  | hbm (addr : BitVec 36)
deriving DecidableEq, Repr

/-- A spill or a fill of one word for a record (R88, R101). -/
structure XfrOp where
  record : Fin 24
  fill   : Bool
  unit   : XferUnit
  place  : XferPlace
deriving DecidableEq, Repr

/-- What the boot tests find (R384, R412): the physical tiles (plain, position), entropy engines, rim engines (8 is the spare), lanes of pass links
(link, lane) and of HBM channels (stack, channel, lane) that failed, and whether a unit without a spare failed. -/
structure BootTests where
  tiles    : List (Fin 8 × Fin 272)
  engines  : List (Fin 18)
  rims     : List (Fin 9)
  lanes    : List (Fin 2 × Fin 9)
  hbmLanes : List (Fin 2 × Fin 8 × Fin 4096)
  noSpare  : Bool
deriving DecidableEq, Repr

/-- One slot role of a heartbeat (R347): MIRROR_ID, active role, taken by FORCE. -/
structure SlotRole where
  mirrorId : BitVec 64
  active   : Bool
  forced   : Bool
deriving DecidableEq, Repr

/-- What a HELLO carries (R348). -/
structure HelloData where
  serial : BitVec 64
  rev    : BitVec 8
  fw     : BitVec 32
  mpl    : BitVec 32
  addr   : BitVec 8
deriving DecidableEq, Repr

/-- The partner's side of an ATTACH (R352): its own checks failed, and the things compared. -/
structure PartnerAttach where
  mirrorId : BitVec 64
  active   : Bool
  refused  : Bool
  job      : Nat
  cls      : Nat
  rerun    : Nat
  param    : List (BitVec 8)
  pkgDigest : List (BitVec 8)
  modelDigest : List (BitVec 8)
deriving DecidableEq, Repr

/-- A tensor as an epoch carries it: width, height, channels, whether one row serves every position, and its listed positions
with their codes and row exponents. -/
structure TensorImage where
  w     : Nat
  h     : Nat
  ch    : Nat
  bcast : Bool
  cells : List (Nat × (List Int × List Int))
  wides : List (Nat × Bool) := []
deriving DecidableEq, Repr

/-- The stream's state that an epoch brings (R355), as the standby holds it once the epoch is applied. Its byte layout is the
mirror protocol level's (R349) and is not in the spec. rcLog holds the coded sizes not yet applied (R227). DESIGN CHOICE, log entry 87. -/
structure EpochImage where
  header     : List (BitVec 8)
  bound      : Bool
  short      : Option (Nat × TensorImage)
  long       : Option (Nat × TensorImage)
  last       : Option (Nat × TensorImage)
  adapter    : List (BitVec 8)
  scratch    : List (Nat × TensorImage)
  rcF        : Int
  rcNext     : Nat
  rcBits     : List (Nat × Nat)
  rcQ        : List (Nat × Nat)
  rcLog      : List (Nat × (Nat × Nat × Nat × Nat))
  nextUnit   : Nat
  lastPicId  : Option Nat
  frame      : Option Nat
  sliceIdx   : Option Nat
  model      : List (BitVec 8)
  lastUnit   : Option Nat
  sinceI     : Nat
  sinceLong  : Nat
  sticky     : Bool
  derived    : Bool
  lastOutput : List Int
  digest     : List (BitVec 8)
deriving DecidableEq, Repr

/-- A chain frame as it arrives (R338, R339). -/
structure Frame where
  bytes : List (BitVec 8)
deriving DecidableEq, Repr

/-- Where a register access goes: a BAR (R283, R432, R442), the MSI-X Message Control word of the function's configuration
space, with MSI-X Enable and Function Mask (R302; its bits are PCI Express's, log entry 3), or the rest of it (R439). -/
inductive RegSpace where
  | bar0 | bar2 | bar4 | msixControl | config
deriving DecidableEq, Repr

/-- The commands of the block: rows of the table. DESIGN CHOICE, log entry 145. -/
inductive Instr where
  -- descriptors
  | nop (d : Desc)
  | fence (d : Desc)
  | modelLoad (d : Desc)
  | modelUnload (d : Desc)
  | contractOpen (d : Desc)
  | contractClose (d : Desc)
  | streamOpen (d : Desc)
  | streamClose (d : Desc)
  | encPicture (d : Desc)
  | decUnits (d : Desc)
  | poolMarkAlloc (d : Desc)
  | poolMarkTake (d : Desc)
  | poolMarkRelease (d : Desc)
  | poolMarkDiscard (d : Desc)
  | audEnc (d : Desc)
  | audDec (d : Desc)
  | fldEnc (d : Desc)
  | fldDec (d : Desc)
  | llComp (d : Desc)
  | llDecomp (d : Desc)
  | copy2d (d : Desc)
  | attach (d : Desc)
  | detach (d : Desc)
  | watch (d : Desc)
  | switch (d : Desc)
  | takeover (d : Desc)
  -- rings
  | load (f : Fin 64)
  | wake (f : Fin 64) (value : Word)
  | poll (f : Fin 64)
  | modTime (f : Fin 64) (c : Fin 64)
  | msixPendingSend (f : Fin 64) (v : Fin 32)
  -- keys
  | install
  | erase
  | admKeyctlLock
  -- chain commands
  | enum
  | head
  | mchRelease
  | query
  | queryTimeout
  -- fuses
  | fusArm (w : Word)
  | burn (index : Fin 128)
  | revoke (record : Fin 64)
  -- injection, freeze
  | injUnlock (w : Word)
  | injLock
  | freeze
  | frzNFall
  -- tests
  | tileBist
  | mbist
  | arrayTest
  | engineTest
  | laneTest
  | testComplete (o : TestOutcome)
  -- resets and boot
  | coldCmd
  | warmCmd
  | start (tests : BootTests)
  -- counters, captures, trace
  | clear
  | dumpNow
  | dump
  | pmcValCapture (size : Fin 9)
  | glbTimeCapture (size : Fin 9)
  | mark (w : Word)
  | stickyClear (group : Fin 4) (w : Word)
  | admSuspClear (w : Word)
  | registerWrite (f : Fin 64) (space : RegSpace) (off : BitVec 24) (size : Fin 9) (value : BitVec 64)
  -- pins and power
  | perst
  | devRst (ns : Nat)
  | coldPower
  | resetRelease
  | railFault (r : Rail)
  | vminLow (p : Fin 8)
  | refLoss
  | holdoverEnd
  | quiesce
  | pllSwitch (standbyLocks : Bool) (pauseTicks : Nat)
  | overTemp (p : Fin 8) (deciC : Nat)
  | overTempEnd (p : Fin 8) (deciC : Nat)
  | thermalFailstop (p : Fin 8) (deciC : Nat)
  | plainLimit (hot cold : Fin 8)
  | plainLimitEnd (hot cold : Fin 8)
  | powerCapStep (estimate : Nat) (draws : List Nat)
  | dividerChange (p : Fin 8)
  | functionLevelReset (f : Fin 64) (vfClear : Bool)
  | d3hot (f : Fin 64)
  | d0Return (f : Fin 64)
  | linkRetrain (gts : Fin 65) (width : Fin 17)
  -- the wheel and the streams
  | ledgerAudit
  | departure (r : SeatRef)
  | release (u : UnitRef)
  | contextPass (u : UnitRef)
  | decodeSegment (u : UnitRef)
  | encodeUnit (u : UnitRef)
  | train (stream : Fin 1025)
  | regionJob (stream : Fin 1025)
  | unitEmit (stream : Fin 1025)
  | pictureClose (stream : Fin 1025)
  | pictureRecord (stream : Fin 1025)
  | autoCopy (stream : Fin 1025)
  | outputRecord (stream : Fin 1025)
  | blockRecord (stream : Fin 1025)
  | haloReceive (tile : Fin 2048)
  | llSuspend (engine : Fin 4)
  | llResume (engine : Fin 4)
  -- micro-instructions
  | uinstrNop (tile : Fin 2048)
  | ldw (tile : Fin 2048) (arr : Fin 4) (part : Fin 64) (word : Fin 2048)
  | swp (tile : Fin 2048) (arrs : BitVec 4)
  | lda (tile : Fin 2048) (rec : Fin 24) (o : LdaOp)
  | mac (tile : Fin 2048) (rec : Fin 24) (o : MacOp)
  | mact (tile : Fin 2048) (rec : Fin 24) (o : MactOp)
  | ard (tile : Fin 2048) (rec : Fin 24) (entry : Fin 16) (group : Fin 4) (rows : Fin 64)
  | epi (tile : Fin 2048) (rec : Fin 24)
  | rot (tile : Fin 2048) (rec : Fin 24) (group : Fin 64)
  | row (tile : Fin 2048) (rec : Fin 24) (x y : Nat) (wide : Bool)
  | vop (tile : Fin 2048) (rec : Fin 24) (o : VopOp)
  | st (tile : Fin 2048) (rec : Fin 24) (o : StOp)
  | hsnd (tile : Fin 2048) (rec : Fin 24) (o : HaloOp)
  | hwt (tile : Fin 2048) (rec : Fin 24) (side : Fin 3) (part : Fin 4) (value : Nat)
  | xfr (tile : Fin 2048) (o : XfrOp)
  | srs (tile : Fin 2048) (rec : Fin 24) (restore : Bool)
  | stat (tile : Fin 2048) (rec : Fin 24) (space : Bool) (addr : BitVec 64)
  | endRec (tile : Fin 2048) (rec : Fin 24)
  -- faults of units
  | tileFault (tile : Fin 2048) (parity : Bool)
  | engineFault (phys : Fin 18)
  | rimFault (p : Fin 8)
  | hbmUe (addr : BitVec 36) (reader : Option (Fin 1025)) (state : Bool)
  | plainFail (p : Fin 8)
  | hbmLaneRepair (stack : Fin 2) (channel : Fin 8) (lane : Fin 4096)
  | gateEnter (p : Fin 8)
  | gateExit (p : Fin 8)
  | sample (event : Fin 1024)
  | traceWrite
  -- links and pairs
  | heartbeat
  | heartbeatReceive (link : Fin 2) (serial : BitVec 64) (roles : List SlotRole)
  | linkDown (link : Fin 2)
  | hello (link : Fin 2) (data : HelloData)
  | replay (link : Fin 2) (seq : BitVec 24)
  | laneSpare (link : Fin 2) (lane : Fin 9)
  | epochOpen (slot : Fin 1024)
  | epochClose (slot : Fin 1024) (number : BitVec 32) (full : Bool) (image : EpochImage) (digestOk : Bool)
  | epochAck (slot : Fin 1024) (number : BitVec 32) (committed : Bool)
  | abort (slot : Fin 1024)
  | switchRecord (slot : Fin 1024)
  | switchAck (slot : Fin 1024)
  | closingNotice (slot : Fin 1024) (closed : Bool)
  | relinquish (slot : Fin 1024)
  -- chain frames
  | survey (fr : Frame)
  | assign (fr : Frame)
  | join (fr : Frame)
  | status (fr : Frame)
  | statusReq (fr : Frame)
  | statusBroadcast
  -- rows appended to the table
  | rootPllLock (ppm : Int) (hbmOk : Bool)
  | powerOnResetRelease
  | vminRestored (p : Fin 8)
  | frzNRise
  | vfEnable (n : Fin 64)
  | fusBurnDone (o : BurnOutcome)
  | injUnlockTimeout
  | watchdogExpiry
  | warpFault (p : Fin 8)
  | regionFault (u : Fin 2)
  | lleFault (e : Fin 4)
  | spineUe
  | chainFrameDrop (fr : Frame)
  | attachMatch (p : PartnerAttach)
deriving DecidableEq, Repr

end Sys2Proof
end

