-- ==== Sys2Proof/Decode.lean ====
section
/-!
DEFINITION. The commands that a word spells by the bits of the table of operations and events. The table gives no row any bits: its
rows are named by rules, and what reaches the block as a word (a descriptor's 64 bytes, a register write) is an operand of its row.
No word spells a command.
-/
namespace Sys2Proof

/-- No row of the table has bits, so no word spells a command. DESIGN CHOICE, log entry 24. -/
def decodeTableWord (_nbits _w : Nat) : Option Instr := none

end Sys2Proof
end

