-- ==== Sys2Proof/Config.lean ====
section
/-!
DEFINITION. What the spec leaves open: free values. Every constant here is opaque and has no body that a proof
can see, so a statement about one holds for every value it may take (log entry 2).
-/
namespace Sys2Proof

/-- The n-th free value drawn (log entry 2). State.free counts the draws. -/
opaque Config.freeValue : Nat → Nat

/-- Bytes the spec leaves open: draw number, byte number (log entry 2). -/
opaque Config.freeByte : Nat → Nat → Byte

/-- The matcher of LL_COMP at LEVEL 1 to 9 (R314 gives no algorithm): level and input give the raw DEFLATE stream
an implementation chooses. The block checks it by decoding and by its bound, and stores the input otherwise (log entry 9). -/
opaque Config.deflateChoice : Nat → Bytes → Bytes

/-- Values that a bounded record uses and the spec does not state: a vector list's operand without a value, a rotation of binary64 values, a
channel exponent of a record without weights. Record bytes, input codes, number (log entries 126, 150, 151). -/
opaque Config.boundedValue : Bytes → List Int → Nat → Nat

/-- The order of a bounded record's issues at an output element, as a key of each issue (R48: fixed by the record, and not stated): record
bytes, position, issue number (log entry 10). -/
opaque Config.issueOrder : Bytes → List Nat → Nat → Nat

/-- A binary64 value beyond the range of a record's FP32 output (R67 names no SAT for it): whether its convert saturates (log entry 153). -/
opaque Config.storeSat : Nat → Bool

/-- fusedMultiplyAdd of zero times infinity plus a quiet NaN: IEEE 754 leaves open whether invalid is raised (log entry 11). -/
opaque Config.fmaZeroInfNanInvalid : Bool

/-- Whether a convert to an integer format raises inexact (IEEE 754 has both operations; R55 names neither) (log entry 11). -/
opaque Config.convertIntInexact : Bool

/-- Whether a convert that turns an infinity into a finite number or a NaN raises overflow and inexact (R51 gives the
result only) (log entry 11). -/
opaque Config.infConvertFlags : Bool

/-- Receive buffer entries of a mesh link, and receive credits of PCIe, by ledger × 8,192 + instance: the spec gives no number
(log entry 2). DESIGN CHOICE, log entry 112. -/
opaque Config.creditsGranted : Nat → Nat

/-- Occurrences of an event that the model does not see one by one (cycles of units, flits, bytes of HBM), by event, timebase of the last
clear and timebase of the capture (log entry 2). -/
opaque Config.unseenCount : Nat → Nat → Nat → Nat

/-- Flits and credit returns on a link, and occupied entries of its receiver, at an audit: by the audit's draw and 4 × (ledger × 8,192 + instance)
plus 0, 1, 2 (log entry 112). -/
opaque Config.creditsInFlight : Nat → Nat → Nat

/-- Bytes that a job computes from its inputs and the spec does not place or state, by what fixes them and a number: the package digest, the access
unit's digest and the purpose, so that equal inputs give equal outputs (R48, R336) (log entries 16, 17, 18). -/
opaque Config.jobByte : Bytes → Nat → Byte

/-- Flits of a pass-link record that the spec does not lay out (an ATTACH, an epoch, a notice), and of what else a link carries until then: by the
timebase and the link (log entry 96). -/
opaque Config.recordFlits : Nat → Nat → Nat

/-- BOOKED of ADM_BOOK where the booking in 1,024ths of the capacity does not fit its 11 bits (R280), by that number (log entry 176). -/
opaque Config.bookedOver : Nat → BitVec 11

/-- The partner of the host link has FLIT mode (R281) (log entry 157). -/
opaque Config.partnerFlit : Bool

end Sys2Proof
end

