-- ==== Sys2Proof/Machine/Bits.lean ====
section
/-!
DEFINITION. Bit fields, byte order (R6), lists of bytes and the integers of the pseudo-code (R10).
-/
namespace Sys2Proof.Machine

/-- Bits [lo + n - 1 : lo] of x. -/
def bits (x lo n : Nat) : Nat := x / 2 ^ lo % 2 ^ n

/-- Bit i of x. -/
def bitAt (x i : Nat) : Bool := x / 2 ^ i % 2 == 1

/-- A flag as a number. -/
def b2n (b : Bool) : Nat := if b then 1 else 0

/-- x with bits [lo + n - 1 : lo] replaced by v. -/
def putBits (x lo n v : Nat) : Nat := x - bits x lo n * 2 ^ lo + v % 2 ^ n * 2 ^ lo

/-- The little-endian number of a run of bytes (R6). -/
def leNat : Bytes → Nat
  | [] => 0
  | b :: bs => b.toNat + 256 * leNat bs

/-- n bytes of v, lowest first (R6). -/
def leBytes : Nat → Nat → Bytes
  | 0, _ => []
  | n + 1, v => BitVec.ofNat 8 v :: leBytes n (v / 256)

/-- n bytes of v, highest first. -/
def beBytes (n v : Nat) : Bytes := (leBytes n v).reverse

/-- The big-endian number of a run of bytes. -/
def beNat (b : Bytes) : Nat := leNat b.reverse

/-- n bytes of b from offset off; bytes past the end are zero. -/
def slice (b : Bytes) (off n : Nat) : Bytes :=
  let c := (b.drop off).take n
  c ++ List.replicate (n - c.length) 0

/-- The little-endian field of n bytes at off. -/
def fieldAt (b : Bytes) (off n : Nat) : Nat := leNat ((b.drop off).take n)

def u8At (b : Bytes) (off : Nat) : Nat := fieldAt b off 1
def u16At (b : Bytes) (off : Nat) : Nat := fieldAt b off 2
def u32At (b : Bytes) (off : Nat) : Nat := fieldAt b off 4
def u64At (b : Bytes) (off : Nat) : Nat := fieldAt b off 8

/-- All bytes zero. -/
def allZero (b : Bytes) : Bool := b.all (· == 0)

/-- Bytes off to off + n - 1 all zero (a reserved field, R8). -/
def zeroAt (b : Bytes) (off n : Nat) : Bool := fieldAt b off n == 0

/-- n bits of x read as two's complement. -/
def sext (n x : Nat) : Int :=
  let m := x % 2 ^ n
  if m < 2 ^ (n - 1) then (m : Int) else (m : Int) - (2 ^ n : Nat)

/-- The two's-complement code of n bits of x. -/
def toCode (n : Nat) (x : Int) : Nat := (x % ((2 ^ n : Nat) : Int)).toNat

/-- The smallest k with n ≤ k * d (d positive). -/
def ceilDiv (n d : Nat) : Nat := (n + d - 1) / d

/-- n rounded up to a multiple of a. -/
def alignUp (n a : Nat) : Nat := ceilDiv n a * a

/-- floor_log2 of the pseudo-code; 0 at 0. -/
def floorLog2 (n : Nat) : Nat := Nat.log2 n

/-- The least number of bits n with x ≤ 2 ^ n. -/
def ceilLog2 (x : Nat) : Nat := if x ≤ 1 then 0 else Nat.log2 (x - 1) + 1

def isPow2 (n : Nat) : Bool := n != 0 && 2 ^ Nat.log2 n == n

/-- Number of set bits among the low `fuel` bits. -/
def popCount : Nat → Nat → Nat
  | 0, _ => 0
  | f + 1, n => n % 2 + popCount f (n / 2)

/-- Floor square root by bits, from bit `k` down. -/
def isqrtFrom : Nat → Nat → Nat → Nat
  | 0, n, acc => if (acc + 1) * (acc + 1) ≤ n then acc + 1 else acc
  | k + 1, n, acc =>
    let a := acc + 2 ^ (k + 1)
    if a * a ≤ n then isqrtFrom k n a else isqrtFrom k n acc

/-- Floor square root. -/
def isqrt (n : Nat) : Nat := isqrtFrom (Nat.log2 n / 2 + 1) n 0

/-- Entry i of a list, or a default. -/
def listGet {α : Type} (l : List α) (i : Nat) (d : α) : α := (l[i]?).getD d

/-- Entry i of a list replaced; no change past its end. -/
def listSet {α : Type} (l : List α) (i : Nat) (v : α) : List α := l.set i v

/-- Entry i of a list changed by f. -/
def listMod {α : Type} (l : List α) (i : Nat) (f : α → α) : List α := l.modify i f

/-- The numbers lo, lo + 1, …, lo + n - 1. -/
def rangeFrom (lo n : Nat) : List Nat := (List.range n).map (lo + ·)

/-- The first n in lo, lo + 1, … (at most `fuel` of them) that p accepts. -/
def findFrom (p : Nat → Bool) : Nat → Nat → Option Nat
  | 0, _ => none
  | f + 1, lo => if p lo then some lo else findFrom p f (lo + 1)

/-- The lists of n entries cut from l. -/
def chunks {α : Type} (n : Nat) : Nat → List α → List (List α)
  | 0, _ => []
  | k + 1, l => l.take n :: chunks n k (l.drop n)

/-- Sum of a list of numbers. -/
def sumN (l : List Nat) : Nat := l.foldl (· + ·) 0

/-- Sum of a list of integers. -/
def sumI (l : List Int) : Int := l.foldl (· + ·) 0

/-- Largest of a list of numbers, 0 for none. -/
def maxN (l : List Nat) : Nat := l.foldl max 0

/-- The 32 low bits of a number as a register word. -/
def w32 (n : Nat) : Word := BitVec.ofNat 32 n

end Sys2Proof.Machine
end

