-- ==== Sys2Proof/Machine/Flags.lean ====
section
/-!
DEFINITION. The flags the spec computes: the five IEEE 754 status flags (R57) and the FLAGS and EVENTS fields'
bits (R69, R296).
-/
namespace Sys2Proof.Machine

/-- The five IEEE 754 exceptions of R57, as status flags. -/
structure FpFlags where
  invalid   : Bool := false
  divZero   : Bool := false
  overflow  : Bool := false
  underflow : Bool := false
  inexact   : Bool := false
deriving DecidableEq, Repr

/-- No flag. -/
def FpFlags.none : FpFlags := {}

/-- The OR of the flags of two operations (R57). -/
def FpFlags.or (a b : FpFlags) : FpFlags :=
  { invalid := a.invalid || b.invalid, divZero := a.divZero || b.divZero, overflow := a.overflow || b.overflow,
    underflow := a.underflow || b.underflow, inexact := a.inexact || b.inexact }

/-- The 5-bit status of R57 and of byte 14 of R69. The order of the bits is that in which R57 names the
exceptions, lowest first (DESIGN CHOICE, log entry 12). -/
def FpFlags.code (f : FpFlags) : Nat :=
  b2n f.invalid + 2 * b2n f.divZero + 4 * b2n f.overflow + 8 * b2n f.underflow + 16 * b2n f.inexact

/-- Only invalid. -/
def FpFlags.inv : FpFlags := { invalid := true }

/-- EVENTS of a statistics entry (R69): over threshold, re-run, allowance spent, Tamli event, re-run cells. -/
def eventsByte (excess ran spent tamli : Bool) (cells : Nat) : Nat :=
  b2n excess + 2 * b2n ran + 4 * b2n spent + 8 * b2n tamli + 16 * min cells 7

end Sys2Proof.Machine
end

