-- ==== Sys2Proof/Machine/SoftFloat.lean ====
section
/-!
DEFINITION. The number formats of R26 to R30, rounding (R50, R51, R54), and the vector unit's IEEE 754 operations
(R55 to R57), each on the codes of its format.
-/
namespace Sys2Proof.Machine

/-- The formats of R26. -/
inductive Fmt where
  | int4 | int2 | tern | e2m1 | e4m3 | e5m2 | fp16 | fp32 | fp64 | int8 | int16 | int32
deriving DecidableEq, Repr

/-- The 4-bit format code of R26; the reserved codes 0xC to 0xF name no format. -/
def Fmt.ofCode : Nat → Option Fmt
  | 0 => some .int4 | 1 => some .int2 | 2 => some .tern | 3 => some .e2m1 | 4 => some .e4m3 | 5 => some .e5m2
  | 6 => some .fp16 | 7 => some .fp32 | 8 => some .fp64 | 9 => some .int8 | 10 => some .int16 | 11 => some .int32
  | _ => none

/-- Width in bits (R26). -/
def Fmt.width : Fmt → Nat
  | .int4 => 4 | .int2 => 2 | .tern => 2 | .e2m1 => 4 | .e4m3 => 8 | .e5m2 => 8 | .fp16 => 16 | .fp32 => 32
  | .fp64 => 64 | .int8 => 8 | .int16 => 16 | .int32 => 32

/-- Whether the format is one of the floating-point formats of R29. -/
def Fmt.isFloat : Fmt → Bool
  | .e2m1 => true | .e4m3 => true | .e5m2 => true | .fp16 => true | .fp32 => true | .fp64 => true
  | _ => false

/-- Precision p (fraction bits and one). -/
def Fmt.prec : Fmt → Nat
  | .e2m1 => 2 | .e4m3 => 4 | .e5m2 => 3 | .fp16 => 11 | .fp32 => 24 | .fp64 => 53
  | _ => 1

/-- Exponent bias (R29). -/
def Fmt.bias : Fmt → Nat
  | .e2m1 => 1 | .e4m3 => 7 | .e5m2 => 15 | .fp16 => 15 | .fp32 => 127 | .fp64 => 1023
  | _ => 0

/-- The code of the largest finite value, sign 0 (R29). -/
def Fmt.maxCode : Fmt → Nat
  | .e2m1 => 7 | .e4m3 => 0x7E | .e5m2 => 0x7B | .fp16 => 0x7BFF | .fp32 => 0x7F7FFFFF | .fp64 => 0x7FEFFFFFFFFFFFFF
  | _ => 0

/-- The code of infinity, sign 0, where the format has one (R29). -/
def Fmt.infCode : Fmt → Option Nat
  | .e5m2 => some 0x7C | .fp16 => some 0x7C00 | .fp32 => some 0x7F800000 | .fp64 => some 0x7FF0000000000000
  | _ => none

/-- The canonical quiet NaN of R30, where the format has one. DEDUCED, log entry 29. -/
def Fmt.nanCode : Fmt → Option Nat
  | .e4m3 => some 0x7F | .e5m2 => some 0x7E | .fp16 => some 0x7E00 | .fp32 => some 0x7FC00000
  | .fp64 => some 0x7FF8000000000000
  | _ => none

/-- Exponent of the smallest normal number. -/
def Fmt.emin (f : Fmt) : Int := 1 - (f.bias : Int)

/-- The weight of the lowest bit of a subnormal number. -/
def Fmt.qmin (f : Fmt) : Int := f.emin - ((f.prec - 1 : Nat) : Int)

/-- The sign bit set. -/
def Fmt.withSign (f : Fmt) (s : Bool) (c : Nat) : Nat := if s then c + 2 ^ (f.width - 1) else c

/-- A value: a NaN (signalling or not), an infinity, or (-1)^s × m × 2^e. -/
inductive FVal where
  | nan (sig : Bool)
  | inf (s : Bool)
  | fin (s : Bool) (m : Nat) (e : Int)
deriving DecidableEq, Repr

/-- The value of a code of a floating-point format (R29). A binary16, 32 or 64 NaN whose top fraction bit is 0 is
signalling (IEEE 754). -/
def Fmt.decode (f : Fmt) (code : Nat) : FVal :=
  let c := code % 2 ^ f.width
  let s := bitAt c (f.width - 1)
  let mag := c % 2 ^ (f.width - 1)
  let frac := mag % 2 ^ (f.prec - 1)
  let ef := mag / 2 ^ (f.prec - 1)
  match f.infCode with
  | some ic =>
    if mag > ic then .nan (decide (f.prec ≥ 11) && !bitAt frac (f.prec - 2))
    else if mag == ic then .inf s
    else if ef == 0 then .fin s frac f.qmin
    else .fin s (frac + 2 ^ (f.prec - 1)) (f.qmin + ((ef - 1 : Nat) : Int))
  | none =>
    if mag > f.maxCode then .nan false
    else if ef == 0 then .fin s frac f.qmin
    else .fin s (frac + 2 ^ (f.prec - 1)) (f.qmin + ((ef - 1 : Nat) : Int))

/-- Right shift to nearest, ties to even, of a number. -/
def rshiftRneN (x n : Nat) : Nat :=
  if n == 0 then x else
    let q := x / 2 ^ n
    let r := x % 2 ^ n
    let half := 2 ^ (n - 1)
    if r > half || (r == half && q % 2 == 1) then q + 1 else q

/-- m × 2^e in units of 2^q, rounded to nearest even, and whether it is inexact. -/
def scaleRne (m : Nat) (e q : Int) : Nat × Bool :=
  if e ≥ q then (m * 2 ^ (e - q).toNat, false)
  else
    let d := (q - e).toNat
    (rshiftRneN m d, m % 2 ^ d != 0)

/-- The result of a finite magnitude beyond the format's largest (R51): SAT 1 or a format without infinity but E4M3
gives the largest finite value, E4M3 with SAT 0 its NaN, another format an infinity. -/
def Fmt.overflowCode (f : Fmt) (s sat : Bool) : Nat :=
  match sat, f.infCode, f.nanCode with
  | false, some ic, _ => f.withSign s ic
  | false, none, some nc => nc
  | _, _, _ => f.withSign s f.maxCode

/-- Tininess after rounding: the value rounded to p bits with an unbounded exponent is below the smallest normal. -/
def Fmt.tiny (f : Fmt) (m : Nat) (e : Int) : Bool :=
  let top : Int := (Nat.log2 m : Int) + e
  let q := top - ((f.prec - 1 : Nat) : Int)
  let r := (scaleRne m e q).1
  decide ((Nat.log2 r : Int) + q < f.emin)

/-- Round (-1)^s × m × 2^e to the format to nearest even, overflow by R51 (R50, R55). -/
def Fmt.round (f : Fmt) (sat : Bool) (s : Bool) (m : Nat) (e : Int) : Nat × FpFlags :=
  if m == 0 then (f.withSign s 0, {}) else
    let top : Int := (Nat.log2 m : Int) + e
    let q := max (top - ((f.prec - 1 : Nat) : Int)) f.qmin
    let (r, ix) := scaleRne m e q
    let code := (q - f.qmin).toNat * 2 ^ (f.prec - 1) + r
    if code > f.maxCode then (f.overflowCode s sat, { overflow := true, inexact := true })
    else (f.withSign s code, { underflow := ix && f.tiny m e, inexact := ix })

/-- sr_round (R54) on a magnitude. -/
def srRoundN (v d R r : Nat) : Nat :=
  if d == 0 then v else
    let q := v / 2 ^ d
    let f := v % 2 ^ d
    let fR := if d ≥ R then f / 2 ^ (d - R) else f * 2 ^ (R - d)
    if r < fR then q + 1 else q

/-- Round stochastically (R54): the significand of the finite input is m, drawn bits r of R. Underflow is judged on the code delivered.
DEDUCED, log entry 158. -/
def Fmt.roundSr (f : Fmt) (sat : Bool) (R r : Nat) (s : Bool) (m : Nat) (e : Int) : Nat × FpFlags :=
  if m == 0 then (f.withSign s 0, {}) else
    let top : Int := (Nat.log2 m : Int) + e
    let q := max (top - ((f.prec - 1 : Nat) : Int)) f.qmin
    let (v, ix) :=
      if e ≥ q then (m * 2 ^ (e - q).toNat, false)
      else
        let d := (q - e).toNat
        (srRoundN m d R r, m % 2 ^ d != 0)
    let code := (q - f.qmin).toNat * 2 ^ (f.prec - 1) + v
    if code > f.maxCode then (f.overflowCode s sat, { overflow := true, inexact := true })
    else (f.withSign s code, { underflow := ix && decide (code < 2 ^ (f.prec - 1)), inexact := ix })

/-- The canonical NaN; formats without one give +0 (R51). -/
def Fmt.nan (f : Fmt) : Nat := f.nanCode.getD 0

/-- A rounding: to nearest even, or stochastic with R bits and the drawn value (R50). -/
inductive Rounding where
  | rne
  | sr (R r : Nat)
deriving DecidableEq, Repr

/-- Round by the mode. -/
def Fmt.roundBy (f : Fmt) (md : Rounding) (sat : Bool) (s : Bool) (m : Nat) (e : Int) : Nat × FpFlags :=
  match md with
  | .rne => f.round sat s m e
  | .sr R r => f.roundSr sat R r s m e

/-- A convert of a value to a floating-point format (R51, R56): NaN to NaN (E2M1: +0 and invalid); an infinity by the
overflow rows of R51. -/
def Fmt.ofVal (f : Fmt) (md : Rounding) (sat : Bool) : FVal → Nat × FpFlags
  | .nan sig => (f.nan, { invalid := sig || f.nanCode.isNone })
  | .inf s =>
    let c := f.overflowCode s sat
    if some c == (f.infCode.map (f.withSign s)) then (c, {})
    else (c, { overflow := Config.infConvertFlags, inexact := Config.infConvertFlags })
  | .fin s m e => f.roundBy md sat s m e

/-- Range of the convert to an integer format: lowest and highest code value (R27). -/
def Fmt.intRange : Fmt → Int × Int
  | .int4 => (-8, 7) | .int2 => (-2, 1) | .tern => (-1, 1) | .int8 => (-128, 127) | .int16 => (-32768, 32767)
  | _ => (-2147483648, 2147483647)

/-- m × 2^e (magnitude) as an integer, rounded by the mode, and whether inexact. The integer is rounded as a
two's-complement value under stochastic rounding (R54: floor or one more). -/
def roundInt (md : Rounding) (s : Bool) (m : Nat) (e : Int) : Int × Bool :=
  if e ≥ 0 then
    let v : Int := ((m * 2 ^ e.toNat : Nat) : Int)
    (if s then -v else v, false)
  else
    let d := (-e).toNat
    let ix := m % 2 ^ d != 0
    match md with
    | .rne =>
      let v : Int := (rshiftRneN m d : Nat)
      (if s then -v else v, ix)
    | .sr R r =>
      let v : Int := if s then -(m : Int) else m
      let q := v / ((2 ^ d : Nat) : Int)
      let f := (v % ((2 ^ d : Nat) : Int)).toNat
      let fR := if d ≥ R then f / 2 ^ (d - R) else f * 2 ^ (R - d)
      (if r < fR then q + 1 else q, ix)

/-- A convert to an integer format always saturates; a NaN gives 0 and raises invalid (R51). Answers the integer. -/
def Fmt.intOfVal (f : Fmt) (md : Rounding) : FVal → Int × FpFlags
  | .nan _ => (0, .inv)
  | .inf s => (if s then f.intRange.1 else f.intRange.2, .inv)
  | .fin s m e =>
    let (v, ix) := roundInt md s m e
    if v < f.intRange.1 then (f.intRange.1, .inv)
    else if v > f.intRange.2 then (f.intRange.2, .inv)
    else (v, { inexact := ix && Config.convertIntInexact })

/-- The value of a code of any format, integer formats included (R27). -/
def Fmt.value (f : Fmt) (code : Nat) : FVal :=
  if f.isFloat then f.decode code
  else
    let v : Int := if f = .tern ∧ code % 4 = 2 then 0 else sext f.width code
    .fin (decide (v < 0)) v.natAbs 0

/-- A convert goes to a narrower format, which may round stochastically (R50). DEDUCED, log entry 128. -/
def Fmt.narrows (src dst : Fmt) : Bool := decide (dst.width < src.width)

/-- One convert of the vector unit between any two formats (R49 to R56). -/
def convert (src dst : Fmt) (md : Rounding) (sat : Bool) (code : Nat) : Nat × FpFlags :=
  if dst.isFloat then dst.ofVal md sat (src.value code)
  else
    let (v, fl) := dst.intOfVal md (src.value code)
    (toCode dst.width v, fl)

/-- Whether an operand is a signalling NaN. -/
def FVal.isSig : FVal → Bool
  | .nan sig => sig
  | _ => false

def FVal.isNan : FVal → Bool
  | .nan _ => true
  | _ => false

def FVal.sign : FVal → Bool
  | .nan _ => false
  | .inf s => s
  | .fin s _ _ => s

def FVal.isZero : FVal → Bool
  | .fin _ m _ => m == 0
  | _ => false

def FVal.neg : FVal → FVal
  | .nan g => .nan g
  | .inf s => .inf (!s)
  | .fin s m e => .fin (!s) m e

/-- The integer (-1)^s × m × 2^(e - q), q at or below e. -/
def signedAt (s : Bool) (m : Nat) (e q : Int) : Int :=
  let v : Int := ((m * 2 ^ (e - q).toNat : Nat) : Int)
  if s then -v else v

/-- Rounded sum of two finite values; an exact zero of unlike signs is +0. -/
def Fmt.addFin (f : Fmt) (s1 : Bool) (m1 : Nat) (e1 : Int) (s2 : Bool) (m2 : Nat) (e2 : Int) : Nat × FpFlags :=
  let q := min e1 e2
  let v := signedAt s1 m1 e1 q + signedAt s2 m2 e2 q
  if v == 0 then (f.withSign (s1 && s2) 0, {})
  else f.round false (decide (v < 0)) v.natAbs q

/-- Addition (R55). -/
def Fmt.addV (f : Fmt) (a b : FVal) : Nat × FpFlags :=
  match a, b with
  | .nan g, y => (f.nan, { invalid := g || y.isSig })
  | _, .nan g => (f.nan, { invalid := g })
  | .inf s, .inf t => if s == t then (f.withSign s (f.infCode.getD 0), {}) else (f.nan, .inv)
  | .inf s, .fin _ _ _ => (f.withSign s (f.infCode.getD 0), {})
  | .fin _ _ _, .inf t => (f.withSign t (f.infCode.getD 0), {})
  | .fin s1 m1 e1, .fin s2 m2 e2 => f.addFin s1 m1 e1 s2 m2 e2

def Fmt.add (f : Fmt) (a b : Nat) : Nat × FpFlags := f.addV (f.decode a) (f.decode b)
def Fmt.sub (f : Fmt) (a b : Nat) : Nat × FpFlags := f.addV (f.decode a) (f.decode b).neg

/-- Multiplication (R55). -/
def Fmt.mulV (f : Fmt) (a b : FVal) : Nat × FpFlags :=
  match a, b with
  | .nan g, y => (f.nan, { invalid := g || y.isSig })
  | _, .nan g => (f.nan, { invalid := g })
  | .inf s, y => if y.isZero then (f.nan, .inv) else (f.withSign (s != y.sign) (f.infCode.getD 0), {})
  | x, .inf t => if x.isZero then (f.nan, .inv) else (f.withSign (x.sign != t) (f.infCode.getD 0), {})
  | .fin s1 m1 e1, .fin s2 m2 e2 => f.round false (s1 != s2) (m1 * m2) (e1 + e2)

def Fmt.mul (f : Fmt) (a b : Nat) : Nat × FpFlags := f.mulV (f.decode a) (f.decode b)

/-- fusedMultiplyAdd with a single rounding (R55). -/
def Fmt.fmaV (f : Fmt) (a b c : FVal) : Nat × FpFlags :=
  let zeroInf : Bool :=
    match a, b with
    | .inf _, y => y.isZero
    | x, .inf _ => x.isZero
    | _, _ => false
  if a.isNan || b.isNan then (f.nan, { invalid := a.isSig || b.isSig || c.isSig })
  else
    match c with
    | .nan g => (f.nan, { invalid := g || (zeroInf && Config.fmaZeroInfNanInvalid) })
    | _ =>
      if zeroInf then (f.nan, .inv)
      else
        match a, b, c with
        | .fin s1 m1 e1, .fin s2 m2 e2, .fin s3 m3 e3 => f.addFin (s1 != s2) (m1 * m2) (e1 + e2) s3 m3 e3
        | .fin _ _ _, .fin _ _ _, z => (f.withSign z.sign (f.infCode.getD 0), {})
        | x, y, .inf t =>
          if (x.sign != y.sign) == t then (f.withSign t (f.infCode.getD 0), {}) else (f.nan, .inv)
        | x, y, _ => (f.withSign (x.sign != y.sign) (f.infCode.getD 0), {})

def Fmt.fma (f : Fmt) (a b c : Nat) : Nat × FpFlags := f.fmaV (f.decode a) (f.decode b) (f.decode c)

/-- Division (R55): a finite number over zero is an infinity and raises divide by zero. -/
def Fmt.divV (f : Fmt) (a b : FVal) : Nat × FpFlags :=
  match a, b with
  | .nan g, y => (f.nan, { invalid := g || y.isSig })
  | _, .nan g => (f.nan, { invalid := g })
  | .inf _, .inf _ => (f.nan, .inv)
  | .inf s, y => (f.withSign (s != y.sign) (f.infCode.getD 0), {})
  | x, .inf t => (f.withSign (x.sign != t) 0, {})
  | .fin s1 m1 e1, .fin s2 m2 e2 =>
    if m2 == 0 then
      if m1 == 0 then (f.nan, .inv) else (f.withSign (s1 != s2) (f.infCode.getD 0), { divZero := true })
    else if m1 == 0 then (f.withSign (s1 != s2) 0, {})
    else
      let k := f.prec + 3 + Nat.log2 m2
      let n := m1 * 2 ^ k
      let q := 2 * (n / m2) + (if n % m2 == 0 then 0 else 1)
      f.round false (s1 != s2) q (e1 - e2 - (k : Int) - 1)

def Fmt.div (f : Fmt) (a b : Nat) : Nat × FpFlags := f.divV (f.decode a) (f.decode b)

/-- squareRoot (R55). -/
def Fmt.sqrtV (f : Fmt) (a : FVal) : Nat × FpFlags :=
  match a with
  | .nan g => (f.nan, { invalid := g })
  | .inf s => if s then (f.nan, .inv) else (f.infCode.getD 0, {})
  | .fin s m e =>
    if m == 0 then (f.withSign s 0, {})
    else if s then (f.nan, .inv)
    else
      let (m1, e1) := if e % 2 == 0 then (m, e) else (2 * m, e - 1)
      let k := f.prec + 2
      let n := m1 * 2 ^ (2 * k)
      let r := isqrt n
      let q := 2 * r + (if r * r == n then 0 else 1)
      f.round false false q (e1 / 2 - (k : Int) - 1)

def Fmt.sqrt (f : Fmt) (a : Nat) : Nat × FpFlags := f.sqrtV (f.decode a)

/-- Order of two values that are not NaN; -0 orders below +0 when `zeros` (R46). -/
def FVal.lt (zeros : Bool) (a b : FVal) : Bool :=
  match a, b with
  | .nan _, _ => false
  | _, .nan _ => false
  | .inf s, .inf t => s && !t
  | .inf s, .fin _ _ _ => s
  | .fin _ _ _, .inf t => !t
  | .fin s1 m1 e1, .fin s2 m2 e2 =>
    let q := min e1 e2
    let x := signedAt s1 m1 e1 q
    let y := signedAt s2 m2 e2 q
    if m1 == 0 && m2 == 0 then zeros && s1 && !s2 else decide (x < y)

/-- Quiet comparisons of R55: less, equal, greater or unordered, as 0, 1, 2, 3. A quiet NaN raises nothing. DEDUCED, log entry 127. -/
def Fmt.cmp (f : Fmt) (a b : Nat) : Nat × FpFlags :=
  let x := f.decode a
  let y := f.decode b
  let fl : FpFlags := { invalid := x.isSig || y.isSig }
  if x.isNan || y.isNan then (3, fl)
  else if x.lt false y then (0, fl)
  else if y.lt false x then (2, fl)
  else (1, fl)

/-- maximumNumber (R46, R55). -/
def Fmt.maxNum (f : Fmt) (a b : Nat) : Nat × FpFlags :=
  let x := f.decode a
  let y := f.decode b
  let fl : FpFlags := { invalid := x.isSig || y.isSig }
  if x.isNan then (if y.isNan then f.nan else b, fl)
  else if y.isNan then (a, fl)
  else (if x.lt true y then b else a, fl)

/-- minimumNumber (R46, R55). -/
def Fmt.minNum (f : Fmt) (a b : Nat) : Nat × FpFlags :=
  let x := f.decode a
  let y := f.decode b
  let fl : FpFlags := { invalid := x.isSig || y.isSig }
  if x.isNan then (if y.isNan then f.nan else b, fl)
  else if y.isNan then (a, fl)
  else (if y.lt true x then b else a, fl)

/-- A subnormal code replaced by the zero of its sign (R44). -/
def Fmt.flush (f : Fmt) (code : Nat) : Nat :=
  if f.isFloat && (code % 2 ^ (f.width - 1)) < 2 ^ (f.prec - 1) then f.withSign (bitAt code (f.width - 1)) 0 else code

/-- The sign bit cleared. -/
def Fmt.abs (f : Fmt) (code : Nat) : Nat := code % 2 ^ (f.width - 1)

/-- The code of v × 2^k, k at most 0, computed exactly, a subnormal product flushed to the zero of its sign (R44, R63). -/
def Fmt.scaleFlush (f : Fmt) (code : Nat) (k : Int) : Nat :=
  match f.decode code with
  | .nan _ => f.nan
  | .inf s => f.withSign s (f.infCode.getD 0)
  | .fin s m e => if m != 0 && decide ((Nat.log2 m : Int) + e + k < f.emin) then f.withSign s 0 else (f.round false s m (e + k)).1

/-- The code of v × 2^k for a finite v; rounding only where the product leaves the normal range. -/
def Fmt.scaleB (f : Fmt) (code : Nat) (k : Int) : Nat :=
  match f.decode code with
  | .nan _ => f.nan
  | .inf s => f.withSign s (f.infCode.getD 0)
  | .fin s m e => (f.round false s m (e + k)).1

end Sys2Proof.Machine
end

