-- ==== Sys2Proof/Machine/Exact.lean ====
section
/-!
DEFINITION. The exact class (R31 to R35, R52, R62, R64 to R66) and the bounded class (R37, R38, R41 to R46, R63, R67)
as functions of operands.
-/
namespace Sys2Proof.Machine

/-- narrow (R33). -/
def narrow (x : Int) (nbits : Nat) (wrap : Bool) : Int :=
  let lo : Int := -((2 ^ (nbits - 1) : Nat) : Int)
  let hi : Int := ((2 ^ (nbits - 1) : Nat) : Int) - 1
  if wrap then
    let m := x % ((2 ^ nbits : Nat) : Int)
    if m > hi then m - ((2 ^ nbits : Nat) : Int) else m
  else if x < lo then lo
  else if x > hi then hi
  else x

/-- acc_readout (R33). -/
def accReadout (x : Int) (wrap : Bool) : Int := narrow x 32 wrap

/-- rshift_rne (R34). -/
def rshiftRne (x : Int) (n : Nat) : Int :=
  if n == 0 then x else
    let q := x / ((2 ^ n : Nat) : Int)
    let r := x - q * ((2 ^ n : Nat) : Int)
    let half : Int := ((2 ^ (n - 1) : Nat) : Int)
    if r > half || (r == half && q % 2 == 1) then q + 1 else q

/-- requantise (R34). -/
def requantise (acc : Int) (n outBits : Nat) (wrap : Bool) : Int := narrow (rshiftRne acc n) outBits wrap

/-- shift_rne (R66): a negative count shifts left. -/
def shiftRne (x : Int) (n : Int) : Int := if n ≥ 0 then rshiftRne x n.toNat else x * ((2 ^ (-n).toNat : Nat) : Int)

/-- PRE_OP of R35 and R59 with its parameters. -/
inductive PreOp where
  | none
  | relu
  | leaky (k : Nat)
  | clamp (lo hi : Int)
deriving DecidableEq, Repr

/-- The pre-operation on an integer, narrowed to the intermediate width of 32 bits (R35, R66). -/
def PreOp.onInt (p : PreOp) (wrap : Bool) (x : Int) : Int :=
  match p with
  | .none => x
  | .relu => narrow (if x > 0 then x else 0) 32 wrap
  | .leaky k => narrow (if x ≥ 0 then x else rshiftRne x k) 32 wrap
  | .clamp lo hi => narrow (if x < lo then lo else if x > hi then hi else x) 32 wrap

/-- The channel stage (R66): narrow(shift_rne(acc, -kappa), 32). -/
def channelStage (acc kappa : Int) (wrap : Bool) : Int := narrow (shiftRne acc (-kappa)) 32 wrap

/-- log2 of the square root of n, for n of 16, 64 and 256 (R62). -/
def rotShift (n : Nat) : Nat := if n == 256 then 4 else if n == 64 then 3 else 2

/-- rotate_exact (R62). -/
def rotateExact (u : List Int) (n : Nat) (sgn : List Bool) (wrap : Bool) : List Int :=
  (List.range n).map fun i =>
    let s := (List.range n).foldl (fun (acc : Int) j =>
      let t := let x := listGet u j 0; if listGet sgn j false then -x else x
      if popCount 9 (i &&& j) % 2 == 1 then acc - t else acc + t) 0
    narrow (rshiftRne s (rotShift n)) 32 wrap

/-- One butterfly stage of R63 on positions i, i + h. -/
def butterflyStage (x : List Nat) (h : Nat) : List Nat :=
  (List.range x.length).map fun i =>
    if i / h % 2 == 0 then (Fmt.fp32.add (listGet x i 0) (listGet x (i + h) 0)).1
    else (Fmt.fp32.sub (listGet x (i - h) 0) (listGet x i 0)).1

/-- rotate_bounded (R63) on binary32 codes. -/
def rotateBounded (u : List Nat) (n : Nat) (sgn : List Bool) : List Nat :=
  let f := Fmt.fp32
  let x := (List.range n).map fun i =>
    let c := f.flush (listGet u i 0)
    if listGet sgn i false then (if (f.decode c).isNan then f.nan else (c + 2 ^ 31) % 2 ^ 32) else c
  let y := (List.range (Nat.log2 n)).foldl (fun z k => butterflyStage z (2 ^ k)) x
  y.map fun c => f.scaleFlush c (-(rotShift n : Int))

/-- The fields of a record that its row stage reads (R59). -/
structure RowCfg where
  outFmt    : Fmt
  baseShift : Nat
  rowMin    : Int
  rowMax    : Int
  wrap      : Bool
  preOp     : PreOp
  table     : Option (List Int)
  rotN      : Nat
deriving DecidableEq, Repr

/-- One requantised row: codes, exponent, clipped count. -/
structure RowOut where
  q       : List Int
  rho     : Int
  clipped : Nat
deriving DecidableEq, Repr

/-- Rotation of a row by groups (R62). -/
def rotateRow (u : List Int) (n : Nat) (sgn : List Bool) (wrap : Bool) : List Int :=
  if n == 0 then u
  else (List.range (u.length / n)).flatMap fun g => rotateExact ((u.drop (g * n)).take n) n ((sgn.drop (g * n)).take n) wrap

/-- The first r from 0 to s_max with shift_rne(m, b + r - rho_w) ≤ Q, else s_max + 1 (R66). -/
def rowRaw (m : Int) (b sMax : Nat) (rhoW Q : Int) : Nat :=
  (findFrom (fun r => decide (shiftRne m ((b : Int) + r - rhoW) ≤ Q)) (sMax + 1) 0).getD (sMax + 1)

/-- The row stage of R66 after the channel stage, the pre-operation and the rotation. -/
def rowExactFrom (c : RowCfg) (u : List Int) (rhoW : Int) (wide : Bool) : RowOut :=
  if c.outFmt = .int32 then { q := u, rho := rhoW, clipped := 0 }
  else
    let is16 := wide || c.outFmt = .int16
    let nb := if is16 then 16 else 8
    let Q : Int := if is16 then 32767 else 127
    let m := u.foldl (fun (a : Int) x => max a x.natAbs) 0
    let raw := rowRaw m c.baseShift c.rowMax.toNat rhoW Q
    let rho := min (max (raw : Int) c.rowMin) c.rowMax
    let t := u.map fun x => shiftRne x ((c.baseShift : Int) + rho - rhoW)
    { q := t.map fun x =>
        let y := narrow x nb c.wrap
        match c.table with
        | some tb => listGet tb ((min (max y (-128)) 127) + 128).toNat 0
        | none => y
      rho := rho
      clipped := (t.filter fun x => decide ((x.natAbs : Int) > Q)).length }

/-- row_exact (R66). -/
def rowExact (c : RowCfg) (acc kappa : List Int) (sgn : List Bool) (rhoW : Int) (wide : Bool) : RowOut :=
  let u := (List.range acc.length).map fun i =>
    c.preOp.onInt c.wrap (channelStage (listGet acc i 0) (listGet kappa i 0) c.wrap)
  rowExactFrom c (rotateRow u c.rotN sgn c.wrap) rhoW wide

/-- sr_seed (R52). -/
def srSeed (seed lane : Nat) : Nat :=
  let x := (seed % 2 ^ 64) ^^^ (lane * 0x9E3779B9 % 2 ^ 64)
  ((x % 2 ^ 32) ^^^ (x / 2 ^ 32)) ||| 1

/-- sr_draw (R52): the next state and the R top bits. -/
def srDraw (state R : Nat) : Nat × Nat :=
  let t := (state ^^^ (state * 2 ^ 13 % 2 ^ 32))
  let t := t ^^^ (t / 2 ^ 17)
  let t := t ^^^ (t * 2 ^ 5 % 2 ^ 32)
  (t, t / 2 ^ (32 - R))

/-- L(F) of R67 as an integer. -/
def limitOf : Fmt → Nat
  | .int4 => 7 | .int2 => 1 | .tern => 1 | .e2m1 => 6 | .e4m3 => 448 | .e5m2 => 57344 | _ => 65504

/-- Whether |v| ≤ L × 2^r, exactly (R67). -/
def leScaled (m : Nat) (e : Int) (L : Nat) (r : Int) : Bool :=
  let q := min e r
  decide (m * 2 ^ (e - q).toNat ≤ L * 2 ^ (r - q).toNat)

/-- The smallest integer r with m × 2^e ≤ L × 2^r, m positive (R67). -/
def rawBounded (m : Nat) (e : Int) (L : Nat) : Int :=
  let base := e + (Nat.log2 m : Int) - (Nat.log2 L : Int) - 1
  match findFrom (fun k => leScaled m e L (base + k)) 4 0 with
  | some k => base + k
  | none => base + 4

/-- A row of the bounded class: codes, exponent, clipped count, flags. -/
structure RowOutB where
  q       : List Nat
  rho     : Int
  clipped : Nat
  flags   : FpFlags
deriving DecidableEq, Repr

/-- One element of row_bounded (R67): t = v × 2^-rho, clipped to ±L, converted once with SAT = 1. -/
def rowElem (src F : Fmt) (L : Nat) (rho : Int) (md : Rounding) (v : Nat) : Nat × Bool × FpFlags :=
  let conv (x : FVal) : Nat × FpFlags :=
    if F.isFloat then F.ofVal md true x else let (y, fl) := F.intOfVal md x; (toCode F.width y, fl)
  match src.decode v with
  | .nan g => let (c, fl) := conv (.nan g); (c, false, fl)
  | .inf s => let (c, fl) := conv (.fin s L 0); (c, true, fl)
  | .fin s m e =>
    if leScaled m (e - rho) L 0 then let (c, fl) := conv (.fin s m (e - rho)); (c, false, fl)
    else let (c, fl) := conv (.fin s L 0); (c, true, fl)

/-- An element stored as FP32 or FP64 (R44, R49, R67): subnormals flushed, and converted where the value's format is the other one, with a SAT
that the spec does not give (R51). DEDUCED, log entry 153. -/
def storeFloat (src out : Fmt) (md : Rounding) (v : Nat) : Nat × FpFlags :=
  if src = out then (out.flush v, {})
  else
    let a := out.ofVal md (Config.storeSat v) (src.decode v)
    (out.flush a.1, a.2)

/-- row_bounded (R67) on binary32 or binary64 codes, one rounding mode per element. -/
def rowBounded (src outFmt : Fmt) (sMin sMax : Int) (wide : Bool) (v : List Nat) (mds : List Rounding) : RowOutB :=
  if !wide && (outFmt = .fp32 || outFmt = .fp64) then
    let rs := (List.range v.length).map fun i => storeFloat src outFmt (listGet mds i .rne) (listGet v i 0)
    { q := rs.map (·.1), rho := 0, clipped := 0, flags := rs.foldl (fun a r => a.or r.2) {} }
  else
    let F := if wide then Fmt.fp16 else outFmt
    let L := limitOf F
    let m := v.foldl (fun a x => (src.maxNum a (src.abs x)).1) src.nan
    let raw : Int :=
      match src.decode m with
      | .nan _ => sMin
      | .inf _ => sMax
      | .fin _ mm e => if mm == 0 then sMin else rawBounded mm e L
    let rho := min (max raw sMin) sMax
    let rs := (List.range v.length).map fun i => rowElem src F L rho (listGet mds i .rne) (listGet v i 0)
    { q := rs.map (·.1), rho := rho, clipped := (rs.filter (·.2.1)).length
      flags := rs.foldl (fun a r => a.or r.2.2) {} }

/-- The cell operand form (R37) or a whole wide significand (R38), specials apart (R43). -/
inductive CellOp where
  | nan
  | inf (s : Bool)
  | fin (s : Bool) (m : Nat) (e : Int)
deriving DecidableEq, Repr

/-- Expansion of a code to the cell operand form (R37, R38), after the flush of R44. -/
def cellOp (f : Fmt) (code : Nat) : CellOp :=
  match f.value (if f = .e2m1 then code else f.flush code) with
  | .nan _ => .nan
  | .inf s => .inf s
  | .fin s m e => .fin s m e

/-- The exponent of an operand raised by a row or channel exponent (R37). -/
def CellOp.scale (k : Int) : CellOp → CellOp
  | .fin s m e => .fin s m (e + k)
  | c => c

/-- W of R41. -/
def windowBits : Fmt → Nat
  | .fp16 => 40 | .fp32 => 56 | .fp64 => 112 | _ => 28

/-- One product: sign, magnitude, exponent (R41); none marks a NaN, an infinity is kept apart (R43). -/
inductive Product where
  | nan
  | inf (s : Bool)
  | fin (s : Bool) (P : Nat) (x : Int)
deriving DecidableEq, Repr

/-- A product of two cell operands (R31, R43, R45). -/
def CellOp.mul (a b : CellOp) : Product :=
  match a, b with
  | .nan, _ => .nan
  | _, .nan => .nan
  | .inf s, .inf t => .inf (s != t)
  | .inf s, .fin t m _ => if m == 0 then .nan else .inf (s != t)
  | .fin s m _, .inf t => if m == 0 then .nan else .inf (s != t)
  | .fin s m e, .fin t n g => .fin (s != t) (m * n) (e + g)

/-- group_sum (R41) over finite products. -/
def groupSum (ps : List (Bool × Nat × Int)) (W : Nat) : Int × Int :=
  let nz := ps.filter fun p => p.2.1 != 0
  match nz with
  | [] => (0, 0)
  | p :: rest =>
    let top (q : Bool × Nat × Int) : Int := (floorLog2 q.2.1 : Int) + q.2.2
    let E := rest.foldl (fun a q => max a (top q)) (top p)
    let i := E - (W : Int) + 1
    let S := nz.foldl (fun (a : Int) q =>
      let T : Nat := if q.2.2 ≥ i then q.2.1 * 2 ^ (q.2.2 - i).toNat else q.2.1 / 2 ^ (i - q.2.2).toNat
      if q.1 then a - T else a + T) 0
    (S, i)

/-- The group value of R43 and R45 as a value to add. -/
def groupValue (ps : List Product) (W : Nat) : FVal :=
  if ps.any (· == .nan) then .nan false
  else
    let pos := ps.any (· == .inf false)
    let neg := ps.any (· == .inf true)
    if pos && neg then .nan false
    else if pos then .inf false
    else if neg then .inf true
    else
      let fs := ps.filterMap fun p => match p with | .fin s P x => some (s, P, x) | _ => none
      let (S, i) := groupSum fs W
      if S == 0 then .fin (!fs.isEmpty && fs.all fun p => p.1 && p.2.1 == 0) 0 0
      else .fin (decide (S < 0)) S.natAbs i

/-- One accumulator addition of the bounded class (R42, R44): rounded once, a subnormal result flushed. -/
def accAdd (f : Fmt) (acc : Nat) (g : FVal) : Nat := f.flush (f.addV (f.decode acc) g).1

end Sys2Proof.Machine
end

