-- ==== Sys2Proof/Machine/Map.lean ====
section
/-!
DEFINITION. Sparse tables by number: a list of number and value pairs, read with a default.
-/
namespace Sys2Proof.Machine

/-- A sparse table: the entries listed, numbers rising. -/
abbrev SMap (α : Type) := List (Nat × α)

/-- The entry of k, if it is listed. -/
def SMap.find {α : Type} : SMap α → Nat → Option α
  | [], _ => none
  | (k, v) :: m, n => if k = n then some v else SMap.find m n

/-- The entry of k, or d where none is listed. -/
def SMap.get {α : Type} (m : SMap α) (k : Nat) (d : α) : α := (SMap.find m k).getD d

/-- The table with the entry of k set to v, in rising order of numbers. -/
def SMap.put {α : Type} : SMap α → Nat → α → SMap α
  | [], n, v => [(n, v)]
  | (k, w) :: m, n, v =>
    if n < k then (n, v) :: (k, w) :: m
    else if k = n then (n, v) :: m
    else (k, w) :: SMap.put m n v

/-- The table without the entry of k. -/
def SMap.del {α : Type} (m : SMap α) (k : Nat) : SMap α := m.filter (fun e => e.1 != k)

/-- The entry of k, if listed, changed by f. -/
def SMap.upd {α : Type} (m : SMap α) (k : Nat) (f : α → α) : SMap α :=
  m.map (fun e => if e.1 = k then (e.1, f e.2) else e)

/-- Every entry changed by f. -/
def SMap.mapVals {α : Type} (m : SMap α) (f : Nat → α → α) : SMap α := m.map (fun e => (e.1, f e.1 e.2))

/-- The numbers listed. -/
def SMap.keys {α : Type} (m : SMap α) : List Nat := m.map (·.1)

/-- The values listed. -/
def SMap.vals {α : Type} (m : SMap α) : List α := m.map (·.2)

/-- Whether k is listed. -/
def SMap.has {α : Type} (m : SMap α) (k : Nat) : Bool := m.any (fun e => e.1 == k)

end Sys2Proof.Machine
end

