-- ==== Sys2Proof/Machine/Mem.lean ====
section
/-!
DEFINITION. Byte memories: lists of address and byte pairs in one canonical form (addresses strictly rising, no
entry equal to what an unlisted address reads as). Host memory, the device's HBM, a plain's pool and a tile's SRAM
are such memories. An unlisted byte reads 0 (log entry 5).
-/
namespace Sys2Proof.Machine

/-- A byte memory. -/
abbrev Mem := List Host.Cell

/-- What an unlisted address reads as (log entry 5). -/
def Mem.unlisted : Byte := 0

/-- The byte at address a. -/
def Mem.read : Mem → Nat → Byte
  | [], _ => Mem.unlisted
  | (k, v) :: m, a => if k = a then v else Mem.read m a

/-- Put byte v at address a ahead of the memory, unless it is what an unlisted address reads as. -/
def Mem.consCell (a : Nat) (v : Byte) (m : Mem) : Mem := if v = Mem.unlisted then m else (a, v) :: m

/-- The memory with byte v at address a, in canonical form. -/
def Mem.write : Mem → Nat → Byte → Mem
  | [], a, v => Mem.consCell a v []
  | (k, w) :: m, a, v =>
    if a < k then Mem.consCell a v ((k, w) :: m)
    else if k = a then Mem.consCell a v m
    else (k, w) :: Mem.write m a v

/-- All addresses of a memory lie at or above lo, strictly rising, no value that an unlisted address has. -/
def Mem.wfFrom : Nat → Mem → Bool
  | _, [] => true
  | lo, (k, v) :: m => decide (lo ≤ k) && v != Mem.unlisted && Mem.wfFrom (k + 1) m

/-- The canonical form. -/
def Mem.wf (m : Mem) : Bool := Mem.wfFrom 0 m

/-- n bytes from address a. -/
def Mem.readN (m : Mem) (a : Nat) : Nat → Bytes
  | 0 => []
  | n + 1 => m.read a :: Mem.readN m (a + 1) n

/-- The memory with the bytes stored from address a upwards. -/
def Mem.writeN (m : Mem) (a : Nat) : Bytes → Mem
  | [] => m
  | b :: bs => Mem.writeN (m.write a b) (a + 1) bs

end Sys2Proof.Machine
end

