-- ==== Sys2Proof/Machine/Types.lean ====
section
/-!
DEFINITION. The parts of the block's state outside the media streams: modes, rings, units, instruments, the pair, the
chain, clocks, tiles and fuses.
-/
namespace Sys2Proof.Machine

/-- What the device is doing as a whole (R329, R391, R404, R409 to R412, R436). -/
inductive Mode where
  /-- Held by a reset input (R411). -/
  | held
  /-- Held by the power-on reset until the rails have been in window (R406). -/
  | powerOn
  /-- Boot step 1: waiting in reset for the root PLL (R412). -/
  | waitRef
  /-- Boot steps 3 to 6, waiting for START or failed (R412). -/
  | boot
  /-- READY reported (R412). -/
  | ready
  /-- Fail-stop (R329). -/
  | failStop
  /-- Frozen (R391). -/
  | frozen
  /-- Quiesced after reference loss (R404). -/
  | quiesced
deriving DecidableEq, Repr

/-- Pin levels, high as true (R390, R411, R453). frzArmed is false from a reset released with FRZ_N low until FRZ_N rises. -/
structure Pins where
  perst    : Bool
  devRst   : Bool
  frz      : Bool
  frzArmed : Bool
  therm    : Bool
deriving DecidableEq, Repr

/-- A range of host addresses whose accesses fail (R301); writes fail only by a refused ATS translation. DESIGN CHOICE, log entry 6. -/
structure HostFault where
  addr  : Nat
  len   : Nat
  write : Bool
deriving DecidableEq, Repr

/-- A descriptor ring (R286 to R289): a held write of ACC (R301), and whether it is the 0 of the ring's enabling (R288). -/
structure DRing where
  en      : Bool
  base    : Nat
  log2    : Nat
  cq      : Nat
  acc     : Nat
  accHeld : Bool
  zeroHeld : Bool
deriving DecidableEq, Repr

/-- A decided completion (R296): FLAGS without PHASE. -/
structure Cpl where
  tag      : Nat
  result   : Nat
  status   : Nat
  flags    : Nat
  ring     : Nat
  index    : Nat
  time     : Nat
  irqNow   : Bool
  hallmark : Option Bytes
deriving DecidableEq, Repr

/-- A completion ring (R286, R289, R302): held writes wait in queue, in order. -/
structure CRing where
  en       : Bool
  irqEn    : Bool
  base     : Nat
  log2     : Nat
  vector   : Nat
  modCount : Nat
  modTime  : Nat
  hmBase   : Nat
  wr       : Nat
  wrHeld   : Bool
  zeroHeld : Bool
  queue    : List Cpl
  pend     : Nat
  oldest   : Option Nat
deriving DecidableEq, Repr

/-- A model handle of a function (R150 to R153): package number, load count, and the acceptance number of the first descriptor for which it exists. -/
structure Handle where
  pkg   : Nat
  count : Nat
  since : Nat
deriving DecidableEq, Repr

/-- A function of the device (R283). -/
structure Fn where
  drings    : SMap DRing
  crings    : SMap CRing
  lastStart : Nat
  again     : Bool
  cons      : SMap Nat
  d3        : Bool
  msixEn    : Bool
  fmask     : Bool
  handles   : SMap Handle
  accepts   : Nat
  completes : Nat
  retires   : Nat
deriving DecidableEq, Repr

/-- How far an accepted descriptor has come: waiting to begin, begun with its completion to come, armed (R350). -/
inductive Stage where
  | waiting
  | begun
  | armed
deriving DecidableEq, Repr

/-- An accepted descriptor that has not completed (R291, R292), with the time of its acceptance. -/
structure Acc where
  seq      : Nat
  time     : Nat
  func     : Nat
  ring     : Nat
  cq       : Nat
  index    : Nat
  raw      : Bytes
  stage    : Stage
  injected : Bool
deriving DecidableEq, Repr

/-- What the block has sent to the outside, oldest first. DEDUCED, log entry 146. -/
inductive Output where
  | msix (addr data : Nat)
  | chainFrame (bytes : Bytes)
  | heartbeat (link seq : Nat) (serial : BitVec 64) (roles : List SlotRole)
  | helloSent (link seq : Nat) (data : HelloData)
  | replay (link seq count : Nat)
  | attachSent (mirrorId : BitVec 64) (active : Bool)
  | epoch (slot number : Nat) (full : Bool) (image : EpochImage)
  | epochAck (slot number : Nat) (committed : Bool)
  | abortRec (slot : Nat)
  | switchRec (slot : Nat)
  | switchAck (slot : Nat)
  | closing (slot : Nat) (closed : Bool)
  | relinquishRec (slot : Nat)
  | aer
deriving DecidableEq, Repr

/-- The host interface (R281 to R310). -/
structure HostIf where
  fns      : SMap Fn
  accepted : List Acc
  nextSeq  : Nat
  outputs  : List Output
  vfs      : Nat
  gts      : Nat
  width    : Nat
deriving DecidableEq, Repr

/-- One plain's placement, spares and pool (R105, R375 to R382, R407). -/
structure Plain where
  failed   : Bool
  gated    : Bool
  idleFrom : Option Nat
  div      : Nat
  phase    : Nat
  place    : SMap Nat
  softMap  : List Nat
  bad      : List Nat
  lost     : List Nat
  testPos  : Option Nat
  arrays   : SMap (Option Nat × List Nat × Bool)
  srams    : SMap (List Nat)
  ecc      : SMap Nat
  pool     : Mem
  rimDown  : Bool
  warpDown : Bool
deriving DecidableEq, Repr

/-- The running in-service test (R384 to R386): KIND, the fields of DBG_TSTSEL with the physical position of a tile, and whether
its unit is still to be withdrawn. -/
structure Test where
  kind    : Nat
  cls     : Nat
  plain   : Nat
  inst    : Nat
  pos     : Nat
  waiting : Bool
deriving DecidableEq, Repr

/-- A physical entropy engine (R155, R173): failed, withdrawn, and the logical engine it serves. -/
structure Engine where
  failed    : Bool
  withdrawn : Bool
  role      : Option Nat
  held      : Option UnitRef
deriving DecidableEq, Repr

/-- A lossless engine (R319, R322): the host job it runs (acceptance number), suspended, a booked segment in it, failed. -/
structure Lle where
  job       : Option Nat
  suspended : Bool
  segment   : Bool
  failed    : Bool
deriving DecidableEq, Repr

/-- The units shared by the plains, and the repair state. -/
structure Units where
  plains   : List Plain
  engines  : List Engine
  lles     : List Lle
  regionDown : List Bool
  rimSpare : Option Nat
  rimSpareFailed : Bool
  soft     : List (BitVec 64)
  test     : Option Test
  hbmUp    : List Bool
  hbmRep   : List Nat
deriving DecidableEq, Repr

/-- A trace record waiting its hold (R427, R428). -/
structure TRec where
  time    : Nat
  typ     : Nat
  domain  : Nat
  source  : Nat
  payload : Bytes
deriving DecidableEq, Repr

/-- Counters, sampling, dumps and trace (R418 to R429). A counter at 2^48 has overflowed. ledger holds the counts of the last audit by
ledger × 8,192 + instance; audited is the revolution of the last audit and its free value (R327, R331). lastU and sampAt name a
micro-instruction: tile, code, record, stream index (R426). -/
structure Inst where
  cnt       : SMap Nat
  capture   : Nat
  sampCount : Nat
  sampTaken : Nat
  lastDump  : Nat
  seq       : Nat
  skipped   : Nat
  first     : Bool
  cleared   : Bool
  clearTime : Nat
  injSince  : Bool
  holdSince : Bool
  cfgErr    : Bool
  trace     : List TRec
  dropped   : Nat
  dropTime  : Nat
  ledger    : SMap (Nat × Nat × Nat)
  audited   : Option (Nat × Nat)
  dumped    : Nat
  written   : Nat
  lastU     : Nat × Nat × Nat × Nat
  sampAt    : Nat × Nat × Nat × Nat
deriving DecidableEq, Repr

/-- A pass link (R345 to R348): sequence number of its next flit, and flits in its replay buffer. -/
structure PassLink where
  up       : Bool
  everUp   : Bool
  dead     : Bool
  serial   : Option (BitVec 64)
  lastBeat : Nat
  failLane : Option Nat
  replayed : Nat
  txSeq    : Nat
  kept     : Nat
deriving DecidableEq, Repr

/-- The role of a mirror slot (R350, R366, R368). -/
inductive Role where
  | free | active | standby | held
deriving DecidableEq, Repr

/-- The state of a mirror slot (R368). -/
inductive SlotState where
  | attaching | inSync | degraded | resync | takenOver | conflict
deriving DecidableEq, Repr

/-- An epoch sent and not acknowledged (R357, R358): number, times sent, opening time, whether in full, the access units it
ends, its image, and the feature buffers it holds. -/
structure Sent where
  number : Nat
  times  : Nat
  opened : Nat
  full   : Bool
  image  : EpochImage
  bufs   : List Nat
deriving DecidableEq, Repr

/-- A mirror slot (R350 to R366). ready holds the images of closed access units that no epoch has sent yet; covered is the number of access units they
cover; mark is NEXT_UNIT and LAST_ID of the committed epoch (R361); incoming tells an epoch whose opening record has come and whose closing record has
not, foreign a slot whose partner came back with another serial (R359). -/
structure Slot where
  role      : Role
  state     : SlotState
  func      : Nat
  stream    : Nat
  mirrorId  : BitVec 64
  booking   : Nat
  period    : Nat
  epochNo   : Option Nat
  nextEpoch : Nat
  ready     : List EpochImage
  covered   : Nat
  mark      : Nat × Nat
  sent      : List Sent
  fullNext  : Bool
  opened    : Nat
  acked     : Nat
  discarded : Nat
  forced    : Bool
  attachSeq : Option Nat
  watchSeq  : Option Nat
  switchSeq : Option Nat
  switchOut : Bool
  incoming  : Bool
  foreign   : Bool
deriving DecidableEq, Repr

/-- An ATTACH that waits for its match (R352). -/
structure WaitAttach where
  seq      : Nat
  func     : Nat
  stream   : Nat
  mirrorId : BitVec 64
  active   : Bool
deriving DecidableEq, Repr

/-- The pair (R345 to R366). detaching holds the DETACHes, by acceptance number and MIRROR_ID, that wait until the other end's slot is free (R351). -/
structure Pair where
  links     : List PassLink
  slots     : SMap Slot
  waiting   : List WaitAttach
  hellos    : List (Option HelloData)
  silent    : Bool
  evidence  : Option Nat
  lastBeat  : Nat
  mpl       : Option Nat
  miswired  : Bool
  partner   : Nat
  mplCap    : Nat
  detaching : List (Nat × BitVec 64)
deriving DecidableEq, Repr

/-- The management chain (R337 to R344). -/
structure Chain where
  addr      : Nat
  head      : Bool
  count     : Nat
  full      : Bool
  conflict  : Bool
  ringOk    : Bool
  surveyOut : Bool
  statusDue : Bool
  hostQuery : Option (Nat × Nat)
  ownQuery  : Option (Nat × Nat)
  qres      : Nat
  qstate    : Nat
  qfw       : Nat
  crcDrops  : Nat
deriving DecidableEq, Repr

/-- One plain's throttle causes (R397 to R401). -/
structure PlainClk where
  cap     : Nat
  thermal : Bool
  vmin    : Bool
  tempDeci : Nat
  hotFrom : Option Nat
deriving DecidableEq, Repr

/-- Clocks and power (R395 to R407): plains, neighbour causes (hot, other), root state, rails out of window (bit per
rail), calibration user offsets by KIND × 256 + INDEX. -/
structure Clocks where
  plains     : List PlainClk
  neighbours : List (Nat × Nat)
  locked     : Bool
  holdover   : Bool
  holdFrom   : Nat
  standby    : Bool
  refPpm     : Int
  railsOut   : Nat
  measured   : Nat
  capMiss    : Bool
  calUser    : SMap Int
deriving DecidableEq, Repr

/-- An array of a tile (R76, R78, R86, R103): words by physical row × 66 + physical column, accumulator entries. -/
structure ArrayState where
  activeW : SMap Nat
  shadow  : SMap Nat
  acc     : SMap Nat
deriving DecidableEq, Repr

/-- The generators and scale registers of a record that is switched out (R97, R99). -/
structure SavedRec where
  gens  : List Nat
  kappa : List Int
  bias  : List Nat
deriving DecidableEq, Repr

/-- Statistics of a record's execution (R69, R71). -/
structure RecStat where
  total   : Nat
  clipped : Nat
  fp      : FpFlags
  excess    : Bool
  ran     : Bool
  spent   : Bool
  tamli   : Bool
  reruns  : Nat
deriving DecidableEq, Repr

/-- A halo word on the mesh (R116, R457): receiving tile, producing and consuming record of the stack, the sender's side at the receiver (0 left, 1
right, 2 its own sliver), the sending part, the row, and whether the word is the last of the row's transfer. -/
structure HaloMsg where
  dest : Nat
  prod : Nat
  rcd  : Nat
  side : Nat
  part : Nat
  y    : Nat
  last : Bool
  data : Bytes
deriving DecidableEq, Repr

/-- A quantisation cell whose rows the row stage has begun (R68, R97): total and clipped elements of its narrow pass, the elements of its wide
re-run so far, and the generators of that re-run, none before it. -/
structure CellRun where
  total   : Nat
  clipped : Nat
  wide    : Nat
  gens    : Option (List Nat)
deriving DecidableEq, Repr

/-- A logical tile (R76 to R102). owner is the stream (index and generation) whose records its sequencer holds: stack of the entry,
records (program and index); cur is the record in the generators and scale registers; begun are the records in execution. ckpt and
ckptHalos are its fault checkpoint (R375); planted holds the SECDED errors that INJ_ERR planted, by 64-bit group, true for a
double-bit error (R389). winGroup is the first channel group in the window register, winWide whether its codes are a wide re-run's; stored marks the
output positions stored in the execution, true for a wide one; inbox holds the words of transfers that are not complete; rowIn the positions that other
tiles sent for records that read row layout (R457). -/
structure Tile where
  arrays   : List ArrayState
  sram     : Mem
  win      : SMap Int
  winRho   : SMap Int
  winGroup : Nat
  winWide  : Bool
  rhoW     : Int
  owner    : Option (Nat × Nat)
  stack    : Nat
  recs     : List (Nat × Nat)
  cur      : Nat
  begun    : List Nat
  ended    : List Nat
  kappa    : List Int
  bias     : List Nat
  gens     : List Nat
  saved    : SMap SavedRec
  epi      : SMap Int
  rowQ     : List Int
  rowRho   : Int
  rowWide  : Bool
  vregs    : SMap (List Int)
  cells    : SMap CellRun
  stats    : SMap RecStat
  stored   : SMap Bool
  inbox    : SMap Bytes
  rowIn    : SMap (List Int × Int × Bool)
  halos    : SMap Nat
  stall    : Option (Nat × Nat)
  retired  : Nat
  ckpt     : Mem
  ckptHalos : SMap Nat
  planted  : SMap Bool
deriving DecidableEq, Repr

/-- The tiles touched so far, and the halo words on the meshes. -/
structure Tiles where
  tiles : SMap Tile
  mesh  : List HaloMsg
deriving DecidableEq, Repr

/-- The fuses: factory values (R380, R413, R416, R438) and the 64 records, an arming, a burn in progress (R381). -/
structure Fuses where
  serial   : Nat
  keys     : List Bytes
  revoked  : Nat
  svnMin   : Nat
  cal      : SMap Int
  factory  : List (BitVec 64)
  records  : List (BitVec 64)
  armedAt  : Option Nat
  burning  : Option (Nat × BitVec 64)
  result   : Nat
deriving DecidableEq, Repr

/-- The injection unlock sequence (R387): words accepted so far and the time of the last. -/
structure Inj where
  step     : Nat
  lastAt   : Nat
  unlocked : Bool
  nonce    : Nat
deriving DecidableEq, Repr

end Sys2Proof.Machine
end

