-- ==== Sys2Proof/Machine/MediaTypes.lean ====
section
/-!
DEFINITION. The parts of the block's state that the media streams use: packages, keys, contracts, the wheel, streams
and the frame pool.
-/
namespace Sys2Proof.Machine

/-- A resident package (R145, R150, R151): digests and decompressed sections by identifier. -/
structure Pkg where
  pkgDigest   : Bytes
  modelDigest : Bytes
  sections    : SMap Bytes
  digests     : SMap Bytes
deriving DecidableEq, Repr

/-- A key slot (R146). -/
structure KeySlot where
  data  : Bytes
  valid : Bool
deriving DecidableEq, Repr

/-- One booking of the wheel (R265 to R268): resource (RES of ADM_SEL), first slot, slots, and bytes per slot for HBM and
PCIe. -/
structure Booking where
  res   : Nat
  slot  : Nat
  len   : Nat
  bytes : Nat
deriving DecidableEq, Repr

/-- A seat of a contract (R261, R262, R272, R274, R383). -/
structure Seat where
  tiles    : List Nat
  plains   : List Nat
  stream   : Option Nat
  lost     : Bool
  bookings : List Booking
  offset   : Nat
  tokens   : Rat
  tokenAt  : Rat
  redos    : Nat
  redoMark : Nat
  uncovered : Bool
  moving   : Bool
  departed : Option Nat
  link     : Bool
deriving DecidableEq, Repr

/-- A contract (R258 to R262). -/
structure Contract where
  func   : Nat
  cpb    : Bytes
  pkg    : Nat
  k      : Nat
  rTrain : Nat
  bound  : Nat
  seats  : List Seat
deriving DecidableEq, Repr

/-- The states of a frame pool buffer (R216). -/
inductive BufState where
  | free | writing | refShort | refLong | outputPending | hostHeld
deriving DecidableEq, Repr

/-- A buffer record of the frame pool (R214 to R219); output tells an output buffer of a stream from a feature buffer. -/
structure Buf where
  state    : BufState
  owner    : Nat
  gen      : Nat
  base     : Nat
  granules : Nat
  pins     : Nat
  releaseDue : Bool
  stream   : Option Nat
  output   : Bool
deriving DecidableEq, Repr

/-- A feature map or tensor on a grid of w × h positions: at row × 65,536 + column the channel codes and the exponents of
the channel parts. A position that is not listed holds code 0 with exponent 0 (R460). bcast marks the row of a GAP record, wides the positions
that a bounded wide re-run wrote in FP16 (R67, R120). -/
structure FMap where
  w     : Nat
  h     : Nat
  ch    : Nat
  bcast : Bool
  cells : SMap (List Int × List Int)
  wides : SMap Bool := []
deriving DecidableEq, Repr

/-- A slot: picture ID and feature buffer (R211). -/
structure RefSlot where
  picId : Nat
  buf   : Nat
deriving DecidableEq, Repr

/-- One target of an adapter (R185, R186, R231). -/
structure Target where
  rcd  : Nat
  down : Int
  up   : Int
  D    : List Int
  U    : List Int
deriving DecidableEq, Repr

/-- An adapter (R185, R186): its targets, and the descriptors and codes that ADAPT digests (R332). -/
structure Adapter where
  targets : List Target
  bytes   : Bytes
deriving DecidableEq, Repr

/-- The decoder's state (R170): lane states, words not yet read, words, words read, and the three marks. -/
structure RansDec where
  x    : List Nat
  rest : List Nat
  W    : Nat
  next : Nat
  bad  : Bool
  excess : Bool
  esc  : Nat
deriving DecidableEq, Repr

/-- An element entered in a slice buffer (R167, R172): its table, its residual, whether it escapes, and its scale code. -/
structure Coded where
  table : List Nat
  r     : Int
  esc   : Bool
  scale : Nat
deriving DecidableEq, Repr

/-- How far a unit has come: its input is not complete or tokens lack; released; in flight after its departure; coded, with
its delivery to come; done. -/
inductive UStage where
  | queued | released | flying | coded | done
deriving DecidableEq, Repr

/-- A unit of a stream (R155, R162 to R173, R272 to R274). ckpt holds the maps as they stood at its departure (R375), wrote the rows that its phase 0
wrote since, by map key; dep is the slot in which its departure began. -/
structure MUnit where
  number   : Nat
  idx      : Nat
  subject  : Nat
  job      : Nat
  coded    : Bytes
  motion   : List Int
  roi      : List Int
  quality  : Nat
  missing  : Bool
  pos      : List Nat
  resid    : List Int
  excs     : List (Nat × Nat)
  src      : List Int
  raw      : Bytes
  ic       : Rat
  rel      : Rat
  due      : Rat
  stage    : UStage
  passes   : Nat
  segs     : Nat
  engine   : Option Nat
  dec      : Option RansDec
  entries  : List Coded
  esc      : Nat
  corrupt  : Bool
  usedX    : Nat
  usedB    : Nat
  wide     : Bool
  sat      : Bool
  covered  : Bool
  redone   : Bool
  fin      : Bool
  stats    : SMap RecStat
  maps     : SMap FMap
  ckpt     : SMap FMap
  wrote    : List (Nat × Nat)
  dep      : Nat
deriving DecidableEq, Repr

/-- The open picture of a video stream (R187, R211, R222, R238). -/
structure Pic where
  picId    : Nat
  intra    : Bool
  quality  : Nat
  mark     : Nat
  refShort : Nat
  refLong  : Nat
  pts      : Nat
  refS     : Option Nat
  refL     : Option Nat
  flags    : Nat
  buf      : Nat
  out      : Option Nat
  maps     : SMap FMap
  lastIdx  : Option Nat
  job      : Nat
  damaged  : Bool
  bytes    : Nat
  rows     : Nat
  planes   : List (List Bytes)
  roi      : List Int
  hallmark : Bool
  qOper    : Nat
  trained  : Bool
  region   : Bool
  asked    : Bool
  unitsIn  : Bytes
  begun    : Bool
  trainDeps : Nat
  finDeps  : Nat
deriving DecidableEq, Repr

/-- A job of a stream that is accepted and not completed (R209, R225, R235). -/
structure Job where
  seq       : Nat
  op        : Nat
  rest      : Bytes
  fetched   : Bool
  read      : Bool
  touched   : Bool
  lost      : Bool
  malformed : Nat
  skipped   : Nat
  ended     : Bool
  concealed : Bool
  corrupt   : Bool
  late      : Bool
  delayed   : Bool
  wide      : Bool
  sat       : Bool
  status    : Option Nat
  aborted   : Bool
  cancelled : Bool
  result    : Nat
  hallmark  : Option Bytes
  hmUnit    : Bool
  stats     : Nat
  unitsDue  : Nat
deriving DecidableEq, Repr

/-- A unit waiting for the emission ring (R224): bytes, the unit it delivers, its job, and the unit bytes it counts. -/
structure Emit where
  bytes : Bytes
  unit  : Option Nat
  job   : Option Nat
deriving DecidableEq, Repr

/-- A record waiting for its ring (R236, R246, R257): bytes, job, unit, and the output buffer that AUTO_COPY moves. -/
structure RecOut where
  bytes  : Bytes
  job    : Nat
  unit   : Option Nat
  buf    : Option Nat
  copied : Bool
deriving DecidableEq, Repr

/-- Rate control (R227): F, last_bits, last_q and valid by type × 65,536 + slice index, and the coded slices not yet applied
by stream index: type, slice index, bits, quality. -/
structure RateCtl where
  F        : Int
  lastBits : SMap Nat
  lastQ    : SMap Nat
  next     : Nat
  log      : SMap (Nat × Nat × Nat × Nat)
deriving DecidableEq, Repr

/-- A wait for output room (R217, R224, R236, R246, R257, R278): none; room is lacking; room was found and the seat's queue
has not been empty since. -/
inductive Wait where
  | no | room | drain
deriving DecidableEq, Repr

/-- What a mirror that has ended leaves of a stream (R365): nothing; an active stream whose partner closed; a standby stream
without a slot. DEDUCED, log entry 91. -/
inductive MirrorEnd where
  | none | active | standby
deriving DecidableEq, Repr

/-- A stream. aus counts closed access units (R354); marks holds those not yet delivered: access units, unit number and record
number by which they are; takeAt is the first unit after a takeover (R362) (R180, R208, R211, R222 to R257, R293, R334). -/
structure Stream where
  func      : Nat
  contract  : Nat
  seat      : Nat
  gen       : Nat
  medium    : Nat
  enc       : Bool
  param     : Bytes
  pkg       : Nat
  bound     : Bool
  header    : Bytes
  accepted  : Bool
  model     : Bytes
  failed    : Option Nat
  ended     : Bool
  short     : Option RefSlot
  long      : Option RefSlot
  last      : Option RefSlot
  adapter   : Option Adapter
  held      : Option (Nat × Adapter)
  heldUnit  : Bytes
  pic       : Option Pic
  pics      : Nat
  lastId    : Option Nat
  lastFrame : Option Nat
  doneFrame : Option Nat
  lastSliceIdx : Option Nat
  sticky    : Bool
  derived   : Bool
  rc        : RateCtl
  sinceI    : Nat
  sinceLong : Nat
  boxes     : Bytes
  regionDue : Bool
  pcm       : List Int
  frames    : Nat
  lastOut   : List Int
  scratch   : SMap FMap
  emitted   : Nat
  consumed  : Nat
  records   : Nat
  emits     : List Emit
  recs      : List RecOut
  units     : List MUnit
  jobs      : List Job
  nextUnit  : Nat
  chain     : Bytes
  lastAu    : Option Nat
  featSpans : List Nat
  outSpans  : List Nat
  featGran  : Nat
  outGran   : Nat
  closing   : Option Nat
  closeCorrupt : Bool
  endSent   : Bool
  gopLeft   : Nat
  waiting   : Wait
  nextEmit  : Nat
  ran       : Bool
  aus       : Nat
  marks     : List (Nat × Nat × Nat)
  delivered : Nat
  takeAt    : Option Nat
  mirror    : MirrorEnd
deriving DecidableEq, Repr

/-- The media side (packages to streams). keyHist holds, for loads accepted before a change of the keys, the number of the
next acceptance at the change, and the keys and REQUIRE_SIG before it (R146). -/
structure Media where
  pkgs      : SMap Pkg
  keys      : List KeySlot
  keyHist   : List (Nat × List KeySlot × Bool)
  contracts : SMap Contract
  streams   : SMap Stream
  gens      : SMap Nat
  pool      : SMap Buf
  feats     : SMap FMap
  suspNow   : Nat
deriving DecidableEq, Repr

/-- Key slots of zeros, none valid (R146). -/
def KeySlot.reset : KeySlot := { data := List.replicate 96 0, valid := false }

def Media.reset : Media :=
  { pkgs := [], keys := List.replicate 4 KeySlot.reset, keyHist := [], contracts := [], streams := [], gens := [], pool := [], feats := [], suspNow := 0 }

end Sys2Proof.Machine
end

