-- ==== Sys2Proof/Machine/State.lean ====
section
/-!
DEFINITION. The state of the block, the reasons a step can stop, and the state after reset.
-/
namespace Sys2Proof.Machine

/-- The reasons the block could stop a step. The spec describes no event after which the block itself ceases to have a
next state: errors are statuses, sticky bits, fail-stop, freeze and quiesce, which are states. No meaning raises one. -/
inductive Fault where
  /-- Raised by nothing; kept so that the type has a member. Safe: a stop proves nothing about the hardware. -/
  | unreachable
deriving DecidableEq, Repr

/-- The reasons a command is refused. -/
inductive Refusal where
  /-- Raised by the dispatch for a command without a meaning. Safe: a refusal proves nothing about the hardware. -/
  | notModelled (mnemonic : String)
deriving DecidableEq, Repr

/-- Time, mode, pins, captures and what surrounds the device: host accesses that fail, and the seats (contract, number) whose bookings the host's
credits or read completions do not serve (R278; log entries 6 and 178). -/
structure Sys where
  time       : Nat
  timeCap    : Nat
  busData    : Nat
  mode       : Mode
  free       : Nat
  pins       : Pins
  hostFaults : List HostFault
  hostSlow   : List (Nat × Nat)
  inj        : Inj
  bootState  : Nat
  bootReason : Nat
  rstCause   : Nat
  dataRo     : Bool
deriving DecidableEq, Repr

/-- The device behind its host interface: everything the commands reach but clocks, tiles and fuses. -/
structure Dev where
  sys   : Sys
  regs  : SMap Word
  hmem  : Mem
  dmem  : Mem
  host  : HostIf
  media : Media
  units : Units
  inst  : Inst
  pair  : Pair
  chain : Chain
deriving DecidableEq, Repr

/-- The state of the block. -/
structure State where
  pending : List Instr
  dev     : Dev
  clk     : Clocks
  tiles   : Tiles
  fuses   : Fuses
deriving DecidableEq, Repr

/-- A plain after reset: gated, every logical tile at home (R105, R407, R441). -/
def Plain.reset : Plain :=
  { failed := false, gated := true, idleFrom := none, div := 4, phase := 0, place := [], softMap := [], bad := []
    lost := [], testPos := none, arrays := [], srams := [], ecc := [], pool := [], rimDown := false, warpDown := false }

/-- A physical engine after reset: engines 0 to 15 serve their own numbers, 16 and 17 are spares (R155, R374). -/
def Engine.reset (n : Nat) : Engine :=
  { failed := false, withdrawn := false, role := if n < 16 then some n else none, held := none }

def Lle.reset : Lle := { job := none, suspended := false, segment := false, failed := false }

def Units.reset : Units :=
  { plains := List.replicate 8 Plain.reset, engines := (List.range 18).map Engine.reset
    lles := List.replicate 4 Lle.reset, regionDown := [false, false], rimSpare := none, rimSpareFailed := false, soft := []
    test := none, hbmUp := [false, false], hbmRep := [0, 0] }

def HostIf.reset : HostIf :=
  { fns := [], accepted := [], nextSeq := 0, outputs := [], vfs := 0, gts := 0, width := 0 }

def Inst.reset : Inst :=
  { cnt := [], capture := 0, sampCount := 0, sampTaken := 0, lastDump := 0, seq := 0, skipped := 0, first := false
    cleared := false, clearTime := 0, injSince := false, holdSince := false, cfgErr := false, trace := [], dropped := 0
    dropTime := 0, ledger := [], audited := none, dumped := 0, written := 0, lastU := (0, 0, 0, 0), sampAt := (0, 0, 0, 0) }

def PassLink.reset : PassLink :=
  { up := false, everUp := false, dead := false, serial := none, lastBeat := 0, failLane := none, replayed := 0, txSeq := 0, kept := 0 }

def Pair.reset : Pair :=
  { links := [PassLink.reset, PassLink.reset], slots := [], waiting := [], hellos := [none, none], silent := false
    evidence := none, lastBeat := 0, mpl := none, miswired := false, partner := 0, mplCap := 0, detaching := [] }

def Chain.reset : Chain :=
  { addr := 0, head := false, count := 0, full := false, conflict := false, ringOk := false, surveyOut := false
    statusDue := false, hostQuery := none, ownQuery := none, qres := 0, qstate := 0, qfw := 0, crcDrops := 0 }

def PlainClk.reset : PlainClk := { cap := 4, thermal := false, vmin := false, tempDeci := 0, hotFrom := none }

def Clocks.reset : Clocks :=
  { plains := List.replicate 8 PlainClk.reset, neighbours := [], locked := false, holdover := false, holdFrom := 0
    standby := false, refPpm := 0, railsOut := 0, measured := 0, capMiss := false, calUser := [] }

/-- DESIGN CHOICE, log entry 4. -/
def Fuses.blank : Fuses :=
  { serial := 0, keys := List.replicate 4 (List.replicate 48 0), revoked := 0, svnMin := 0, cal := [], factory := []
    records := List.replicate 64 0, armedAt := none, burning := none, result := 0 }

def Pins.high : Pins := { perst := true, devRst := true, frz := true, frzArmed := true, therm := true }

/-- DESIGN CHOICE, log entry 34. -/
def Inj.reset : Inj := { step := 0, lastAt := 0, unlocked := false, nonce := 0 }

/-- Time, mode and boot state after a reset of the cause bit given (R409, R412): boot step 1. -/
def Sys.reset : Sys :=
  { time := 0, timeCap := 0, busData := 0, mode := .waitRef, free := 0, pins := Pins.high, hostFaults := [], hostSlow := []
    inj := Inj.reset, bootState := 0, bootReason := 0, rstCause := 1, dataRo := false }

def Dev.reset : Dev :=
  { sys := Sys.reset, regs := [], hmem := [], dmem := [], host := HostIf.reset, media := Media.reset
    units := Units.reset, inst := Inst.reset, pair := Pair.reset, chain := Chain.reset }

/-- The block right after a cold reset (R409, R410, R432): boot step 1 (R412), every register at its reset value, memories
with nothing listed. What the spec leaves open is named in log entries 3 to 6. -/
def State.reset : State :=
  { pending := [], dev := Dev.reset, clk := Clocks.reset, tiles := { tiles := [], mesh := [] }, fuses := Fuses.blank }

end Sys2Proof.Machine
end

