-- ==== Sys2Proof/Machine/RegTable.lean ====
section
/-!
DEFINITION. The register map of R432, R440 and R442 as data: for each register its access code (R9), the bits that a
write can change or that hardware stores, and its value after a cold reset. Registers are numbered by their BAR0
address; a function's BAR4 registers are numbered from 2^32 (log entry 8). Values that R440 shows as a dash are read
from other state by State.readReg, or are 0 (log entry 3).
-/
namespace Sys2Proof.Machine

/-- The access codes of R9. -/
inductive Access where
  | ro | rw | wo | w1c | fx | lk
deriving DecidableEq, Repr

/-- One register: access, writable or stored bits, reset value. -/
structure RegSpec where
  access : Access
  mask   : Nat
  reset  : Nat
deriving DecidableEq, Repr

def GLB : Nat := 0x000000
def CLK : Nat := 0x010000
def PWR : Nat := 0x020000
def CAL : Nat := 0x030000
def ERR : Nat := 0x040000
def RNG : Nat := 0x050000
def ADM : Nat := 0x060000
def ENT : Nat := 0x070000
def LLE : Nat := 0x080000
def PASS : Nat := 0x090000
def MCH : Nat := 0x0A0000
def PMC : Nat := 0x0B0000
def TRC : Nat := 0x0C0000
def INJ : Nat := 0x0D0000
def FUS : Nat := 0x0E0000
def HBM : Nat := 0x0F0000
def PLN (n : Nat) : Nat := 0x100000 + n * 0x10000
def DBG : Nat := 0x200000
/-- Window of function f in the RNG block (R308). -/
def WINF (f : Nat) : Nat := RNG + f * 0x200
/-- MSI-X structures of function f (R442), numbered from 2^32. -/
def MSI (f : Nat) : Nat := 0x100000000 + f * 0x1000

def ro (a r : Nat) : Nat × RegSpec := (a, ⟨.ro, 0xFFFFFFFF, r⟩)
def rw (a m r : Nat) : Nat × RegSpec := (a, ⟨.rw, m, r⟩)
def wo (a m : Nat) : Nat × RegSpec := (a, ⟨.wo, m, 0⟩)
def w1c (a m : Nat) : Nat × RegSpec := (a, ⟨.w1c, m, 0⟩)
def fx (a : Nat) : Nat × RegSpec := (a, ⟨.fx, 0, 0⟩)
def lk (a m : Nat) : Nat × RegSpec := (a, ⟨.lk, m, 0⟩)

def glbRegs : List (Nat × RegSpec) :=
  [ro (GLB + 0x00) 0x0C811F6E, ro (GLB + 0x04) 0xB1, fx (GLB + 0x08), fx (GLB + 0x0C), ro (GLB + 0x10) 0,
   ro (GLB + 0x14) 1, ro (GLB + 0x18) 0x00121008, ro (GLB + 0x1C) 0x01004010, ro (GLB + 0x20) 0x18242818,
   ro (GLB + 0x24) 0x080C0FFF, ro (GLB + 0x30) 0, ro (GLB + 0x34) 0, rw (GLB + 0x40) 0xFFFFFFFF 0]

def clkRegs : List (Nat × RegSpec) :=
  [ro (CLK + 0x00) 0, ro (CLK + 0x04) 0x44444444, rw (CLK + 0x08) 0xFFFFFFFF 0x44444444, ro (CLK + 0x0C) 0x66666666,
   ro (CLK + 0x10) 0, ro (CLK + 0x20) 0, ro (CLK + 0x24) 0, ro (CLK + 0x28) 0]

def pwrRegs : List (Nat × RegSpec) :=
  [rw (PWR + 0x00) 0xFF 0, ro (PWR + 0x04) 0xFF, rw (PWR + 0x08) 0x3FF 0x28A, ro (PWR + 0x0C) 0, ro (PWR + 0x10) 0,
   ro (PWR + 0x14) 0, wo (PWR + 0x18) 0xFFFFFFFF, rw (PWR + 0x100) 0xFFFFF000 0, rw (PWR + 0x104) 0xFFFFFFFF 0,
   rw (PWR + 0x108) 0xFFFFFFFF 0, wo (PWR + 0x10C) 1, ro (PWR + 0x110) 0, ro (PWR + 0x114) 0, ro (PWR + 0x118) 0]

def calRegs : List (Nat × RegSpec) :=
  [rw (CAL + 0x0) 0xFFF 0, fx (CAL + 0x4), rw (CAL + 0x8) 0xFFFF 0, ro (CAL + 0xC) 0]

def errRegs : List (Nat × RegSpec) :=
  [w1c (ERR + 0x00) 0xFFFFFFFF, w1c (ERR + 0x04) 0xFFF, w1c (ERR + 0x08) 0x3F0F, w1c (ERR + 0x0C) 0x7FF,
   ro (ERR + 0x10) 0, ro (ERR + 0x14) 0, ro (ERR + 0x18) 0, ro (ERR + 0x1C) 0, rw (ERR + 0x20) 0x3F 0,
   ro (ERR + 0x200) 0, rw (ERR + 0x204) 0x1FFF0F 0, ro (ERR + 0x208) 0, ro (ERR + 0x20C) 0, ro (ERR + 0x210) 0,
   ro (ERR + 0x214) 0, ro (ERR + 0x218) 0, ro (ERR + 0x21C) 0, ro (ERR + 0x220) 0, ro (ERR + 0x224) 0,
   ro (ERR + 0x228) 0, ro (ERR + 0x22C) 0, ro (ERR + 0x230) 0, ro (ERR + 0x234) 0, ro (ERR + 0x238) 0,
   ro (ERR + 0x23C) 0, ro (ERR + 0x240) 0]

/-- The set-up registers of a function's window, at window offset o (R308). -/
def winSpec (o f : Nat) : Option RegSpec :=
  match o with
  | 0x000 => some ⟨.rw, 1, 0⟩
  | 0x004 => some ⟨.ro, 0xFFFFFFFF, 0⟩
  | 0x008 => some ⟨.wo, 1, 0⟩
  | 0x010 => some ⟨.rw, 0xFFFFF000, 0⟩
  | 0x014 => some ⟨.rw, 0xFFFFFFFF, 0⟩
  | 0x018 => some ⟨.rw, 0xFFFFF000, 0⟩
  | 0x01C => some ⟨.rw, 0xFFFFFFFF, 0⟩
  | 0x020 => some ⟨.rw, 0x3FFF, 0xA⟩
  | 0x024 => some ⟨.w1c, 0x3F, 0⟩
  | 0x028 => some ⟨.ro, 0xFFFFFFFF, 0⟩
  | 0x02C => some ⟨.ro, 0xFFFFFFFF, 0x200000 + 32 * f⟩
  | 0x030 => some ⟨.ro, 0xFFFFFFFF, 0⟩
  | 0x034 => some ⟨.ro, 0xFFFFFFFF, 0⟩
  | _ => none

def admRegs : List (Nat × RegSpec) :=
  [ro (ADM + 0x00) 0x00050400, rw (ADM + 0x10) 0x73F 0, ro (ADM + 0x14) 0, ro (ADM + 0x18) 0, w1c (ADM + 0x20) 0xFF,
   ro (ADM + 0x24) 0, ro (ADM + 0x28) 0, ro (ADM + 0x2C) 0, ro (ADM + 0x30) 0,
   rw (ADM + 0x800) 0x3 0, rw (ADM + 0x804) 0x3 0, ro (ADM + 0x808) 0, wo (ADM + 0x80C) 0x3] ++
  (List.range 24).map fun k => rw (ADM + 0x810 + 4 * k) 0xFFFFFFFF 0

def entLleRegs : List (Nat × RegSpec) :=
  [ro (ENT + 0x00) 0x00022010, ro (ENT + 0x04) 0, ro (ENT + 0x08) 0, ro (ENT + 0x0C) 0, ro (ENT + 0x10) 0,
   ro (ENT + 0x20) 0, ro (ENT + 0x30) 0, ro (ENT + 0x34) 0,
   ro (LLE + 0x00) 0x00097F04, ro (LLE + 0x04) 0, ro (LLE + 0x10) 0, ro (LLE + 0x14) 0]

def passRegs : List (Nat × RegSpec) :=
  [ro (PASS + 0x00) 0x04000182, rw (PASS + 0x04) 0x7 0x3, ro (PASS + 0x08) 0, ro (PASS + 0x0C) 0, ro (PASS + 0x10) 0,
   ro (PASS + 0x14) 0, ro (PASS + 0x18) 0, ro (PASS + 0x1C) 0, ro (PASS + 0x20) 0, ro (PASS + 0x24) 0,
   ro (PASS + 0x28) 0, ro (PASS + 0x2C) 0, ro (PASS + 0x30) 0, rw (PASS + 0x40) 0x3FF 0, ro (PASS + 0x44) 0,
   ro (PASS + 0x48) 0, ro (PASS + 0x4C) 0, ro (PASS + 0x50) 0]

def mchRegs : List (Nat × RegSpec) :=
  [rw (MCH + 0x00) 0x1 0, wo (MCH + 0x04) 0x7, ro (MCH + 0x08) 0, rw (MCH + 0x0C) 0xFF 0, ro (MCH + 0x10) 0,
   ro (MCH + 0x14) 0, ro (MCH + 0x18) 0]

def pmcRegs : List (Nat × RegSpec) :=
  [ro (PMC + 0x00) 0x00030400, rw (PMC + 0x04) 0xFF 0, wo (PMC + 0x08) 0x3, rw (PMC + 0x0C) 0xFFFFF 0x3E8,
   rw (PMC + 0x10) 0xFFFFF000 0, rw (PMC + 0x14) 0xFFFFFFFF 0, rw (PMC + 0x18) 0xF 0, rw (PMC + 0x1C) 0xFFFFFFF0 0,
   rw (PMC + 0x20) 0xFFFFFFFF 0, rw (PMC + 0x24) 0x3FF 0, ro (PMC + 0x28) 0, ro (PMC + 0x2C) 0,
   rw (PMC + 0x30) 0x800003FF 0, rw (PMC + 0x34) 0xFFFFFFFF 1, ro (PMC + 0x38) 0]

def trcRegs : List (Nat × RegSpec) :=
  [rw (TRC + 0x00) 0x3 0, rw (TRC + 0x04) 0x323E 0, rw (TRC + 0x08) 0xFF 0xFF, rw (TRC + 0x0C) 0xFFFFF000 0,
   rw (TRC + 0x10) 0xFFFFFFFF 0, rw (TRC + 0x14) 0x1F 6, rw (TRC + 0x18) 0xFFFFFFF0 0, rw (TRC + 0x1C) 0xFFFFFFFF 0,
   wo (TRC + 0x20) 0xFFFFFFFF, ro (TRC + 0x24) 0]

def injFusRegs : List (Nat × RegSpec) :=
  [(INJ + 0x00, ⟨.wo, 0x2, 0⟩), ro (INJ + 0x04) 0, wo (INJ + 0x08) 0xFFFFFFFF, lk (INJ + 0x10) 0x7FFF,
   lk (INJ + 0x14) 0xFF, lk (INJ + 0x18) 0x3FFF, lk (INJ + 0x1C) 0xFFFF, lk (INJ + 0x20) 0x1FFFF, lk (INJ + 0x24) 0xFF,
   lk (INJ + 0x28) 0x3F, lk (INJ + 0x2C) 0xFFFFFFFF, lk (INJ + 0x30) 0x7FFF,
   rw (FUS + 0x00) 0xFF 0, ro (FUS + 0x04) 0, ro (FUS + 0x08) 0, wo (FUS + 0x0C) 0xFFFFFFFF, wo (FUS + 0x10) 0x1FF,
   ro (FUS + 0x14) 0]

def hbmDbgRegs : List (Nat × RegSpec) :=
  [ro (HBM + 0x00) 0, rw (HBM + 0x100) 0xFFFFF 0, rw (HBM + 0x104) 0xFFFFF 0, ro (HBM + 0x108) 0, ro (HBM + 0x10C) 0,
   rw (DBG + 0x00) 0x3 0x2, wo (DBG + 0x04) 0x1, rw (DBG + 0x08) 0xF 0, w1c (DBG + 0x0C) 0x7, ro (DBG + 0x10) 0,
   ro (DBG + 0x14) 0, rw (DBG + 0x100) 0x1FFFFFF 0, wo (DBG + 0x104) 0x7, ro (DBG + 0x108) 0, ro (DBG + 0x10C) 0]

/-- The registers of one plain's block (R105, R441). -/
def plnRegs : List (Nat × RegSpec) :=
  [ro 0x0000 0, rw 0x1000 0xFF 0, ro 0x1004 0, ro 0x1010 0, ro 0x1014 0, ro 0x1018 0, ro 0x101C 0, ro 0x1020 0,
   ro 0x1024 0]

/-- An entry of an association list. -/
def lookupReg (l : List (Nat × RegSpec)) (a : Nat) : Option RegSpec := (l.find? (fun e => e.1 == a)).map (·.2)

/-- The registers of a block, by the block's number (address divided by 2^16). -/
def blockRegs : Nat → List (Nat × RegSpec)
  | 0x0 => glbRegs | 0x1 => clkRegs | 0x2 => pwrRegs | 0x3 => calRegs | 0x4 => errRegs | 0x6 => admRegs
  | 0x7 => entLleRegs | 0x8 => entLleRegs | 0x9 => passRegs | 0xA => mchRegs | 0xB => pmcRegs | 0xC => trcRegs
  | 0xD => injFusRegs | 0xE => injFusRegs | 0xF => hbmDbgRegs | 0x20 => hbmDbgRegs
  | _ => []

/-- The register at an address (R432, R440, R442), if there is one. -/
def regSpec (a : Nat) : Option RegSpec :=
  if a ≥ MSI 0 then
    let o := (a - MSI 0) % 0x1000
    if a ≥ MSI 64 then none
    else if o < 0x200 then
      match o % 16 with
      | 0 => some ⟨.rw, 0xFFFFFFFC, 0⟩
      | 4 => some ⟨.rw, 0xFFFFFFFF, 0⟩
      | 8 => some ⟨.rw, 0xFFFFFFFF, 0⟩
      | 12 => some ⟨.rw, 1, 1⟩
      | _ => none
    else if o = 0x800 ∨ o = 0x804 then some ⟨.ro, 0xFFFFFFFF, 0⟩
    else none
  else if a / 0x10000 = 0x5 then
    let o := a - RNG
    if o < 0x8000 then winSpec (o % 0x200) (o / 0x200)
    else if 0x8010 ≤ o ∧ o < 0x8400 ∧ (o % 0x10 = 0 ∨ o % 0x10 = 4) then some ⟨.rw, 0xFFFFF, 0⟩
    else none
  else if 0x10 ≤ a / 0x10000 ∧ a / 0x10000 < 0x18 then lookupReg plnRegs (a % 0x10000)
  else lookupReg (blockRegs (a / 0x10000)) a

/-- The value a register has after a cold reset (R432). -/
def regReset (a : Nat) : Word := w32 ((regSpec a).map (·.reset) |>.getD 0)

/-- The stored value of a register: what was last written to it, or its reset value. -/
def Dev.reg (s : Dev) (a : Nat) : Word := (s.regs.find a).getD (regReset a)

/-- The stored value of a register as a number. -/
def Dev.regN (s : Dev) (a : Nat) : Nat := (s.reg a).toNat

/-- Store a register. -/
def Dev.setReg (s : Dev) (a : Nat) (v : Word) : Dev := { s with regs := s.regs.put a v }

/-- Store a register from a number. -/
def Dev.setRegN (s : Dev) (a v : Nat) : Dev := s.setReg a (w32 v)

/-- A 64-bit value split over two registers (R435). -/
def Dev.reg64 (s : Dev) (lo hi : Nat) : Nat := s.regN lo + 2 ^ 32 * s.regN hi

/-- Store a 64-bit value over two registers. -/
def Dev.setReg64 (s : Dev) (lo hi v : Nat) : Dev := (s.setRegN lo v).setRegN hi (v / 2 ^ 32)

end Sys2Proof.Machine
end

