-- ==== Sys2Proof/Machine/Ops.lean ====
section
/-!
DEFINITION. The shared operations over the device's memories, registers and instruments: host and device memory
accesses (R301), counters (R418, R419), trace records (R427), the sticky error record with its first-error capture
(R370 to R373), freeze (R390, R391), fail-stop (R329), interrupts (R302), ring errors (R308), completions (R296 to
R301) and suspension causes (R278, R280).
-/
namespace Sys2Proof.Machine

/-- Ticks of the timebase in a microsecond (R396). -/
def usTicks : Nat := 1200

/-- The block's clocks run: it is neither held in reset nor frozen (R391, R411). -/
def Dev.clocked (s : Dev) : Bool :=
  match s.sys.mode with
  | .boot => true | .ready => true | .failStop => true | .quiesced => true
  | _ => false

/-- The device does work of its own: its clocks run, and it has not failed stop (R329). -/
def Dev.working (s : Dev) : Bool := s.clocked && !decide (s.sys.mode = .failStop)

/-- The device serves commands (READY or SERVING, R436). -/
def Dev.serving (s : Dev) : Bool := s.sys.mode = .ready

def Dev.setMode (s : Dev) (m : Mode) : Dev := { s with sys := { s.sys with mode := m } }

/-- Draw the next free value (log entry 2): the value and the state with the counter advanced. -/
def Dev.draw (s : Dev) : Nat × Dev :=
  (Config.freeValue s.sys.free, { s with sys := { s.sys with free := s.sys.free + 1 } })

/-! Counters -/

/-- Number of event e of class c (R418). -/
def ev (c e : Nat) : Nat := c * 64 + e

/-- A counter with n occurrences added; at 2^48 it has overflowed (R419). A selected event also counts towards the next
sample, whose trigger is the micro-instruction then dispatched (R425, R426). DEDUCED, log entry 27. -/
def Inst.add (i : Inst) (e n per : Nat) (selected : Bool) : Inst :=
  let c := i.cnt.put e (min (i.cnt.get e 0 + n) (2 ^ 48))
  if selected then
    { i with cnt := c, sampCount := i.sampCount + n
             sampAt := if (i.sampCount + n) / per > i.sampCount / per then i.lastU else i.sampAt }
  else { i with cnt := c }

/-- Count n occurrences of event e (R418), and for sampling where the event is selected (R425). -/
def Dev.count (s : Dev) (e n : Nat) : Dev :=
  if n == 0 then s else
    let sel := s.regN (PMC + 0x30)
    { s with inst := s.inst.add e n (s.regN (PMC + 0x34)) (bitAt sel 31 && bits sel 0 10 == e) }

/-- Events whose occurrences depend on cycles, flits or accesses that the model does not hold: of a plain ISSUE_IDLE, BANK_DENY and RIM_BUSY; entropy
BUSY and PASS_WAIT; the spine's; the bytes and corrections of HBM; the flits of the pass links; BE_SLOTS (R418). DESIGN CHOICE, log entry 22. -/
def unseen (e : Nat) : Bool :=
  let n := e % 64
  match e / 64 with
  | 8 => n == 8 || n == 9
  | 9 => decide (n < 5)
  | 10 => decide (n < 5)
  | 12 => decide (n < 4)
  | 14 => n == 2
  | c => decide (c < 8) && (n == 4 || n == 6 || n == 17)

/-- Occurrences of an event since the last clear; those of an unseen event are free, none in no time (log entry 2). -/
def Inst.total (i : Inst) (time e : Nat) : Nat :=
  i.cnt.get e 0 + if unseen e then Config.unseenCount e i.clearTime time % ((time - i.clearTime) * 2 ^ 20 + 1) else 0

/-- The value of a counter as it reads at a time (R419). -/
def Inst.counter (i : Inst) (time e : Nat) : Nat := min (i.total time e) (2 ^ 48 - 1)

/-- The saturation bit of a counter at a time (R419). -/
def Inst.sat (i : Inst) (time e : Nat) : Bool := decide (2 ^ 48 ≤ i.total time e)

/-! Trace -/

/-- Record types that are always on (R427). -/
def alwaysOn (t : Nat) : Bool := t == 6 || t == 7 || t == 8 || t == 10 || t == 11 || t == 14

/-- Whether a record of type t, of a plain or tile source p, is written (R427, R425). -/
def Dev.traceOn (s : Dev) (t : Nat) (p : Option Nat) : Bool :=
  (bitAt (s.regN TRC) 0 || t == 6) &&
    (alwaysOn t || (bitAt (s.regN (TRC + 4)) t &&
      match p with
      | some n => bitAt (s.regN (TRC + 8)) n
      | none => true))

/-- Queue a trace record taken now (R427). -/
def Dev.trace (s : Dev) (t domain source : Nat) (p : Option Nat) (payload : Bytes) : Dev :=
  if s.traceOn t p then
    { s with inst := { s.inst with trace := s.inst.trace ++ [⟨s.sys.time, t, domain, source, payload⟩] } }
  else s

/-! Memory -/

/-- Whether two ranges of addresses meet. -/
def overlaps (a n b m : Nat) : Bool := decide (a < b + m) && decide (b < a + n) && n != 0 && m != 0

/-- Whether a host access fails (R301). -/
def Dev.hostFails (s : Dev) (write : Bool) (a n : Nat) : Bool :=
  s.sys.hostFaults.any fun h => h.write == write && overlaps a n h.addr h.len

/-- Read n bytes of host memory; none where the access fails (R301). -/
def Dev.hostRead (s : Dev) (a n : Nat) : Option Bytes :=
  if s.hostFails false a n then none else some (s.hmem.readN a n)

/-- Function f's power state and the mode allow writes to its host memory (R329, R391, R408). -/
def Dev.mayWrite (s : Dev) (f : Nat) : Bool :=
  (s.sys.mode = .ready || s.sys.mode = .quiesced) &&
    match s.host.fns.find f with
    | some fn => !fn.d3
    | none => true

/-- Store bytes in host memory. -/
def Dev.putHost (s : Dev) (a : Nat) (b : Bytes) : Dev := { s with hmem := s.hmem.writeN a b }

/-- Store bytes in device memory. -/
def Dev.putDev (s : Dev) (a : Nat) (b : Bytes) : Dev := { s with dmem := s.dmem.writeN a b }

/-- Write bytes to host memory; none where the access fails (R301). TX_BYTES counts the payload. -/
def Dev.hostWrite (s : Dev) (a : Nat) (b : Bytes) : Option Dev :=
  if s.hostFails true a b.length then none else some ((s.putHost a b).count (ev 11 1) b.length)

/-! Interrupts -/

/-- Function f's state, a function never touched being at its reset state. -/
def Fn.reset : Fn :=
  { drings := [], crings := [], lastStart := 63, again := false, cons := [], d3 := false, msixEn := false, fmask := false
    handles := [], accepts := 0, completes := 0, retires := 0 }

def Dev.fn (s : Dev) (f : Nat) : Fn := s.host.fns.get f Fn.reset

def Dev.setFn (s : Dev) (f : Nat) (x : Fn) : Dev := { s with host := { s.host with fns := s.host.fns.put f x } }

/-- Handle n of a function as it exists for the descriptor accepted with number q (R153). -/
def Fn.handleAt (x : Fn) (q n : Nat) : Option Handle := (x.handles.find n).filter fun h => decide (h.since ≤ q)

def Dev.output (s : Dev) (o : Output) : Dev := { s with host := { s.host with outputs := s.host.outputs ++ [o] } }

/-- Whether the message of vector v of function f can be sent now (R302). -/
def Dev.canSend (s : Dev) (f v : Nat) : Bool :=
  let x := s.fn f
  x.msixEn && !x.fmask && !bitAt (s.regN (MSI f + 16 * v + 12)) 0 && s.mayWrite f

/-- Send the MSI-X message of vector v of function f. -/
def Dev.msi (s : Dev) (f v : Nat) : Dev :=
  (s.output (.msix (s.reg64 (MSI f + 16 * v) (MSI f + 16 * v + 4)) (s.regN (MSI f + 16 * v + 8)))).count (ev 11 6) 1

/-- The Pending Bit Array bit of vector v of function f. -/
def Dev.setPba (s : Dev) (f v : Nat) (b : Bool) : Dev :=
  s.setRegN (MSI f + 0x800) (putBits (s.regN (MSI f + 0x800)) v 1 (b2n b))

/-- A trigger of vector v of function f: the message goes, or the pending bit is set (R302, R373). In fail-stop and
while frozen nothing is sent (R329). -/
def Dev.trigger (s : Dev) (f v : Nat) : Dev :=
  if s.sys.mode = .failStop || s.sys.mode = .frozen then s
  else if s.canSend f v then s.msi f v
  else s.setPba f v true

/-! Sticky record, freeze, fail-stop -/

/-- Freeze the device (R390, R391), with the bit of DBG_FRZCAUSE. DBG_CTL.DATA_RO is kept as it stands (R392), the PCIe link and the pass links are
down, and the device is bypassed on the chain and holds no address (R342). -/
def Dev.freeze (s : Dev) (cause : Nat) : Dev :=
  let s1 := s.setRegN (DBG + 0x0C) (s.regN (DBG + 0x0C) ||| 2 ^ cause)
  if s.sys.mode = .frozen then s1
  else
    let s2 := s1.setReg64 (DBG + 0x10) (DBG + 0x14) s.sys.time
    { s2 with sys := { s2.sys with mode := .frozen, dataRo := bitAt (s.regN DBG) 0 }, chain := { s2.chain with addr := 0 }
              host := { s2.host with gts := 0, width := 0 }
              pair := { s2.pair with links := s2.pair.links.map fun l => { l with up := false } } }

/-- Address of ERR_STICKYg (R370). -/
def stickyAddr (g : Nat) : Nat := ERR + 4 * g

/-- All four sticky registers read zero: the first-error capture is armed (R372). -/
def Dev.stickyClear (s : Dev) : Bool :=
  s.regN (stickyAddr 0) == 0 && s.regN (stickyAddr 1) == 0 && s.regN (stickyAddr 2) == 0 && s.regN (stickyAddr 3) == 0

/-- ERR_FIRSTDET (R372). -/
def firstDet (inst pos plain func : Nat) : Nat := inst % 256 + pos % 512 * 2 ^ 8 + plain % 8 * 2 ^ 17 + func % 64 * 2 ^ 20

/-- Fill the armed first-error capture (R372). -/
def Dev.captureFirst (s : Dev) (g b det : Nat) : Dev :=
  if s.stickyClear then
    ((s.setRegN (ERR + 0x10) (g + 4 * b + 2 ^ 31)).setRegN (ERR + 0x14) det).setReg64 (ERR + 0x18) (ERR + 0x1C) s.sys.time
  else s

/-- Set a sticky bit (R370 to R373, R390): the capture, the FAULT record, the error interrupt on a change from 0 to 1,
and the freeze where DBG_FRZEV selects the group. -/
def Dev.sticky (s : Dev) (g b det : Nat) : Dev :=
  if s.sys.mode = .frozen then s else
  let was := bitAt (s.regN (stickyAddr g)) b
  let s1 := s.captureFirst g b det
  let s2 := s1.setRegN (stickyAddr g) (s.regN (stickyAddr g) ||| 2 ^ b)
  let s3 := s2.trace 12 38 0 none [BitVec.ofNat 8 g, BitVec.ofNat 8 b]
  let irq := s.regN (ERR + 0x20)
  let s4 := if !was && bitAt irq 0 then s3.trigger 0 (bits irq 1 5) else s3
  if bitAt (s.regN (DBG + 0x08)) g then s4.freeze 2 else s4

/-- Enter fail-stop (R329): nothing more is accepted or written; Advanced Error Reporting reports it. A frozen device
stays frozen (R330). -/
def Dev.failStop (s : Dev) : Dev :=
  match s.sys.mode with
  | .frozen => s
  | .failStop => s
  | _ => { (s.setMode .failStop).output .aer with chain := { s.chain with statusDue := true } }

/-! Ring errors and held writes -/

/-- Set a bit of RNG_RERR and, where it was all zero, RNG_RERRINFO (R308). -/
def Dev.rerr (s : Dev) (f b ring : Nat) (cpl : Bool) : Dev :=
  let a := WINF f + 0x24
  let s1 := if s.regN a == 0 then s.setRegN (WINF f + 0x28) (ring + 64 * b2n cpl + 256 * b) else s
  s1.setRegN a (s.regN a ||| 2 ^ b)

/-- A failed host access by a ring's own structure (R301): RNG_RERR bit b, and its sticky bit. -/
def Dev.ringFault (s : Dev) (f b ring : Nat) (cpl : Bool) : Dev :=
  ((s.rerr f b ring cpl).count (ev 11 7) 1).sticky 2 (b + 6) (firstDet ring 0 0 f)

/-- A failed data access of a job (R301): DATA_FAULT. -/
def Dev.dataFault (s : Dev) (f ring : Nat) : Dev := (s.count (ev 11 7) 1).sticky 2 12 (firstDet ring 0 0 f)

/-- Doorbell page of function f (R308). -/
def Dev.doorbell (s : Dev) (f : Nat) : Nat := s.reg64 (WINF f + 0x18) (WINF f + 0x1C)

/-- Ring table of function f (R308). -/
def Dev.ringTable (s : Dev) (f : Nat) : Nat := s.reg64 (WINF f + 0x10) (WINF f + 0x14)

def Dev.setDring (s : Dev) (f n : Nat) (r : DRing) : Dev :=
  let x := s.fn f
  s.setFn f { x with drings := x.drings.put n r }

def Dev.setCring (s : Dev) (f n : Nat) (r : CRing) : Dev :=
  let x := s.fn f
  s.setFn f { x with crings := x.crings.put n r }

def DRing.off : DRing := { en := false, base := 0, log2 := 6, cq := 0, acc := 0, accHeld := false, zeroHeld := false }
def CRing.off : CRing :=
  { en := false, irqEn := false, base := 0, log2 := 6, vector := 0, modCount := 1, modTime := 0, hmBase := 0, wr := 0
    wrHeld := false, zeroHeld := false, queue := [], pend := 0, oldest := none }

def Dev.dring (s : Dev) (f n : Nat) : DRing := (s.fn f).drings.get n DRing.off
def Dev.cring (s : Dev) (f n : Nat) : CRing := (s.fn f).crings.get n CRing.off

/-- Write ACC[n] of the doorbell page; held where it cannot be written (R288, R291, R301). -/
def Dev.writeAcc (s : Dev) (f n : Nat) : Dev :=
  let r := s.dring f n
  if !s.mayWrite f then s.setDring f n { r with accHeld := true }
  else
    match s.hostWrite (s.doorbell f + 512 + 4 * n) (leBytes 4 r.acc) with
    | some s1 => s1.setDring f n { r with accHeld := false, zeroHeld := false }
    | none => (s.ringFault f 5 n false).setDring f n { r with accHeld := true }

/-! Completions -/

/-- PHASE of entry k of a ring of 2^log2 entries (R296). -/
def phaseOf (k log2 : Nat) : Nat := 1 - k / 2 ^ log2 % 2

/-- The 32 bytes of a completion record (R296), entry number k. -/
def Cpl.entry (c : Cpl) (k log2 : Nat) : Bytes :=
  leBytes 8 c.tag ++ leBytes 4 c.result ++ leBytes 1 c.status ++ leBytes 1 (c.flags % 128 + 128 * phaseOf k log2) ++
    leBytes 1 (c.ring % 64) ++ leBytes 1 0 ++ leBytes 4 c.index ++ leBytes 4 0 ++ leBytes 8 c.time

/-- The interrupt side of one completion written (R302). -/
def Dev.cplIrq (s : Dev) (f c : Nat) (now : Bool) : Dev :=
  let r := s.cring f c
  if !r.irqEn then s
  else
    let pend := r.pend + 1
    if now || pend ≥ r.modCount || r.modTime == 0 then
      (s.setCring f c { r with pend := 0, oldest := none }).trigger f r.vector
    else s.setCring f c { r with pend := pend, oldest := some (r.oldest.getD s.sys.time) }

/-- WR[c] counted and written (R298). -/
def Dev.writeWr (s : Dev) (f c wr : Nat) : Option Dev := s.hostWrite (s.doorbell f + 768 + 4 * c) (leBytes 4 wr)

/-- Write the hallmark record of a completion, where it carries one (R298). -/
def Dev.writeHallmark (s : Dev) (r : CRing) (h : Cpl) : Option Dev :=
  match h.hallmark with
  | some hm => s.hostWrite (r.hmBase + 128 * (r.wr % 2 ^ r.log2)) hm
  | none => some s

/-- Write a completion's hallmark record, then its entry (R298); what a failed write leaves, and whether both are written. -/
def Dev.writeEntry (s : Dev) (r : CRing) (h : Cpl) : Dev × Bool :=
  if r.wrHeld then (s, true)
  else
    match s.writeHallmark r h with
    | none => (s, false)
    | some t =>
      match t.hostWrite (r.base + 32 * (r.wr % 2 ^ r.log2)) (h.entry r.wr r.log2) with
      | some u => (u, true)
      | none => (t, false)

/-- Write WR[c] after an entry, and signal it (R298, R302). -/
def Dev.publish (s : Dev) (f c : Nat) (r : CRing) (h : Cpl) (rest : List Cpl) : Dev × Bool :=
  let wr := (r.wr + 1) % 2 ^ 32
  match s.writeWr f c wr with
  | none => ((s.setCring f c { r with wrHeld := true }).ringFault f 5 c true, false)
  | some u =>
    let x := u.fn f
    let v := (u.setFn f { x with completes := x.completes + 1 }).setCring f c { r with wr := wr, wrHeld := false, queue := rest }
    ((v.cplIrq f c h.irqNow).count (ev 11 3) 1, true)

/-- Write the head completion of ring c of function f in the order of R298: hallmark, entry, WR, interrupt. The answer
says whether the ring goes on; a failed write holds the completion (R301). -/
def Dev.writeHead (s : Dev) (f c : Nat) (h : Cpl) (rest : List Cpl) : Dev × Bool :=
  match s.writeEntry (s.cring f c) h with
  | (t, true) => t.publish f c (s.cring f c) h rest
  | (t, false) => (t.ringFault f 5 c true, false)

/-- Write the completions of ring c of function f that can be written (R298, R301). -/
def Dev.flushRing (f c : Nat) : Nat → Dev → Dev
  | 0, s => s
  | n + 1, s =>
    let r := s.cring f c
    if !s.mayWrite f then s
    else if r.zeroHeld then
      match s.writeWr f c 0 with
      | some t => Dev.flushRing f c n (t.setCring f c { r with zeroHeld := false })
      | none => s.ringFault f 5 c true
    else
      match r.queue with
      | [] => s
      | h :: rest =>
        match s.writeHead f c h rest with
        | (t, true) => Dev.flushRing f c n t
        | (t, false) => t

/-- Write what can be written of ring c. -/
def Dev.flush (s : Dev) (f c : Nat) : Dev := Dev.flushRing f c ((s.cring f c).queue.length + 1) s

/-! Suspension -/

/-- The time in ns (R396). -/
def Dev.nowNs (s : Dev) : Rat := (s.sys.time : Rat) * 5 / 6

/-- A unit between its release and the earlier of its delivery and its due time is no longer covered (R273). -/
def MUnit.uncover (now : Rat) (u : MUnit) : MUnit :=
  if (u.stage = .released || u.stage = .flying || u.stage = .coded) && decide (now ≤ u.due) then { u with covered := false } else u

/-- Uncover the units of a stream (R273). -/
def Stream.uncoverUnits (now : Rat) (x : Stream) : Stream := { x with units := x.units.map (MUnit.uncover now) }

/-- Uncover the units of the streams that a predicate selects. -/
def Dev.uncover (s : Dev) (p : Nat → Stream → Bool) : Dev :=
  let now := s.nowNs
  let m := s.media.streams.mapVals fun n x => if p n x = true then Stream.uncoverUnits now x else x
  { s with media := { s.media with streams := m } }

/-- A suspension cause begins (R278, R280); INJECT and HOLDOVER affect every seat. -/
def Dev.suspend (s0 : Dev) (b : Nat) : Dev :=
  let s := if b == 1 || b == 2 then s0.uncover fun _ _ => true else s0
  if bitAt s.media.suspNow b then s
  else
    let old := s.regN (ADM + 0x20)
    let s1 := if old == 0 then s.setReg64 (ADM + 0x28) (ADM + 0x2C) s.sys.time else s
    let s2 := s1.setRegN (ADM + 0x20) (old ||| 2 ^ b)
    let now := s.media.suspNow ||| 2 ^ b
    ({ s2 with media := { s2.media with suspNow := now } }).trace 5 38 0 none (leBytes 4 now)

/-- A suspension cause ends (R278). -/
def Dev.unsuspend (s : Dev) (b : Nat) : Dev :=
  if bitAt s.media.suspNow b then
    let now := putBits s.media.suspNow b 1 0
    ({ s with media := { s.media with suspNow := now } }).trace 5 38 0 none (leBytes 4 now)
  else s

end Sys2Proof.Machine
end

