-- ==== Sys2Proof/Machine/Operands.lean ====
section
/-!
DEFINITION. The operands of descriptors (R293 to R295), the addresses a function may name (R285) and accesses to the
space that an address operand names.
-/
namespace Sys2Proof.Machine

/-- The 64 bytes of a descriptor, byte 0 first. -/
def descBytes (raw : BitVec 512) : Bytes := leBytes 64 raw.toNat

/-- OPCODE (R293). -/
def opcodeOf (b : Bytes) : Nat := u8At b 0
/-- DFLAGS (R293). -/
def dflagsOf (b : Bytes) : Nat := u8At b 1
/-- SPACES (R293). -/
def spacesOf (b : Bytes) : Nat := u8At b 2
/-- HANDLE (R293). -/
def handleOf (b : Bytes) : Nat := u32At b 4
/-- TAG (R293). -/
def tagOf (b : Bytes) : Nat := u64At b 8

/-- The operand form of an opcode (R295): address operands, those that must be host addresses, the operand bytes in use
(offset and length), HALLMARK permitted, HANDLE bits in use. -/
structure OpForm where
  addrs    : Nat
  hostOnly : List Nat
  used     : List (Nat × Nat)
  hallmark : Bool
  handle   : Nat
deriving DecidableEq, Repr

/-- R295, R303 and R350. -/
def opForm : Nat → Option OpForm
  | 0x01 => some ⟨0, [], [], false, 0⟩
  | 0x02 => some ⟨0, [], [(16, 1)], false, 0⟩
  | 0x10 => some ⟨1, [], [(16, 16)], false, 0⟩
  | 0x11 => some ⟨0, [], [], false, 0xFFFF⟩
  | 0x20 => some ⟨1, [0], [(16, 8)], false, 0⟩
  | 0x21 => some ⟨0, [], [], false, 0xFFFF⟩
  | 0x30 => some ⟨1, [0], [(16, 9)], false, 0xFFFF⟩
  | 0x31 => some ⟨0, [], [], false, 0xFFFFFFFF⟩
  | 0x40 => some ⟨4, [1, 2], [(16, 48)], true, 0xFFFFFFFF⟩
  | 0x41 => some ⟨2, [], [(16, 24)], true, 0xFFFFFFFF⟩
  | 0x48 => some ⟨1, [0], [(16, 1), (24, 16)], false, 0xFFFFFFFF⟩
  | 0x50 => some ⟨2, [], [(16, 24)], true, 0xFFFFFFFF⟩
  | 0x51 => some ⟨2, [], [(16, 24)], true, 0xFFFFFFFF⟩
  | 0x60 => some ⟨2, [0], [(16, 32)], true, 0xFFFFFFFF⟩
  | 0x61 => some ⟨2, [], [(16, 24)], true, 0xFFFFFFFF⟩
  | 0x70 => some ⟨2, [], [(16, 34)], false, 0⟩
  | 0x71 => some ⟨2, [], [(16, 34)], false, 0⟩
  | 0x78 => some ⟨2, [], [(16, 32)], false, 0⟩
  | 0x80 => some ⟨1, [0], [(16, 2), (19, 21)], false, 0⟩
  | _ => none

/-- Whether operand byte i is listed. -/
def OpForm.uses (f : OpForm) (i : Nat) : Bool := f.used.any fun e => decide (e.1 ≤ i) && decide (i < e.1 + e.2)

/-- The common checks of R294 on a descriptor whose completion ring has hallmark array hmBase: reserved bits and bytes,
HALLMARK, operands marked host, the unused bits of HANDLE, MIRROR_CTL from a virtual function. -/
def commonOk (func hmBase : Nat) (b : Bytes) : Bool :=
  match opForm (opcodeOf b) with
  | none => false
  | some f =>
    let df := dflagsOf b
    let sp := spacesOf b
    decide (df < 4) && (!bitAt df 1 || (f.hallmark && hmBase != 0)) &&
      decide (sp < 2 ^ f.addrs) && f.hostOnly.all (fun k => !bitAt sp k) &&
      u8At b 3 == 0 && (handleOf b &&& (0xFFFFFFFF - f.handle)) == 0 &&
      (List.range 48).all (fun i => f.uses (16 + i) || u8At b (16 + i) == 0) &&
      !(opcodeOf b == 0x80 && func != 0)

/-- First address of the model store (R149). -/
def modelStore : Nat := 0xB00000000

/-- The HBM window of function f: first byte and length (R285, R309). -/
def Dev.window (s : Dev) (f : Nat) : Nat × Nat :=
  if f == 0 then (0, modelStore)
  else
    let b := s.regN (RNG + 0x8000 + f * 0x10) * 0x10000
    let n := s.regN (RNG + 0x8004 + f * 0x10) * 0x10000
    (b, min n (modelStore - b))

/-- Bytes of a granule of the frame pool (R214). -/
def granule : Nat := 0x10000

/-- The HOST_HELD buffers of f with no RELEASE accepted (R285), as first byte and length. POOL_MARK runs in acceptance order among the
descriptors that name pool buffers (R219), so a RELEASE accepted before this descriptor has run. -/
def Dev.heldRanges (s : Dev) (f : Nat) : List (Nat × Nat) :=
  (s.media.pool.filter fun e => e.2.state == .hostHeld && e.2.owner == f && !e.2.releaseDue).map
    fun e => (e.2.base, e.2.granules * granule)

/-- Every address from a up to e lies in one of the ranges; each round goes on from the end of the range that reaches furthest. -/
def coveredBy (l : List (Nat × Nat)) : Nat → Nat → Nat → Bool
  | 0, a, e => decide (e ≤ a)
  | k + 1, a, e =>
    let m := maxN ((l.filter fun r => decide (r.1 ≤ a)).map fun r => r.1 + r.2)
    decide (e ≤ a) || (decide (a < m) && coveredBy l k m e)

/-- A device address that a function's descriptor names is permitted (R285) and outside the model store (R149): every byte lies in the
window or in one of the function's held buffers. -/
def Dev.permitted (s : Dev) (f a n : Nat) : Bool :=
  let l := s.window f :: s.heldRanges f
  decide (a + n ≤ modelStore) && coveredBy l (l.length + 1) a (a + n)

/-- An address operand of n bytes is one the descriptor may name: a host address below 2^64, or a permitted device
address. -/
def Dev.addrOk (s : Dev) (f : Nat) (space : Bool) (a n : Nat) : Bool :=
  if space then s.permitted f a n else decide (a + n ≤ 2 ^ 64)

/-- HBM_POOL_USE.CFG_ERR (R214): the pool region extends past 48 GiB or overlaps the model store. -/
def Dev.poolErr (s : Dev) : Bool :=
  s.regN (HBM + 0x104) != 0 && decide ((s.regN (HBM + 0x100) + s.regN (HBM + 0x104)) * granule > modelStore)

/-- Granules of the frame pool (R214). -/
def Dev.poolGranules (s : Dev) : Nat := if s.poolErr then 0 else s.regN (HBM + 0x104)

/-- Lowest address of a rectangle, and one past its highest (R305). -/
def extent (a st : Int) (width rows : Nat) : Int × Int :=
  let l := a + ((rows : Int) - 1) * st
  (min a l, max a l + width)

/-- The device addresses that a descriptor's address operands name (R295, R303), as first address and one past the last; a statistics
address by its first entry. -/
def devNamed (b : Bytes) : List (Int × Int) :=
  let sp := spacesOf b
  let one (k off n : Nat) : List (Int × Int) :=
    if bitAt sp k then [((u64At b off : Int), ((u64At b off + n : Nat) : Int))] else []
  match opcodeOf b with
  | 0x10 => one 0 16 (u64At b 24)
  | 0x40 => one 3 48 16
  | 0x41 => one 0 16 (u64At b 24) ++ one 1 32 16
  | 0x50 => one 0 16 (u64At b 24) ++ one 1 32 16
  | 0x51 => one 0 16 (u64At b 24) ++ one 1 32 16
  | 0x60 => one 1 40 16
  | 0x61 => one 0 16 (u64At b 24) ++ one 1 32 16
  | 0x70 => one 0 16 (u64At b 24) ++ one 1 32 (u64At b 40)
  | 0x71 => one 0 16 (u64At b 24) ++ one 1 32 (u64At b 40)
  | 0x78 =>
    (if bitAt sp 0 then [extent (u64At b 16) (sext 32 (u32At b 40)) (u32At b 32) (u32At b 36)] else []) ++
      if bitAt sp 1 then [extent (u64At b 24) (sext 32 (u32At b 44)) (u32At b 32) (u32At b 36)] else []
  | _ => []

/-- A descriptor names a pool buffer (R219): POOL_MARK, ENC_PICTURE from a buffer by its handle, or an address in the pool. -/
def Dev.namesPool (s : Dev) (b : Bytes) : Bool :=
  let lo : Int := (s.regN (HBM + 0x100) * granule : Nat)
  let hi : Int := ((s.regN (HBM + 0x100) + s.poolGranules) * granule : Nat)
  opcodeOf b == 0x48 || (opcodeOf b == 0x40 && bitAt (spacesOf b) 0) ||
    (devNamed b).any fun r => decide (r.1 < hi) && decide (lo < r.2)

/-- Read n bytes at an address of either space; none where a host access fails (R301). -/
def Dev.readSpace (s : Dev) (space : Bool) (a n : Nat) : Option Bytes :=
  if space then some (s.dmem.readN a n) else s.hostRead a n

/-- Write bytes at an address of either space; none where a host access fails (R301). -/
def Dev.writeSpace (s : Dev) (space : Bool) (a : Nat) (b : Bytes) : Option Dev :=
  if space then some (s.putDev a b) else s.hostWrite a b

end Sys2Proof.Machine
end

