-- ==== Sys2Proof/Machine/Rings.lean ====
section
/-!
DEFINITION. Descriptor rings: acceptance (R287 to R292), completion (R292, R296 to R301), FENCE (R300) and the
commands that belong to no stream: NOP, FENCE, LOAD, WAKE, POLL, MOD_TIME, MSIX_PENDING_SEND.
-/
namespace Sys2Proof.Machine

/-- Status codes of R297. -/
def stDONE : Nat := 0x00
def stCONCEALED : Nat := 0x01
def stLATE : Nat := 0x02
def stTAKEOVER : Nat := 0x03
def stADMISSION : Nat := 0x10
def stFORMAT : Nat := 0x11
def stMISSING : Nat := 0x12
def stBAD : Nat := 0x13
def stCORRUPT : Nat := 0x30
def stCANCELLED : Nat := 0x40
def stABORTED : Nat := 0x41
def stCOPY : Nat := 0x50

/-- A function exists: the physical function, or an enabled virtual function (R283, R310). -/
def Dev.exists (s : Dev) (f : Nat) : Bool := f == 0 || decide (f ≤ s.host.vfs)

/-- The function's rings are polled and accepted from: RNG_FCTL.ENABLE, D0, serving (R290, R404, R408). -/
def Dev.polled (s : Dev) (f : Nat) : Bool :=
  s.serving && s.exists f && bitAt (s.regN (WINF f)) 0 && !(s.fn f).d3

/-- Accepted descriptors and decided completions that await a write into completion ring c (P[c] of R291). -/
def Dev.awaiting (s : Dev) (f c : Nat) : Nat :=
  (s.host.accepted.filter fun a => a.func == f && a.cq == c).length + (s.cring f c).queue.length

/-- Accept one descriptor from ring n of function f (R291). -/
def Dev.accept (s : Dev) (f n : Nat) (raw : Bytes) : Dev :=
  let r := s.dring f n
  let a : Acc :=
    { seq := s.host.nextSeq, time := s.sys.time, func := f, ring := n, cq := r.cq, index := r.acc, raw := raw, stage := .waiting
      injected := s.sys.inj.unlocked }
  let s1 := s.setDring f n { r with acc := (r.acc + 1) % 2 ^ 32 }
  let x := s1.fn f
  let s2 := s1.setFn f { x with accepts := x.accepts + 1 }
  ({ s2 with host := { s2.host with accepted := s2.host.accepted ++ [a], nextSeq := s2.host.nextSeq + 1 } }).count (ev 11 2) 1

/-- SCOPE of a valid FENCE (R295): one that fails a check of R294 performs no part of it (R8). -/
def fenceScope (b : Bytes) : Option Nat :=
  if opcodeOf b == 2 && commonOk 0 0 b && decide (u8At b 16 < 2) then some (u8At b 16) else none

/-- Fence b of R300 covers descriptor a: same function, and same ring or SCOPE 1. -/
def fenceCovers (b a : Acc) : Bool :=
  match fenceScope b.raw with
  | some sc => b.func == a.func && (sc == 1 || b.ring == a.ring)
  | none => false

/-- A descriptor is held back by an earlier FENCE (R300). -/
def Dev.fenced (s : Dev) (a : Acc) : Bool :=
  s.host.accepted.any fun b => decide (b.seq < a.seq) && fenceCovers b a

/-- Every descriptor that a FENCE waits for has completed: none is accepted, none decided and not yet written (R300). -/
def Dev.fenceMet (s : Dev) (a : Acc) : Bool :=
  !(s.host.accepted.any fun b => decide (b.seq < a.seq) && fenceCovers a b) &&
    !((s.fn a.func).crings.any fun e => e.2.queue.any fun c => fenceScope a.raw == some 1 || c.ring == a.ring)

/-- FLAGS of a completion (R296): INJECTED when the injection registers were unlocked since acceptance (R297). -/
def Dev.cplFlags (s : Dev) (a : Acc) (flags : Nat) (hm : Option Bytes) : Nat :=
  flags ||| b2n (a.injected || s.sys.inj.unlocked) ||| (2 * b2n hm.isSome)

/-- Decide the completion of an accepted descriptor (R292, R296) without settling fences. -/
def Dev.conclude (s : Dev) (a : Acc) (status result flags : Nat) (hm : Option Bytes) : Dev :=
  let s1 := { s with host := { s.host with accepted := s.host.accepted.filter fun b => b.seq != a.seq } }
  let c : Cpl :=
    { tag := tagOf a.raw, result := result % 2 ^ 32, status := status, flags := s.cplFlags a flags hm, ring := a.ring
      index := a.index, time := s.sys.time, irqNow := bitAt (dflagsOf a.raw) 0, hallmark := hm }
  let r := s1.cring a.func a.cq
  let s2 := s1.setCring a.func a.cq { r with queue := r.queue ++ [c] }
  (s2.flush a.func a.cq).count (ev 14 5) (b2n (status == stLATE))


/-- The row of the table that runs an opcode, by number: the opcode, and for POOL_MARK and MIRROR_CTL the operation
(R218, R351). None where no row runs it: the descriptor is BAD_DESCRIPTOR. -/
def rowOf (b : Bytes) : Option Nat :=
  let op := opcodeOf b
  if op == 0x48 then (if 1 ≤ u8At b 16 ∧ u8At b 16 ≤ 4 then some (0x4800 + u8At b 16) else none)
  else if op == 0x80 then (if 1 ≤ u8At b 16 ∧ u8At b 16 ≤ 5 then some (0x8000 + u8At b 16) else none)
  else (opForm op).map fun _ => op

/-- The accepted descriptor that a command spells: acceptance comes only by a poll (R291; log entry 13). -/
def Dev.findDesc (s : Dev) (d : Desc) : Option Acc :=
  s.host.accepted.find? fun a => a.func == d.func.val && a.ring == d.ring.val && a.index == d.index.toNat && a.raw == descBytes d.raw

/-- The descriptors serialised in acceptance order by R153 (with MIRROR_CTL, R350). -/
def serialOp (op : Nat) : Bool := op == 0x10 || op == 0x11 || op == 0x20 || op == 0x30 || op == 0x80

/-- R219 orders two descriptors of one function: a POOL_MARK, and any that names a pool buffer. -/
def Dev.poolOrdered (s : Dev) (a b : Acc) : Bool :=
  a.func == b.func && ((opcodeOf a.raw == 0x48 && s.namesPool b.raw) || (opcodeOf b.raw == 0x48 && s.namesPool a.raw))

/-- A lossless job (R311). -/
def llOpcode (op : Nat) : Bool := op == 0x70 || op == 0x71

/-- The stream handle of a stream opcode (R295). -/
def streamOp (op : Nat) : Bool :=
  op == 0x31 || op == 0x40 || op == 0x41 || op == 0x50 || op == 0x51 || op == 0x60 || op == 0x61

/-- A descriptor waits for one accepted before it that its rule serialises with it (R153, R219, R299, R350): until that one has begun,
and with R219 until a lossless job that it names the memory of has completed (log entry 50). -/
def Dev.serialised (s : Dev) (a : Acc) : Bool :=
  s.host.accepted.any fun b => decide (b.seq < a.seq) &&
    ((b.stage == .waiting &&
       ((serialOp (opcodeOf a.raw) && serialOp (opcodeOf b.raw)) ||
        (streamOp (opcodeOf a.raw) && streamOp (opcodeOf b.raw) && a.func == b.func && handleOf a.raw == handleOf b.raw))) ||
     ((b.stage == .waiting || llOpcode (opcodeOf b.raw)) && s.poolOrdered a b))

/-- What an accepted descriptor completes with as soon as nothing earlier holds it: DONE for a begun FENCE that need wait no more (R300),
BAD_DESCRIPTOR for one that no row of the table runs (R294). -/
def Dev.settles (s : Dev) (a : Acc) : Option Nat :=
  if a.stage == .begun then (if (fenceScope a.raw).isSome && s.fenceMet a then some stDONE else none)
  else if a.stage == .waiting && (rowOf a.raw).isNone && !s.fenced a && !s.serialised a then some stBAD
  else none

/-- Complete the descriptors that wait for nothing more, at most n of them, oldest first (R294, R300). -/
def Dev.settle : Nat → Dev → Dev
  | 0, s => s
  | n + 1, s =>
    match s.host.accepted.findSome? fun (a : Acc) => (s.settles a).map fun st => (a, st) with
    | some (a, st) => Dev.settle n (s.conclude a st 0 0 none)
    | none => s

/-- Complete every descriptor that waits for nothing more. -/
def Dev.settleAll (s : Dev) : Dev := s.settle s.host.accepted.length

/-- Complete an accepted descriptor (R292, R296 to R300). -/
def Dev.complete (s : Dev) (a : Acc) (status result flags : Nat) (hm : Option Bytes) : Dev := (s.conclude a status result flags hm).settleAll

/-- Change an accepted descriptor's stage; what waited only for its beginning settles. -/
def Dev.setStage (s : Dev) (q : Nat) (st : Stage) : Dev :=
  ({ s with host := { s.host with accepted := s.host.accepted.map fun a => if a.seq == q then { a with stage := st } else a } } : Dev).settleAll

/-- The accepted descriptor with an acceptance number. -/
def Dev.accOf (s : Dev) (q : Nat) : Option Acc := s.host.accepted.find? fun a => a.seq == q

/-- Run a descriptor command: the device serves, the descriptor is accepted and waiting, no FENCE and no serialised
descriptor holds it back, the row is the command's, and the common checks of R294 hold; bad rejects one that fails them. -/
def Dev.runWith (s : Dev) (d : Desc) (row : Nat) (run bad : Acc → Dev → Dev) : Dev :=
  if !s.serving || rowOf (descBytes d.raw) != some row then s
  else
    match s.findDesc d with
    | none => s
    | some a =>
      if a.stage != .waiting || s.fenced a || s.serialised a then s
      else if commonOk a.func (s.cring a.func a.cq).hmBase a.raw then run a s
      else bad a s

/-- Run a descriptor command whose completions keep no order of a stream. -/
def Dev.runDesc (s : Dev) (d : Desc) (row : Nat) (run : Acc → Dev → Dev) : Dev :=
  s.runWith d row run fun a t => t.complete a stBAD 0 0 none

/-- NOP (R295, R299). -/
def Dev.nopOp (a : Acc) (s : Dev) : Dev := s.complete a stDONE 0 0 none

/-- FENCE (R300): complete at once where nothing earlier is outstanding, else wait. -/
def Dev.fenceOp (a : Acc) (s : Dev) : Dev :=
  match fenceScope a.raw with
  | none => s.complete a stBAD 0 0 none
  | some _ => if s.fenceMet a then s.complete a stDONE 0 0 none else s.setStage a.seq .begun

/-! LOAD -/

/-- A completion ring entry of the table in range (R286). -/
def cqEntryOk (e : Bytes) : Bool :=
  u64At e 0 % 4096 == 0 && decide (6 ≤ u8At e 8) && decide (u8At e 8 ≤ 16) && decide (u8At e 9 < 4) &&
    decide (u8At e 10 < 32) && u8At e 11 == 0 && decide (1 ≤ u16At e 12) && u64At e 16 % 128 == 0 && zeroAt e 24 8

/-- A descriptor ring entry of the table in range (R286). -/
def dqEntryOk (e : Bytes) : Bool :=
  u64At e 0 % 4096 == 0 && decide (6 ≤ u8At e 8) && decide (u8At e 8 ≤ 16) && decide (u8At e 9 < 2) &&
    decide (u8At e 10 < 64) && zeroAt e 11 21

/-- The completion ring an entry names, enabled. -/
def cqOfEntry (e : Bytes) : CRing :=
  { CRing.off with en := true, irqEn := bitAt (u8At e 9) 1, base := u64At e 0, log2 := u8At e 8, vector := u8At e 10
                   modCount := u16At e 12, modTime := u16At e 14, hmBase := u64At e 16, zeroHeld := true }

/-- What a load makes of completion ring c: the ring, and whether the entry is bad (R287). A descriptor ring whose entry has ENABLE 1 names the
completion ring that the load leaves it with: an enabled ring keeps its own. -/
def Dev.loadCq (s : Dev) (f : Nat) (tbl : Bytes) (c : Nat) : CRing × Bool :=
  let e := slice tbl (2048 + 32 * c) 32
  let r := s.cring f c
  let en := bitAt (u8At e 9) 0
  if r.en then
    if en then
      if cqEntryOk e && u64At e 0 == r.base && u8At e 8 == r.log2 && u64At e 16 == r.hmBase then
        ({ r with irqEn := bitAt (u8At e 9) 1, vector := u8At e 10, modCount := u16At e 12, modTime := u16At e 14 }, false)
      else (r, true)
    else
      let named := (List.range 64).any fun n =>
        let d := slice tbl (32 * n) 32
        let q := s.dring f n
        bitAt (u8At d 9) 0 && (if q.en then q.cq else u8At d 10) == c
      if named || s.awaiting f c != 0 then (r, true) else (CRing.off, false)
  else if en then (if cqEntryOk e then (cqOfEntry e, false) else (r, true))
  else (r, false)

/-- What a load makes of descriptor ring n, given the completion rings it leaves enabled (R287). -/
def Dev.loadDq (s : Dev) (f : Nat) (tbl : Bytes) (cqOn : Nat → Bool) (n : Nat) : DRing × Bool :=
  let e := slice tbl (32 * n) 32
  let r := s.dring f n
  let en := bitAt (u8At e 9) 0
  if r.en then
    if en then
      if dqEntryOk e && u64At e 0 == r.base && u8At e 8 == r.log2 && u8At e 10 == r.cq && cqOn r.cq then (r, false) else (r, true)
    else (DRing.off, false)
  else if en then
    if dqEntryOk e && cqOn (u8At e 10) then
      ({ en := true, base := u64At e 0, log2 := u8At e 8, cq := u8At e 10, acc := 0, accHeld := true, zeroHeld := true }, false)
    else (r, true)
  else (r, false)

/-- Apply one descriptor ring of a load: the ring, the error, the write of ACC on an enable (R287, R288). -/
def Dev.applyDq (f : Nat) (s : Dev) (n : Nat) (x : DRing × Bool) : Dev :=
  let fresh := x.1.en && !(s.dring f n).en
  let s1 := s.setDring f n x.1
  let s2 := if fresh then s1.writeAcc f n else s1
  if x.2 then s2.rerr f 0 n false else s2

/-- Apply one completion ring of a load. -/
def Dev.applyCq (f : Nat) (s : Dev) (c : Nat) (x : CRing × Bool) : Dev :=
  let s1 := (s.setCring f c x.1).flush f c
  if x.2 then s1.rerr f 0 c true else s1

/-- RNG_CMD.LOAD (R287, R288, R301). -/
def Dev.loadOp (s : Dev) (f : Nat) : Dev :=
  if !s.serving || !s.exists f || (s.fn f).d3 then s
  else
    match s.hostRead (s.ringTable f) 4096 with
    | none => s.ringFault f 2 0 false
    | some tbl =>
      let s0 := s.count (ev 11 0) 4096
      let cqs := (List.range 64).map fun c => s0.loadCq f tbl c
      let cqOn (c : Nat) : Bool := (listGet cqs c (CRing.off, false)).1.en
      let dqs := (List.range 64).map fun n => s0.loadDq f tbl cqOn n
      let s1 := (List.range 64).foldl (fun t c => t.applyCq f c (listGet cqs c (CRing.off, false))) s0
      (List.range 64).foldl (fun t n => t.applyDq f n (listGet dqs n (DRing.off, false))) s1

/-! POLL -/

/-- Retry the held writes of a function (R301): counts, completions. -/
def Dev.retryHeld (s : Dev) (f : Nat) : Dev :=
  let s1 := (s.fn f).drings.foldl (fun t e => if e.2.accHeld then t.writeAcc f e.1 else t) s
  ((s1.fn f).crings.foldl (fun t e => t.flush f e.1) s1).settleAll

/-- Accept up to n descriptors in index order from ring q (R291); the answer says whether a descriptor read failed. -/
def Dev.acceptBatch (f q : Nat) : Nat → Dev → Dev
  | 0, s => s
  | n + 1, s =>
    let r := s.dring f q
    match s.hostRead (r.base + 64 * (r.acc % 2 ^ r.log2)) 64 with
    | none => s.ringFault f 4 q false
    | some b => Dev.acceptBatch f q n ((s.accept f q b).count (ev 11 0) 64)

/-- One ring's turn in a poll (R291). A ring whose first 0 of ACC is held is not accepted from (R288). -/
def Dev.pollRing (f : Nat) (page : Bytes) (s : Dev) (q : Nat) : Dev :=
  let r := s.dring f q
  if !r.en || r.zeroHeld then s
  else
    let prod := u32At page (4 * q)
    let diff := (prod + 2 ^ 32 - r.acc) % 2 ^ 32
    let c := s.cring f r.cq
    let used := (c.wr + 2 ^ 32 - u32At page (256 + 4 * r.cq)) % 2 ^ 32
    if diff > 2 ^ r.log2 then s.rerr f 1 q false
    else if used > 2 ^ c.log2 then s.rerr f 1 r.cq true
    else
      let room := 2 ^ c.log2 - used - s.awaiting f r.cq
      let n := min diff (min 256 room)
      if n == 0 then s
      else
        let s1 := (Dev.acceptBatch f q n s).writeAcc f q
        let x := s1.fn f
        (if n == 256 && min diff room > 256 then s1.setFn f { x with again := true } else s1).settleAll

/-- The enabled rings in visiting order: one after the ring of the previous poll's start, wrapping after 63 (R291). -/
def ringOrder (lastStart : Nat) : List Nat := (List.range 64).map fun k => (lastStart + 1 + k) % 64

/-- A poll of function f is due (R290, R291): the timer polls it, or a WAKE or the limit of 256 asks for one. When it comes within the timer's
interval is no claim of the model (log entry 1). -/
def Dev.pollDue (s : Dev) (f : Nat) : Bool := s.polled f && (s.regN (WINF f + 0x20) != 0 || (s.fn f).again)

/-- A poll of function f (R289 to R291, R301). -/
def Dev.pollOp (s : Dev) (f : Nat) : Dev :=
  if !s.pollDue f then s
  else
    let s0 := (s.retryHeld f).count (ev 11 4) 1
    let x0 := s0.fn f
    let s1 := s0.setFn f { x0 with again := false }
    match s1.hostRead (s1.doorbell f) 512 with
    | none => s1.ringFault f 3 0 false
    | some page =>
      let s2 := s1.count (ev 11 0) 512
      let order := (ringOrder (s2.fn f).lastStart).filter fun q => (s2.dring f q).en
      let x := s2.fn f
      let cons := (List.range 64).map fun c => (c, u32At page (256 + 4 * c))
      let s3 := s2.setFn f { x with lastStart := order.headD x.lastStart, cons := cons }
      order.foldl (fun t q => if t.serving then t.pollRing f page q else t) s3

/-- A write to WAKE (R290): a poll is wanted. -/
def Dev.wakeOp (s : Dev) (f : Nat) : Dev :=
  if !s.serving || !s.exists f || (s.fn f).d3 then s
  else
    let s1 := s.count (ev 11 5) 1
    if bitAt (s1.regN (WINF f)) 0 then
      let x := s1.fn f
      s1.setFn f { x with again := true }
    else s1

/-- Expiry of a completion ring's moderation timer (R302). -/
def Dev.modTimeOp (s : Dev) (f c : Nat) : Dev :=
  let r := s.cring f c
  match r.oldest with
  | some t =>
    if s.clocked && r.en && r.irqEn && decide (t + r.modTime * usTicks ≤ s.sys.time) then
      (s.setCring f c { r with pend := 0, oldest := none }).trigger f r.vector
    else s
  | none => s

/-- A pending message is sent once it can be (R302). -/
def Dev.msixPendingOp (s : Dev) (f v : Nat) : Dev :=
  if bitAt (s.regN (MSI f + 0x800)) v && s.canSend f v then (s.setPba f v false).msi f v else s

end Sys2Proof.Machine
end

