-- ==== Sys2Proof/Machine/Wheel.lean ====
section
/-!
DEFINITION. What contracts hold: reserved tiles (R261), bookings of the wheel (R264, R265), the PCIe booking capacity
(R282), and the suspension causes that follow from them (R278). Also a plain's gating conditions (R407).
-/
namespace Sys2Proof.Machine

/-- CLASS of a contract (R258): 0 guaranteed. -/
def Contract.guaranteed (c : Contract) : Bool := u8At c.cpb 4 == 0
def Contract.job (c : Contract) : Nat := u8At c.cpb 2
def Contract.clkDiv (c : Contract) : Nat := u8At c.cpb 8
def Contract.rerunA (c : Contract) : Nat := u8At c.cpb 5
def Contract.burst (c : Contract) : Nat := u8At c.cpb 7
def Contract.period (c : Contract) : Nat := u32At c.cpb 12
def Contract.latency (c : Contract) : Nat := u32At c.cpb 16
/-- U of R258: units per period. -/
def Contract.units (c : Contract) : Nat := if c.job < 2 then ceilDiv (u16At c.cpb 22) (64 * u8At c.cpb 24) else 1

/-- Every seat of every contract, with its contract. -/
def Media.allSeats (m : Media) : List (Contract × Seat) := m.contracts.flatMap fun e => e.2.seats.map fun x => (e.2, x)

/-- Logical tiles reserved (R261): seats' tiles, lost tiles' moved work included in them. -/
def Media.seatTiles (m : Media) : List Nat := m.allSeats.flatMap fun e => e.2.tiles

/-- The plains of the device. -/
def Dev.plain (s : Dev) (p : Nat) : Plain := listGet s.units.plains p
  { failed := true, gated := true, idleFrom := none, div := 4, phase := 0, place := [], softMap := [], bad := [], lost := []
    testPos := none, arrays := [], srams := [], ecc := [], pool := [], rimDown := true, warpDown := true }

def Dev.setPlain (s : Dev) (p : Nat) (x : Plain) : Dev :=
  { s with units := { s.units with plains := s.units.plains.set p x } }

/-- Physical position (row × 17 + column) of a logical tile of a plain (R11, R105): its replacement, or its home. -/
def Plain.posOf (x : Plain) (t : Nat) : Nat := x.place.get t (t / 16 * 17 + t % 16)

/-- The logical tile at a physical position, if any. -/
def Plain.tileAt (x : Plain) (pos : Nat) : Option Nat := (List.range 256).find? fun t => x.posOf t == pos && !x.lost.contains t

/-- Free physical positions of a plain, ascending (R375): serving no tile, not failed, not under test. -/
def Plain.freePos (x : Plain) : List Nat :=
  (List.range 272).filter fun pos => (x.tileAt pos).isNone && !x.bad.contains pos && x.testPos != some pos

/-- A logical tile counts as reserved (R261): a seat holds it, it is lost, failed without a spare or under test. -/
def Dev.tileReserved (s : Dev) (held : List Nat) (n : Nat) : Bool :=
  let x := s.plain (n / 256)
  let t := n % 256
  held.contains n || x.lost.contains t || x.bad.contains (x.posOf t) || x.testPos == some (x.posOf t)

/-- Reserved logical tiles of a plain (ADM_TILES, R280). -/
def Dev.reservedIn (s : Dev) (p : Nat) : Nat :=
  let held := s.media.seatTiles
  ((List.range 256).filter fun t => s.tileReserved held (p * 256 + t)).length

/-- A seat holds tiles in plain p. -/
def Seat.inPlain (x : Seat) (p : Nat) : Bool := x.tiles.any fun t => t / 256 == p

/-- floor_p of R397. -/
def Dev.floorOf (s : Dev) (p : Nat) : Nat :=
  (s.media.allSeats.filter fun e => e.1.guaranteed && e.2.inPlain p).foldl (fun a e => min a e.1.clkDiv) 6

/-- PCIe booking capacity per slot for a trained link (R265, R282). -/
def pcieCapOf (gts width : Nat) : Nat :=
  let x16 := if gts == 64 then 100000 else if gts == 32 then 50000 else if gts == 16 then 25000 else 0
  if width == 16 then x16 else if width == 8 then x16 / 2 else 0

/-- ADM_PCIECAP (R280, R282, R408: 0 while the physical function is in D3hot). -/
def Dev.pcieCap (s : Dev) : Nat := if (s.fn 0).d3 then 0 else pcieCapOf s.host.gts s.host.width

/-- HBM booking capacity per slot (R265). -/
def hbmCap : Nat := 1440000

/-- First tick of slot j of a revolution (R264). -/
def slotBegin (j : Nat) : Nat := j * 9375 / 8

/-- The slot of a moment of the timebase, counted through the revolutions (R264): 1,024 × revolution + slot. -/
def slotAt (t : Nat) : Nat := t / 1200000 * 1024 + (8 * (t % 1200000) + 7) / 9375

/-- First tick of slot n, counted through the revolutions (R264). -/
def slotTick (n : Nat) : Nat := n / 1024 * 1200000 + slotBegin (n % 1024)

/-- The slot that runs now. -/
def Dev.slotNow (s : Dev) : Nat := slotAt s.sys.time

/-- Slots of a booking, wrapping at the revolution (R264, R266). -/
def Booking.covers (b : Booking) (slot : Nat) : Bool := decide ((slot + 1024 - b.slot % 1024) % 1024 < b.len)

/-- The first slots of a seat's k departures in a revolution, at offset a (R266). -/
def trainStarts (k a : Nat) : List Nat := (List.range k).map fun j => (a + j * 1024 / k) % 1024

/-- Slot now lies in booking b as the departure that began in slot dep has it, of a train of n slots (R266). -/
def Booking.within (b : Booking) (n dep now : Nat) : Bool :=
  let off := (b.slot + 1024 - dep % 1024) % 1024
  decide (off < n) && decide (dep + off ≤ now) && decide (now < dep + off + b.len)

/-- The unit instance, among those given, whose segment in the departure of slot dep runs now (R266). -/
def Dev.segmentNow (s : Dev) (c : Contract) (t : Seat) (dep : Nat) (p : Nat → Bool) : Option Nat :=
  (t.bookings.find? fun b => p b.res && b.within c.rTrain dep s.slotNow).map (·.res)

def Media.allBookings (m : Media) : List Booking := m.allSeats.flatMap fun e => e.2.bookings

/-- Slots booked of a unit instance (ADM_BOOK, R280). -/
def Media.bookedSlots (m : Media) (res : Nat) : Nat := sumN ((m.allBookings.filter fun b => b.res == res).map (·.len))

/-- Bytes booked of HBM (38) or PCIe (39) in a slot. -/
def Media.bookedBytes (m : Media) (res slot : Nat) : Nat :=
  sumN ((m.allBookings.filter fun b => b.res == res && b.covers slot).map (·.bytes))

/-- Bytes booked in the busiest slot. -/
def Media.busiest (m : Media) (res : Nat) : Nat := maxN ((List.range 1024).map fun j => m.bookedBytes res j)

/-- A booking in 1,024ths of a capacity, as the 11 bits of BOOKED have it (R280); the field's value where it does not hold them is not stated. DESIGN
CHOICE, log entry 176. -/
def bookedField (n cap : Nat) : Nat :=
  let v := if cap == 0 then 0 else ceilDiv (n * 1024) cap
  if v < 2048 then v else (Config.bookedOver v).toNat

/-- ADM_BOOK of a resource (R280). -/
def Dev.admBook (s : Dev) (res : Nat) : Nat :=
  if res < 38 then s.media.bookedSlots res
  else if res == 38 then bookedField (s.media.busiest 38) hbmCap
  else if res == 39 then bookedField (s.media.busiest 39) s.pcieCap
  else 0

/-- The conditions under which suspension causes 0 to 3 hold now, from the state (R278): throttle, injection, link. Holdover
is set and cleared by its own events. -/
def Dev.throttleHolds (s : Dev) : Bool :=
  s.media.allSeats.any fun e => e.1.guaranteed && (List.range 8).any fun p =>
    e.2.inPlain p && decide ((s.plain p).div > e.1.clkDiv)

def Dev.linkLow (s : Dev) : Bool := decide (s.pcieCap < s.media.busiest 39)

/-- LINK holds (R278): the capacity is too low, or a seat's queue has not been empty since it or the host's service was. -/
def Dev.linkHolds (s : Dev) : Bool := s.linkLow || s.media.allSeats.any fun e => e.1.guaranteed && e.2.link

/-- While the capacity is too low every guaranteed seat is under LINK (R278). -/
def Dev.markLink (s : Dev) : Dev :=
  if !s.linkLow then s
  else
    let mark (c : Contract) : Contract := if c.guaranteed then { c with seats := c.seats.map fun t => { t with link := true } } else c
    { s with media := { s.media with contracts := s.media.contracts.map fun e => (e.1, mark e.2) } }

/-- Set or clear a suspension cause as its condition now stands. -/
def Dev.cause (s : Dev) (b : Nat) (on : Bool) : Dev := if on then s.suspend b else s.unsuspend b

/-- A contract's seat has tiles in a plain whose divider is above its CLK_DIV (R278). -/
def Dev.seatSlow (s : Dev) (c : Contract) (x : Seat) : Bool :=
  c.guaranteed && (List.range 8).any fun p => x.inPlain p && decide ((s.plain p).div > c.clkDiv)

/-- The seat of a stream, with its contract. -/
def Dev.seatOf (s : Dev) (x : Stream) : Option (Contract × Seat) :=
  (s.media.contracts.find x.contract).bind fun c => c.seats[x.seat]?.map fun t => (c, t)

/-- THROTTLE and LINK as they stand (R278); the units of the seats that they affect are not covered. -/
def Dev.refreshSusp (s0 : Dev) : Dev :=
  let sl := s0.markLink
  let s := sl.uncover fun _ x => match sl.seatOf x with
    | some (c, t) => sl.seatSlow c t || (c.guaranteed && t.link)
    | none => false
  let s1 := s.cause 0 s.throttleHolds
  s1.cause 3 s1.linkHolds

/-- A plain may be gated (R407): no reserved logical tile, no test, NO_GATE 0. -/
def Dev.mayGate (s : Dev) (p : Nat) : Bool :=
  !(s.media.allSeats.any fun e => e.2.inPlain p) && (s.plain p).testPos.isNone && !bitAt (s.regN PWR) p

/-- Keep the moment since which a plain's gating conditions hold (R407). -/
def Dev.refreshIdle (s : Dev) : Dev :=
  (List.range 8).foldl (fun t p =>
    let x := t.plain p
    if t.mayGate p then (if x.idleFrom.isNone then t.setPlain p { x with idleFrom := some t.sys.time } else t)
    else t.setPlain p { x with idleFrom := none }) s

/-- A gated plain that has not failed wakes (R407, R429). -/
def Dev.wakePlain (s : Dev) (p : Nat) : Dev :=
  let x := s.plain p
  if x.gated && !x.failed then (s.setPlain p { x with gated := false }).trace 8 p p (some p) [] else s

/-- Gate a plain (R407, R429): GATE_ENTER, then the pool's contents are gone. DEDUCED, log entry 31. -/
def Dev.gatePlain (s : Dev) (p : Nat) : Dev :=
  let s1 := s.trace 7 p p (some p) []
  let x := s1.plain p
  (s1.setPlain p { x with gated := true, pool := [] }).count (ev p 20) 1

/-- Enter a repair in soft repair (R374, R380): the first free entry, or nothing where it is full. -/
def Units.enterSoft (u : Units) (e : BitVec 64) : Units := if u.soft.length < 128 then { u with soft := u.soft ++ [e] } else u

/-- A soft repair entry (R381): KIND, PLAIN, POS, SUB, VALUE. -/
def repairEntry (kind plain pos sub value : Nat) : BitVec 64 :=
  BitVec.ofNat 64 (kind + plain * 2 ^ 4 + pos * 2 ^ 8 + sub * 2 ^ 17 + value * 2 ^ 20)

def Dev.soft (s : Dev) (e : BitVec 64) : Dev := { s with units := s.units.enterSoft e }

end Sys2Proof.Machine
end

