-- ==== Sys2Proof/Machine/Clocks.lean ====
section
/-!
DEFINITION. Clocks, throttling, temperature, holdover, gating, power states and the PCIe link (R281, R282, R395 to R408),
and the tick of the timebase (R396).
-/
namespace Sys2Proof.Machine

/-- The outcome of every meaning. -/
abbrev Out := Host.Outcome State Fault Refusal

/-- A change of the device alone. -/
def State.onDev (s : State) (f : Dev → Dev) : State := { s with dev := f s.dev }

/-- A register write other than FUS_ARM and FUS_CMD ends an arming (R381). DEDUCED, log entry 137. -/
def State.disarm (s : State) : State := { s with fuses := { s.fuses with armedAt := none } }

/-- One plain's throttle causes. -/
def Clocks.plain (c : Clocks) (p : Nat) : PlainClk :=
  listGet c.plains p { cap := 4, thermal := false, vmin := false, tempDeci := 0, hotFrom := none }

def Clocks.setPlain (c : Clocks) (p : Nat) (x : PlainClk) : Clocks := { c with plains := c.plains.set p x }

/-- The neighbour cause holds for plain p (R400). -/
def Clocks.neighbour (c : Clocks) (p : Nat) : Bool := c.neighbours.any fun e => e.1 == p

/-- prot_p of R397. -/
def Clocks.prot (c : Clocks) (p : Nat) : Nat :=
  let x := c.plain p
  if x.thermal || x.vmin || c.neighbour p then 6 else 4

/-- host_p of R397. -/
def Dev.hostDiv (s : Dev) (p : Nat) : Nat := bits (s.regN (CLK + 0x08)) (4 * p) 4

/-- The effective divider that the causes of plain p ask for (R397). -/
def State.targetDiv (s : State) (p : Nat) : Nat :=
  max (min (max (s.dev.hostDiv p) (s.clk.plain p).cap) (s.dev.floorOf p)) (s.clk.prot p)

/-- CLK_PLCAUSE's field of plain p (R415). -/
def Clocks.causeBits (c : Clocks) (p : Nat) : Nat :=
  let x := c.plain p
  b2n x.thermal + 2 * b2n x.vmin + 4 * b2n (c.neighbour p) + 8 * b2n (decide (x.cap > 4))

/-- A plain's tile clock moves to its new divider (R398), with the THROTTLE record and the suspension of R278. -/
def State.dividerState (s : State) (p : Nat) : State :=
  let t := s.targetDiv p
  let x := s.dev.plain p
  if !s.dev.clocked || x.div == t then s
  else
    s.onDev fun d =>
      ((d.setPlain p { x with div := t }).trace 9 p p (some p)
        [BitVec.ofNat 8 t, BitVec.ofNat 8 (s.clk.causeBits p)]).refreshSusp

def execDividerChange (p : Fin 8) (s : State) : Out := .next (s.dividerState p)

/-- A plain's causes changed while its clock runs. -/
def State.clkPlain (s : State) (p : Nat) (f : PlainClk → PlainClk) : State :=
  if s.dev.clocked then { s with clk := s.clk.setPlain p (f (s.clk.plain p)) } else s

/-- VMIN_LOW (R406): prot_p holds. -/
def execVminLow (p : Fin 8) (s : State) : Out := .next (s.clkPlain p fun x => { x with vmin := true })

/-- VMIN_RESTORED (R397). -/
def execVminRestored (p : Fin 8) (s : State) : Out := .next (s.clkPlain p fun x => { x with vmin := false })

/-- OVER_TEMP (R399): at 105 °C the thermal cause begins and OVER_TEMP is set. -/
def execOverTemp (p : Fin 8) (deciC : Nat) (s : State) : Out :=
  if decide (deciC ≥ 1050) && s.dev.clocked then
    let s1 := s.clkPlain p fun x =>
      { x with thermal := true, tempDeci := deciC, hotFrom := some (x.hotFrom.getD s.dev.sys.time) }
    .next (s1.onDev fun d => d.sticky 3 6 (firstDet 0 0 p 0))
  else .next s

/-- OVER_TEMP_END (R399): below 100 °C for 1 ms the cause ends. -/
def execOverTempEnd (p : Fin 8) (deciC : Nat) (s : State) : Out :=
  if deciC < 1000 then
    .next (s.clkPlain p fun x => { x with thermal := false, tempDeci := deciC, hotFrom := none })
  else .next s

/-- A plain has stood at or above 105 °C for 10 ms at divider 6 (R399). -/
def State.heldHot (s : State) (p deciC : Nat) : Bool :=
  decide (deciC ≥ 1050) && (s.dev.plain p).div == 6 &&
    match (s.clk.plain p).hotFrom with
    | some t => decide (t + 10000 * usTicks ≤ s.dev.sys.time)
    | none => false

/-- THERMAL_FAILSTOP (R399, R453): the device fails stop and THERM_N goes low. -/
def execThermalFailstop (p : Fin 8) (deciC : Nat) (s : State) : Out :=
  if s.dev.clocked && (decide (deciC ≥ 1150) || s.heldHot p deciC) then
    let s1 := s.clkPlain p fun x => { x with tempDeci := deciC }
    .next (s1.onDev fun d => { d.failStop with sys := { d.failStop.sys with pins := { d.failStop.sys.pins with therm := false } } })
  else .next s

/-- Adjacent plains (R400). -/
def adjacent (p q : Nat) : Bool :=
  let (a, b) := if p < q then (p, q) else (q, p)
  (b == a + 1 && a / 4 == b / 4) || b == a + 4

/-- PLAIN_LIMIT (R400): the neighbour cause begins for the hotter plain. -/
def execPlainLimit (hot cold : Fin 8) (s : State) : Out :=
  if s.dev.clocked && adjacent hot cold then
    let s1 := { s with clk := { s.clk with neighbours := (hot.val, cold.val) :: s.clk.neighbours.erase (hot.val, cold.val) } }
    .next (s1.onDev fun d => d.sticky 3 5 (firstDet 0 0 hot 0))
  else .next s

/-- PLAIN_LIMIT_END (R400). -/
def execPlainLimitEnd (hot cold : Fin 8) (s : State) : Out :=
  if s.dev.clocked then .next { s with clk := { s.clk with neighbours := s.clk.neighbours.erase (hot.val, cold.val) } }
  else .next s

/-- The plain that a predicate admits with the largest measure, the lowest number on a tie (log entry 14). -/
def bestPlain (ok : Nat → Bool) (measure : Nat → Nat) : Option Nat :=
  (List.range 8).foldl (fun b p =>
    if ok p then
      match b with
      | some q => if measure p > measure q then some p else b
      | none => some p
    else b) none

/-- POWER_CAP_STEP (R401): one step of one plain's cap divider, and PWR_MEAS. -/
def execPowerCapStep (estimate : Nat) (draws : List Nat) (s : State) : Out :=
  if !s.dev.clocked then .next s
  else
    let cap := s.dev.regN (PWR + 0x08)
    let below (p : Nat) : Bool := decide ((s.dev.plain p).div < s.dev.floorOf p)
    let c := s.clk
    let c1 :=
      if estimate > cap then
        match bestPlain (fun p => below p && decide ((c.plain p).cap < 6)) (fun p => listGet draws p 0) with
        | some p => c.setPlain p { c.plain p with cap := (c.plain p).cap + 1 }
        | none => c
      else if estimate * 100 < cap * 95 then
        match bestPlain (fun p => decide ((c.plain p).cap > 4)) (fun p => (c.plain p).cap) with
        | some p => c.setPlain p { c.plain p with cap := (c.plain p).cap - 1 }
        | none => c
      else c
    let miss := decide (estimate > cap) && !(List.range 8).any below
    .next { s with clk := { c1 with measured := estimate, capMiss := miss } }

/-- REF_LOSS (R403): holdover begins. -/
def execRefLoss (s : State) : Out :=
  if s.dev.clocked && !s.clk.holdover then
    let s1 := { s with clk := { s.clk with holdover := true, holdFrom := s.dev.sys.time } }
    .next (s1.onDev fun d =>
      let d1 := d.setReg64 (CLK + 0x24) (CLK + 0x28) d.sys.time
      let d2 := ({ d1 with inst := { d1.inst with holdSince := true } }).suspend 2
      (d2.sticky 3 1 0).sticky 3 2 0)
  else .next s

/-- HOLDOVER_END (R403): the root has relocked; a quiesced device stays quiesced (R404). -/
def execHoldoverEnd (s : State) : Out :=
  if s.dev.clocked && s.clk.holdover && s.dev.sys.mode != .quiesced then
    let s1 := { s with clk := { s.clk with holdover := false } }
    .next (s1.onDev fun d => d.unsuspend 2)
  else .next s

/-- LINK_RETRAIN (R281, R282): the link's rate and width, the sticky bit of a degraded link, the LINK cause. -/
def execLinkRetrain (gts : Fin 65) (width : Fin 17) (s : State) : Out :=
  if s.dev.clocked then
    .next (s.onDev fun d =>
      let d1 := ({ d with host := { d.host with gts := gts, width := width } }).count (ev 11 8) 1
      let d2 := if gts.val == 64 && width.val == 16 then d1 else d1.sticky 2 13 0
      d2.refreshSusp)
  else .next s

/-- D3HOT (R408). -/
def execD3hot (f : Fin 64) (s : State) : Out :=
  if s.dev.clocked && s.dev.exists f then
    .next (s.onDev fun d => (d.setFn f { d.fn f with d3 := true }).refreshSusp)
  else .next s

/-- D0_RETURN (R408): the held completions and writes are made in order. -/
def execD0Return (f : Fin 64) (s : State) : Out :=
  if s.dev.clocked && (s.dev.fn f).d3 then
    .next (s.onDev fun d => ((d.setFn f { d.fn f with d3 := false }).refreshSusp).retryHeld f)
  else .next s

/-- GATE_ENTER (R407, R429): tile SRAM and pool contents go. -/
def execGateEnter (p : Fin 8) (s : State) : Out :=
  let x := s.dev.plain p
  let due := match x.idleFrom with
    | some t => decide (t + 1000 * usTicks ≤ s.dev.sys.time)
    | none => false
  if s.dev.clocked && !x.gated && s.dev.mayGate p && due then
    .next { s.onDev (fun d => d.gatePlain p) with
              tiles := { s.tiles with tiles := s.tiles.tiles.map fun e =>
                           if e.1 / 256 == p.val then (e.1, { e.2 with sram := [] }) else e } }
  else .next s

/-- GATE_EXIT (R407): the plain wakes when tiles are placed in it, a test selects it or NO_GATE is set. -/
def execGateExit (p : Fin 8) (s : State) : Out :=
  if s.dev.clocked && !s.dev.mayGate p then .next (s.onDev fun d => d.wakePlain p) else .next s

/-! The tick -/

/-- One timebase tick of a plain's tile clock: 4 root cycles of 4.8 GHz (R395, R418). -/
def Dev.tickPlain (s : Dev) (stalls : Nat → Nat) (p : Nat) : Dev :=
  let x := s.plain p
  if x.gated then s
  else if x.phase + 4 ≥ x.div then
    let s1 := (s.setPlain p { x with phase := x.phase + 4 - x.div }).count (ev p 0) 1
    let s2 := s1.count (ev p 5) (stalls p)
    if x.div > 4 then s2.count (ev 15 2) 1 else s2
  else s.setPlain p { x with phase := x.phase + 4 }

/-- The tick of an idle block (R396, R418; log entry 1). -/
def State.tick (s : State) : State :=
  if !s.dev.clocked then s
  else
    s.onDev fun d =>
      let d1 := ({ d with sys := { d.sys with time := (d.sys.time + 1) % 2 ^ 64 } }).count (ev 15 0) 1
      let d2 := if s.clk.holdover then d1.count (ev 15 3) 1 else d1
      let stalls (p : Nat) : Nat := (s.tiles.tiles.filter fun e => e.1 / 256 == p && e.2.stall.isSome).length
      (List.range 8).foldl (fun t p => t.tickPlain stalls p) d2

end Sys2Proof.Machine
end

