-- ==== Sys2Proof/Machine/Records.lean ====
section
/-!
DEFINITION. The contents of a model package as functions of its bytes: layer records (R141), programs (R137), tensors
(R138, R460), entry points (R136), budgets (R147), the CDF section (R156).
-/
namespace Sys2Proof.Machine

/-- A layer record: its 128 bytes (R141). -/
abbrev Rec := Bytes

def noOff : Nat := 0xFFFFFFFF

def Rec.op (r : Rec) : Nat := u8At r 0
def Rec.exact (r : Rec) : Bool := !bitAt (u8At r 1) 0
def Rec.wrap (r : Rec) : Bool := bitAt (u8At r 1) 1
def Rec.stoch (r : Rec) : Bool := bitAt (u8At r 1) 2
def Rec.zc (r : Rec) : Bool := bitAt (u8At r 1) 3
def Rec.fuse (r : Rec) : Bool := bitAt (u8At r 1) 4
def Rec.trans (r : Rec) : Bool := bitAt (u8At r 1) 5
def Rec.wFmt (r : Rec) : Nat := bits (u8At r 2) 0 4
def Rec.aFmt (r : Rec) : Nat := bits (u8At r 2) 4 4
def Rec.outFmt (r : Rec) : Nat := bits (u8At r 3) 0 4
def Rec.shape (r : Rec) : Nat := bits (u8At r 3) 4 2
/-- Rotation group size of ROT_N. -/
def Rec.rotN (r : Rec) : Nat := listGet [0, 16, 64, 256] (bits (u8At r 3) 6 2) 0
def Rec.kh (r : Rec) : Nat := u8At r 4
def Rec.kw (r : Rec) : Nat := u8At r 5
def Rec.stride (r : Rec) : Nat := u8At r 6
def Rec.dil (r : Rec) : Nat := u8At r 7
def Rec.padT (r : Rec) : Nat := u8At r 8
def Rec.padB (r : Rec) : Nat := u8At r 9
def Rec.padL (r : Rec) : Nat := u8At r 10
def Rec.padR (r : Rec) : Nat := u8At r 11
def Rec.ups (r : Rec) : Nat := u8At r 12
def Rec.vplain (r : Rec) : Nat := u8At r 13
def Rec.sliverW (r : Rec) : Nat := u16At r 14
def Rec.cIn (r : Rec) : Nat := u16At r 16
def Rec.cOut (r : Rec) : Nat := u16At r 18
def Rec.preCode (r : Rec) : Nat := u8At r 20
def Rec.leakyK (r : Rec) : Nat := u8At r 21
def Rec.rerun (r : Rec) : Nat := u8At r 22
def Rec.srBits (r : Rec) : Nat := u8At r 23
def Rec.clampLo (r : Rec) : Nat := u32At r 24
def Rec.clampHi (r : Rec) : Nat := u32At r 28
def Rec.seed (r : Rec) : Nat := u64At r 32
def Rec.clipThr (r : Rec) : Nat := u16At r 40
def Rec.baseShift (r : Rec) : Nat := u8At r 42
def Rec.outShift (r : Rec) : Nat := u8At r 43
def Rec.rowMin (r : Rec) : Int := sext 8 (u8At r 44)
def Rec.rowMax (r : Rec) : Int := sext 8 (u8At r 45)
def Rec.hScale (r : Rec) : Int := sext 8 (u8At r 46)
def Rec.vScale (r : Rec) : Int := sext 8 (u8At r 47)
def Rec.reach (r : Rec) : Nat := u16At r 48
def Rec.dm (r : Rec) : Nat := u8At r 50
def Rec.parts (r : Rec) : Nat := bits (u8At r 51) 0 2 + 1
def Rec.inA (r : Rec) : Nat := u16At r 52
def Rec.inB (r : Rec) : Nat := u16At r 54
def Rec.out (r : Rec) : Nat := u16At r 56
def Rec.lbAddr (r : Rec) : Nat := u32At r 60
def Rec.outAddr (r : Rec) : Nat := u32At r 64
def Rec.stateAddr (r : Rec) : Nat := u32At r 68
def Rec.tileList (r : Rec) : Nat := u32At r 72
def Rec.wOff (r : Rec) : Nat := u32At r 76
def Rec.kappaOff (r : Rec) : Nat := u32At r 80
def Rec.biasOff (r : Rec) : Nat := u32At r 84
def Rec.rotSign (r : Rec) : Nat := u32At r 88
def Rec.tableOff (r : Rec) : Nat := u32At r 92
def Rec.vecOff (r : Rec) : Nat := u32At r 96

/-- CONV, RIM_IN and RIM_OUT have weights. -/
def Rec.weighted (r : Rec) : Bool := r.op == 1 || r.op == 7 || r.op == 8

/-- The record keeps a line buffer (R110). -/
def Rec.lineBuf (r : Rec) : Bool := r.op == 1 && (decide (r.kh > 1) || decide (r.kw > 1))

/-- Kind and index of a source code (R142). -/
def srcKind (c : Nat) : Nat := c / 4096
def srcIdx (c : Nat) : Nat := c % 4096

/-- Width in bits of a format code. -/
def fmtBits (c : Nat) : Nat := ((Fmt.ofCode c).map Fmt.width).getD 0

/-- A section of a package. -/
def Pkg.sec (p : Pkg) (t : Nat) : Bytes := (p.sections.find t).getD []

/-- Program k: 0 for PROG_X, 1 for PROG_B. -/
def Pkg.prog (p : Pkg) (k : Nat) : Bytes := p.sec (if k == 0 then 2 else 3)
/-- The weight, channel exponent and rotation sections of a program's class (R134). -/
def Pkg.wgt (p : Pkg) (k : Nat) : Bytes := p.sec (if k == 0 then 4 else 5)
def Pkg.chexp (p : Pkg) (k : Nat) : Bytes := p.sec (if k == 0 then 6 else 7)
def Pkg.rots (p : Pkg) (k : Nat) : Bytes := p.sec (if k == 0 then 8 else 9)
def Pkg.cdf (p : Pkg) : Bytes := p.sec 10
def Pkg.budget (p : Pkg) : Bytes := p.sec 11
def Pkg.man (p : Pkg) : Bytes := p.sec 1

def Pkg.media (p : Pkg) : Nat := u8At p.man 4
def Pkg.profile (p : Pkg) : Nat := u8At p.man 5
def Pkg.vplains (p : Pkg) : Nat := u8At p.man 7
def Pkg.stateBytes (p : Pkg) : Nat := u64At p.man 8

def recCount (g : Bytes) : Nat := u32At g 0
/-- Record i of a program (R137). -/
def recAt (g : Bytes) (i : Nat) : Rec := slice g (128 + 128 * i) 128
def Pkg.rcd (p : Pkg) (k i : Nat) : Rec := recAt (p.prog k) i

def tensorCount (g : Bytes) : Nat := u16At g 8
/-- Tensor table entry i of a program (R138). -/
def tensorAt (g : Bytes) (i : Nat) : Bytes := slice g (u32At g 4 + 16 * i) 16
/-- The auxiliary area of a program. -/
def auxArea (g : Bytes) : Bytes := slice g (u32At g 12) (u32At g 16)

/-- A tensor table entry (R138). -/
abbrev Tensor := Bytes
def Tensor.kind (t : Tensor) : Nat := u8At t 0
def Tensor.fmt (t : Tensor) : Nat := bits (u8At t 1) 0 4
def Tensor.chans (t : Tensor) : Nat := u16At t 2
def Tensor.dh (t : Tensor) : Int := sext 8 (u8At t 4)
def Tensor.dv (t : Tensor) : Int := sext 8 (u8At t 5)
def Tensor.loc (t : Tensor) : Nat := u64At t 8

/-- The tensor that a source or destination code of program k names. -/
def Pkg.tensor (p : Pkg) (k c : Nat) : Tensor := tensorAt (p.prog k) (srcIdx c)

/-- Two table entries name one tensor (R460), given the virtual plains of the records that name them. The parameter tensor and ŷ, which
R158 gives different channels, are two tensors. -/
def Tensor.same (a b : Tensor) (va vb : Nat) : Bool :=
  a.kind == b.kind && a.loc == b.loc && (a.kind != 6 || a.chans == b.chans) &&
    (!(a.kind == 5 || a.kind == 6) || (a.dh == b.dh && a.dv == b.dv)) && (a.kind != 2 || va == vb)

/-- A key by which executions find a tensor: equal for entries that name one tensor (R460). -/
def Tensor.key (t : Tensor) (v : Nat) : Nat :=
  t.kind + 16 * (t.loc + 2 ^ 64 * (if t.kind == 2 then v else 0)) * 1 +
    2 ^ 80 * (if t.kind == 5 || t.kind == 6 then toCode 8 t.dh + 256 * toCode 8 t.dv else 0)

/-- An entry point (R136): KIND, whether it stands in PROG_X, its 64 bytes. -/
structure EntryPoint where
  kind : Nat
  dec  : Bool
  raw  : Bytes
deriving DecidableEq, Repr

/-- Manifest entries, then decode entries (R135 to R137). -/
def Pkg.entries (p : Pkg) : List EntryPoint :=
  let man := (List.range (u32At p.man 20)).map fun i => slice p.man (64 + 64 * i) 64
  let g := p.prog 0
  let dec := (List.range (u8At g 20)).map fun i =>
    if i == 0 then slice g 64 64 else slice g (u32At g 4 + 16 * tensorCount g + 64 * (i - 1)) 64
  man.map (fun b => ⟨u8At b 0, false, b⟩) ++ dec.map fun b => ⟨u8At b 0, true, b⟩

/-- The entry of a KIND. -/
def Pkg.entry (p : Pkg) (kind : Nat) : Option EntryPoint := p.entries.find? fun e => e.kind == kind

/-- Segments of an entry: program, FIRST, COUNT. -/
def EntryPoint.segs (e : EntryPoint) : List (Nat × Nat × Nat) :=
  (List.range (u8At e.raw 1)).map fun i => (u8At e.raw (8 + 8 * i), u16At e.raw (12 + 8 * i), u16At e.raw (14 + 8 * i))

/-- The records an entry runs, in order: program and index. -/
def EntryPoint.recs (e : EntryPoint) : List (Nat × Nat) := e.segs.flatMap fun s => (rangeFrom s.2.1 s.2.2).map fun i => (s.1, i)

/-- First record of the fused stack of record i (R118), looking at most n records back. -/
def stackFrom (g : Bytes) : Nat → Nat → Nat
  | 0, i => i
  | n + 1, i => if i > 0 && (recAt g (i - 1)).fuse then stackFrom g n (i - 1) else i

def stackStart (g : Bytes) (i : Nat) : Nat := stackFrom g 4096 i

/-! CDF section -/

def cdfTables (c : Bytes) : Nat := u16At c 4
def cdfFrac (c : Bytes) : Nat := u8At c 6
def cdfEscMax (c : Bytes) : Nat := u32At c 8
def cdfLatCh (c : Bytes) : Nat := u16At c 12
def cdfHypCh (c : Bytes) : Nat := u16At c 14
def cdfLatDh (c : Bytes) : Int := sext 8 (u8At c 16)
def cdfLatDv (c : Bytes) : Int := sext 8 (u8At c 17)
def cdfHypDh (c : Bytes) : Int := sext 8 (u8At c 18)
def cdfHypDv (c : Bytes) : Int := sext 8 (u8At c 19)
def cdfHp (c : Bytes) : Nat := alignUp (cdfHypCh c) 64
/-- Entry s of table t, 256 entries and 65,536 (R157). -/
def cdfTable (c : Bytes) (t : Nat) : List Nat :=
  (List.range 256).map (fun s => u16At c (64 + cdfHp c + 512 * t + 2 * s)) ++ [65536]
/-- The uniform table U (R157). -/
def uniformTable : List Nat := (List.range 257).map (256 * ·)

/-! Budgets -/

def budgetCount (b : Bytes) : Nat := u32At b 0
/-- Mapping descriptor m (R147). -/
def mapAt (b : Bytes) (m : Nat) : Bytes := slice b (8 + 64 * m) 64
def mapTiles (d : Bytes) (p : Nat) : Nat := u16At d (2 * p)
/-- Record budgets of a mapping. -/
def mapRecs (b d : Bytes) : List Bytes := (List.range (u16At d 28)).map fun i => slice b (u32At d 24 + 16 * i) 16

/-- The virtual tiles of a record under mapping m (R140). -/
def tileListOf (g : Bytes) (r : Rec) (m : Nat) : List Nat :=
  let a := auxArea g
  let o := u32At a (r.tileList + 4 + 4 * m)
  (List.range (u16At a o)).map fun i => u8At a (o + 2 + i)

/-- The phases of R162 and R458 for the records of an entry: the position of the first record that reads a SYMBOLS tensor,
of the first that reads a latent SYMBOLS tensor, and of the record that writes the parameter tensor. -/
def Pkg.readsSym (p : Pkg) (kr : Nat × Nat) : Bool :=
  let r := p.rcd kr.1 kr.2
  [r.inA, r.inB].any fun c => srcKind c == 2 && (p.tensor kr.1 c).kind == 6

def Pkg.latentScale (p : Pkg) (t : Tensor) : Bool := t.dh == cdfLatDh p.cdf && t.dv == cdfLatDv p.cdf

def Pkg.readsLatSym (p : Pkg) (kr : Nat × Nat) : Bool :=
  let r := p.rcd kr.1 kr.2
  [r.inA, r.inB].any fun c => srcKind c == 2 && (p.tensor kr.1 c).kind == 6 && p.latentScale (p.tensor kr.1 c)

def Pkg.writesParam (p : Pkg) (kr : Nat × Nat) : Bool :=
  let r := p.rcd kr.1 kr.2
  srcKind r.out == 2 && (p.tensor kr.1 r.out).kind == 6 && p.latentScale (p.tensor kr.1 r.out)

/-- The phases of an entry (R162, R458): records of phase 0, of phase 1, of the context loop, of phase 10, and whether the
parameter tensor is written. -/
structure Phases where
  ph0   : List (Nat × Nat)
  ph1   : List (Nat × Nat)
  loop  : List (Nat × Nat)
  ph10  : List (Nat × Nat)
  param : Bool
deriving DecidableEq, Repr

def Pkg.phases (p : Pkg) (e : EntryPoint) : Phases :=
  let rs := e.recs
  let first := (rs.findIdx? p.readsSym).getD rs.length
  match rs.findIdx? p.writesParam with
  | none => { ph0 := rs.take first, ph1 := [], loop := [], ph10 := rs.drop first, param := false }
  | some w =>
    let fs := min first w
    let lo := min ((rs.findIdx? p.readsLatSym).getD w) w
    { ph0 := rs.take fs, ph1 := (rs.take lo).drop fs, loop := (rs.take (w + 1)).drop (max lo fs), ph10 := rs.drop (w + 1)
      param := true }

end Sys2Proof.Machine
end

