-- ==== Sys2Proof/Machine/Package.lean ====
section
/-!
DEFINITION. The checks of MODEL_LOAD on an expanded package (R150 step 6): records (R144 and the rules it extends), the
CDF section, tensors, entries, tile lists and budgets.
-/
namespace Sys2Proof.Machine

/-- A failing check's result field (R150): reason, and record index or 0xFFFF. -/
def failCode (reason rcd : Nat) : Nat := reason + 65536 * rcd

/-- Record i of program k in a result field. -/
def recCode (k i : Nat) : Nat := i + (if k == 1 then 0x8000 else 0)

/-- The first failing check. -/
def firstFail : List (Bool × Nat) → Option Nat
  | [] => none
  | (ok, c) :: l => if ok then firstFail l else some c

/-- n bytes at offset o lie within m bytes. -/
def within (o n m : Nat) : Bool := decide (o + n ≤ m)

/-- An offset is NONE or its item lies in its section. -/
def offOk (o n m : Nat) : Bool := o == noOff || within o n m

/-- Reserved fields and field ranges of a record (R106, R107, R141). -/
def Rec.rangesOk (r : Rec) : Bool :=
  let rim := r.op == 7 || r.op == 8
  let kmax := if rim then 9 else 7
  bits (u8At r 1) 6 2 == 0 && r.shape != 3 && bits (u8At r 51) 2 6 == 0 && zeroAt r 58 2 && r.lbAddr < 2 ^ 18 &&
    r.outAddr < 2 ^ 18 && allZero (slice r 100 28) && decide (1 ≤ r.op) && decide (r.op ≤ 8) &&
    decide (1 ≤ r.kh) && decide (1 ≤ r.kw) && decide (r.kh ≤ kmax) &&
    decide (r.kw ≤ (if r.op == 7 && r.kh == 1 then 31 else kmax)) &&
    decide (1 ≤ r.stride) && decide (r.stride ≤ (if r.op == 1 then 2 else if r.op == 7 then 4 else 1)) &&
    decide (1 ≤ r.dil) && decide (r.dil ≤ (if rim then 1 else 4)) &&
    decide (r.padT ≤ (r.kh - 1) * r.dil) && decide (r.padB ≤ (r.kh - 1) * r.dil) &&
    decide (r.padL ≤ (r.kw - 1) * r.dil) && decide (r.padR ≤ (r.kw - 1) * r.dil) &&
    (r.ups == 1 || r.ups == 2 || r.ups == 4) && decide (16 ≤ r.sliverW) && decide (r.sliverW ≤ 256) &&
    decide (1 ≤ r.cIn) && decide (r.cIn ≤ 4096) && decide (1 ≤ r.cOut) && decide (r.cOut ≤ 4096) &&
    !(r.stride == 2 && decide (r.dil > 1))

/-- Pre-operation, seeds, scales and the remaining scalar fields (R35, R52, R59, R60, R107, R126, R141). -/
def Rec.scalarsOk (r : Rec) : Bool :=
  let lo := sext 32 r.clampLo
  let hi := sext 32 r.clampHi
  let i16 (x : Int) : Bool := decide (-32768 ≤ x) && decide (x ≤ 32767)
  decide (r.preCode ≤ 3) && (if r.preCode == 2 then decide (1 ≤ r.leakyK) && decide (r.leakyK ≤ 7) else r.leakyK == 0) &&
    (if r.preCode == 3 then !r.exact || (i16 lo && i16 hi && decide (lo ≤ hi)) else r.clampLo == 0 && r.clampHi == 0) &&
    decide (1 ≤ r.srBits) && decide (r.srBits ≤ 16) && decide (r.rerun ≤ 2) &&
    (r.op == 8 || r.outShift == 0) && decide (r.outShift ≤ 31) && (r.op == 6 || r.dm == 0) && decide (r.dm ≤ 4) &&
    decide (-2 ≤ r.hScale) && decide (r.hScale ≤ 8) && decide (-2 ≤ r.vScale) && decide (r.vScale ≤ 8) &&
    (r.op != 6 || (decide (0 ≤ r.hScale) && decide (r.hScale ≤ 4) && decide (0 ≤ r.vScale) && decide (r.vScale ≤ 4))) &&
    decide (r.rowMin ≤ r.rowMax) &&
    (!r.zc || r.preCode == 1 || (r.preCode == 3 &&
      (if r.exact then decide (0 ≤ lo) else decide (r.clampLo ≤ 0x7F800000) || r.clampLo == 2 ^ 31)))

/-- Formats and class rules (R26, R36, R39, R59 to R61, R82, R107, R125, R144). -/
def Rec.classOk (r : Rec) (k : Nat) : Bool :=
  (r.exact == (k == 0)) &&
  (if r.exact then
    !r.stoch && decide (r.wFmt ≤ 2) && (r.aFmt == 9 || r.aFmt == 10) && (r.outFmt == 9 || r.outFmt == 10 || r.outFmt == 11) &&
      decide (r.baseShift ≤ 31) && decide (0 ≤ r.rowMin) && decide (r.rowMax ≤ 15) &&
      decide ((r.baseShift : Int) + r.rowMax ≤ 31) && !(r.tableOff != noOff && r.outFmt == 11) &&
      !(r.rerun == 1 && r.outFmt != 9) && !r.trans && r.vecOff == noOff && r.op != 7
   else
    decide (r.wFmt ≤ 8) && decide (r.aFmt ≤ 8) && decide (r.outFmt ≤ 8) && r.baseShift == 0 && r.tableOff == noOff &&
      !(r.rerun == 1 && (r.outFmt == 6 || r.outFmt == 7 || r.outFmt == 8)) && (r.op != 1 || r.wFmt == r.aFmt) &&
      r.op != 8 && r.op != 6 && (r.op != 7 || (r.wFmt == 6 && r.aFmt == 7)) &&
      !(r.op == 1 && r.aFmt == 7 && decide (r.kh * r.kw > 24)) && !(r.op == 1 && r.aFmt == 8 && decide (r.kh * r.kw > 12))) &&
  !(r.rerun == 1 && r.wrap) && (r.rotN == 0 || r.cOut % r.rotN == 0) && ((r.rotN == 0) == (r.rotSign == noOff)) &&
  (!r.trans || (r.op == 1 && r.kh == 1 && r.kw == 1 && r.shape == 0)) &&
  (r.kappaOff == noOff || !(r.op == 2 || r.op == 3 || r.op == 6 || r.op == 7)) &&
  (r.parts == 1 || !(r.op == 5 || r.op == 6 || r.op == 7 || r.op == 8)) && r.cOut % r.parts == 0 &&
  decide (r.cOut / r.parts ≤ 1024) && (r.rotN == 0 || r.cOut / r.parts % r.rotN == 0)

/-- Bytes of a record's weight codes (R28, R134). -/
def Rec.wBytes (r : Rec) : Nat := ceilDiv (r.kh * r.kw * r.cIn * r.cOut * fmtBits r.wFmt) 8

/-- Bytes of one bias: INT32, or the accumulator format of R42. -/
def Rec.biasBytes (r : Rec) : Nat := if !r.exact && r.aFmt == 8 then 8 else 4

/-- An entry of a vector list is well formed (R143). -/
def vecOk (r : Rec) (e : Bytes) : Bool :=
  let w := u8At e 5
  let okOp (c : Nat) : Bool := decide (c ≤ 8) || (c == 9 && r.op == 4)
  decide (u8At e 0 ≤ 8) && decide (u8At e 1 ≤ 7) && okOp (u8At e 2) && okOp (u8At e 3) && okOp (u8At e 4) && decide (w ≤ 1) &&
    zeroAt e 6 2 && (w == 1 || zeroAt e 12 4)

/-- The entries of a vector list up to its END (R143). -/
def vecList (a : Bytes) (o : Nat) : Nat → List Bytes
  | 0 => []
  | n + 1 => let e := slice a o 16; if u8At e 0 == 0 then [] else e :: vecList a (o + 16) n

/-- Input columns that a full sliver of a record keeps in its line buffer, and their 16-channel groups (R110, R459). -/
def Rec.lbCols (r : Rec) : Nat := (r.sliverW - 1) * r.stride + (r.kw - 1) * r.dil + 1
def Rec.lbGroups (r : Rec) : Nat := ceilDiv r.cIn 16

/-- Words per column and 16-channel group of a line buffer (R110). -/
def lbWords (nbits : Nat) : Nat := if nbits ≤ 8 then 1 else nbits / 8

/-- A source of record i of program k is fed by a record with RERUN_MODE 1 (R110, R459): a record of the stack, the RIM_IN of the virtual plain, or
the writer of a tensor. -/
def Pkg.fedWide (p : Pkg) (k : Nat) (r : Rec) : Bool :=
  let all := (List.range (recCount (p.prog k))).map (p.rcd k)
  match srcKind r.inA with
  | 1 => (p.rcd k (srcIdx r.inA)).rerun == 1
  | 2 => [0, 1].any fun j => (List.range (recCount (p.prog j))).any fun i =>
      let q := p.rcd j i
      q.rerun == 1 && srcKind q.out == 2 && (p.tensor k r.inA).same (p.tensor j q.out) r.vplain q.vplain
  | 3 => all.any fun q => q.rerun == 1 && q.op == 7 && q.vplain == r.vplain
  | _ => false

/-- Element width of the space that a line buffer takes (R110, R459): the 16-bit layout where a wide re-run may widen its rows. -/
def Pkg.lbBits (p : Pkg) (k : Nat) (r : Rec) : Nat := if p.fedWide k r && decide (fmtBits r.aFmt < 16) then 16 else fmtBits r.aFmt

/-- Bytes of a record's line buffer (R459). -/
def Pkg.lbBytes (p : Pkg) (k : Nat) (r : Rec) : Nat := if r.lineBuf then r.dil * r.lbCols * r.lbGroups * lbWords (p.lbBits k r) * 128 else 0

/-- Sliver parts of a record in its longest tile list (R140, R457). -/
def Pkg.partsMax (p : Pkg) (k : Nat) (r : Rec) : Nat :=
  let a := auxArea (p.prog k)
  maxN ((List.range (u8At a r.tileList)).map fun m => u16At a (u32At a (r.tileList + 4 + 4 * m)))

/-- Bytes that a record with a STATE_ADDR keeps there (R117, R144): the line buffer of each sliver part, and a word of counters. DESIGN CHOICE, log
entry 163. -/
def Pkg.stateSize (p : Pkg) (k : Nat) (r : Rec) : Nat := p.partsMax k r * (p.lbBytes k r + 128)

/-- Offsets lie in their sections and areas (R141, R144), and channel exponents in range (R61). A record with weights names them. DEDUCED, log entry
41. -/
def Pkg.offsetsOk (p : Pkg) (k : Nat) (r : Rec) : Bool :=
  let g := p.prog k
  let w := (p.wgt k).length
  let aux := auxArea g
  (if r.weighted then within r.wOff r.wBytes w else offOk r.wOff 0 w) &&
    (r.stateAddr == 0 || within ((r.stateAddr - 1) * 128) (max 1 (p.stateSize k r)) p.stateBytes) &&
    offOk r.biasOff (r.cOut * r.biasBytes) w && offOk r.kappaOff r.cOut (p.chexp k).length &&
    offOk r.rotSign (ceilDiv r.cOut 8) (p.rots k).length && offOk r.tableOff 256 (p.wgt 0).length &&
    within r.tileList 4 aux.length && (r.vecOff == noOff ||
      (within r.vecOff 16 aux.length &&
        let v := vecList aux r.vecOff 16
        within r.vecOff (16 * min 16 (v.length + 1)) aux.length && v.all (vecOk r))) &&
    (!r.exact || r.kappaOff == noOff || (List.range r.cOut).all fun c =>
      let x := sext 8 (u8At (p.chexp k) (r.kappaOff + c))
      decide (-31 ≤ x) && decide (x ≤ 15))

/-- Sources and destinations (R142, R144, R118). No exact record reads the rim engine, whose outputs to records are bounded (R21, R22, R125). -/
def Pkg.sourcesOk (p : Pkg) (k i : Nat) (r : Rec) : Bool :=
  let g := p.prog k
  let st := stackStart g i
  let first := i == st
  let tens (c : Nat) : Bool := srcKind c == 2 && decide (srcIdx c < tensorCount g)
  let early (c : Nat) : Bool := srcKind c == 1 && decide (st ≤ srcIdx c) && decide (srcIdx c < i)
  let unit (c : Nat) : Bool := ((srcKind c == 3 && !r.exact) || srcKind c == 4) && srcIdx c == 0
  let a :=
    if r.op == 6 then tens r.inA && ((p.tensor k r.inA).kind == 8 || (p.tensor k r.inA).kind == 9) && first
    else if first then tens r.inA || unit r.inA
    else srcKind r.inA == 1 && srcIdx r.inA + 1 == i
  let b :=
    if r.op == 4 then early r.inB || (first && tens r.inB)
    else if r.op == 6 then tens r.inB && (p.tensor k r.inB).kind == 10
    else r.inB == 0
  a && b && (r.out == 0 || tens r.out) &&
    (srcKind r.inA != 1 || (recAt g (srcIdx r.inA)).outFmt == r.aFmt)

/-- Stack rules (R118): at most 24 records, one TILE_LIST, CH_PARTS and VPLAIN. -/
def stackOk (g : Bytes) (i : Nat) (r : Rec) : Bool :=
  let s := recAt g (stackStart g i)
  decide (i + 1 - stackStart g i ≤ 24) && s.tileList == r.tileList && s.parts == r.parts && s.vplain == r.vplain &&
    !(r.fuse && i + 1 == recCount g)

/-- The least and the greatest producer column that output columns lo to hi of a record read (R109, R113, R115). -/
def Rec.colsRead (r : Rec) (lo hi : Int) : Int × Int :=
  match r.op with
  | 1 => (lo * r.stride - r.padL, hi * r.stride - r.padL + ((r.kw : Int) - 1) * r.dil)
  | 2 => (lo / r.ups, hi / r.ups)
  | 3 => (lo * r.ups, hi * r.ups + r.ups - 1)
  | _ => (lo, hi)

/-- The columns of sliver i's halos, left and right: what it reads below and above the producer's sliver i, from column 0 on (R115). DEDUCED, log
entry 40. -/
def haloWidths (r q : Rec) (i : Nat) (hi : Int) : Int × Int :=
  let (a, b) := r.colsRead ((i * r.sliverW : Nat) : Int) hi
  let own0 : Int := ((i * q.sliverW : Nat) : Int)
  let own1 : Int := (((i + 1) * q.sliverW : Nat) : Int)
  (min (b + 1) own0 - max a 0, b + 1 - max a own1)

/-- Halos of at most 12 columns on a side, which reach no further than slivers i - 1 and i + 1 of the producer, from the fields of both records
(R107, R115): over as many full slivers as a tile list can name (R140). -/
def haloOk (r q : Rec) : Bool :=
  (List.range 256).all fun i =>
    let (l, rt) := haloWidths r q i (((i + 1) * r.sliverW : Nat) - 1 : Int)
    decide (l ≤ 12) && decide (rt ≤ 12) && decide (l ≤ q.sliverW) && decide (rt ≤ q.sliverW)

/-- The named tile SRAM region of a record's line buffer (R459): base and length, length 0 for none. -/
def Pkg.lbRegion (p : Pkg) (k : Nat) (r : Rec) : Nat × Nat := if r.lineBuf then (r.lbAddr, p.lbBytes k r) else (0, 0)

/-- The outputs of record i go straight into the line buffer of the record after it (R110, R459). -/
def intoLines (g : Bytes) (i : Nat) (r : Rec) : Bool :=
  let next := recAt g (i + 1)
  r.fuse && next.lineBuf && r.outAddr == next.lbAddr

/-- Element width of the space that a record's output rows take (R459). -/
def Rec.outBits (r : Rec) : Nat := if r.rerun == 1 && decide (fmtBits r.outFmt < 16) then 16 else fmtBits r.outFmt

/-- The named region of a record's output rows (R459). -/
def outRegion (g : Bytes) (i : Nat) (r : Rec) : Nat × Nat :=
  if intoLines g i r then (0, 0) else (r.outAddr, 2 * (ceilDiv (r.sliverW * (r.cOut / r.parts) * r.outBits) 8 + r.sliverW))

/-- Bytes of tile SRAM for a record's weights, in whole words (R459). -/
def weightRegion (r : Rec) : Nat :=
  if r.weighted then alignUp (ceilDiv (r.kh * r.kw * r.cIn * (r.cOut / r.parts) * fmtBits r.wFmt) 8) 128 else 0

/-- The tile SRAM check of R459 for the stack that ends at record i of program k. -/
def Pkg.sramOk (p : Pkg) (k i : Nat) : Bool :=
  let g := p.prog k
  let st := stackStart g i
  let js := rangeFrom st (i + 1 - st)
  let named := (js.map fun j => p.lbRegion k (recAt g j)) ++ js.map fun j => outRegion g j (recAt g j)
  let live := named.filter fun e => e.2 != 0
  let total := sumN (live.map (·.2)) + sumN (js.map fun j => weightRegion (recAt g j))
  let n := live.length
  decide (total ≤ 262144) && live.all (fun e => decide (e.1 + e.2 ≤ 262144)) &&
    (List.range n).all fun x => (List.range x).all fun y =>
      let a := listGet live x (0, 0)
      let b := listGet live y (0, 0)
      decide (a.1 + a.2 ≤ b.1) || decide (b.1 + b.2 ≤ a.1)

/-- floor((y + 1) × 2^dv) of R68 and R70. -/
def rowsUpTo (y : Nat) (dv : Int) : Nat :=
  if dv ≥ 0 then (y + 1) * 2 ^ dv.toNat else (y + 1) / 2 ^ (-dv).toNat

/-- h of R70 for layer row y. -/
def Rec.hOf (r : Rec) (y : Nat) : Int := (rowsUpTo y r.vScale : Int) - 1 + r.reach

/-- The greatest producer row that layer row y of a record reads (R109, R113, R125, R126). -/
def Rec.lastRow (r : Rec) (y : Nat) : Int :=
  match r.op with
  | 1 => (y : Int) * r.stride - r.padT + ((r.kh : Int) - 1) * r.dil
  | 7 => (y : Int) * r.stride - r.padT + ((r.kh : Int) - 1)
  | 2 => ((y / r.ups : Nat) : Int)
  | 3 => (y : Int) * r.ups + r.ups - 1
  | 8 => (y : Int) - r.padT + ((r.kh : Int) - 1)
  | _ => (y : Int)

/-- Luma rows that the first n input rows of a record span (R59): V_SCALE counts luma rows per row of its output grid. -/
def Rec.inLuma (r : Rec) (n : Nat) : Nat :=
  let up := if r.op == 2 then r.ups else 1
  let down := if r.op == 1 || r.op == 7 then r.stride else if r.op == 3 then r.ups else 1
  ceilDiv (n * 2 ^ (r.vScale + 2).toNat * up) (4 * down)

/-- The luma rows that rows 0 to y of record i of a program read through its stack, which begins at st (R118); a GAP reads the rows of its
own execution alone, of which there are n, and a WARP reads whole references. -/
def stackReads (g : Bytes) (st n : Nat) : Nat → Nat → Int → Nat
  | 0, _, _ => 0
  | f + 1, i, y =>
    let r := recAt g i
    if y < 0 then 0
    else
      let l := r.lastRow y.toNat
      ((if r.op == 6 then [r.inB] else [r.inA, r.inB]).map fun c =>
        if r.op == 5 then 0
        else if srcKind c == 1 then (if st ≤ srcIdx c && srcIdx c < i then stackReads g st n f (srcIdx c) l else 0)
        else if srcKind c == 0 then 0
        else r.inLuma (l + 1).toNat).foldl max n

/-- The vertical reach of the stack that ends at record i, for slices of n luma rows (R118). DEDUCED from the records, not from LUMA_REACH
(log entry 19). -/
def stackReach (g : Bytes) (i n : Nat) : Nat :=
  let last : Int := ceilDiv (4 * n) (2 ^ ((recAt g i).vScale + 2).toNat)
  stackReads g (stackStart g i) n 24 i (last - 1) - n

/-- The greatest row of producer q that layer row y of a record reads: of a WARP, its motion field's (R127). -/
def Rec.lastRead (r : Rec) (y : Nat) : Int := if r.op == 6 then ((y / 2 ^ r.dm : Nat) : Int) else r.lastRow y

/-- The last layer row of scale dv that begins above luma row n (R68). -/
def lastLayerRow (n : Nat) (dv : Int) : Nat := (if dv ≥ 0 then ceilDiv n (2 ^ dv.toNat) else n * 2 ^ (-dv).toNat) - 1

/-- The order check of R70 between reader r and the producer q of rows that it reads, over 1,024 rows from row first on, with the h to which reads of
GAP outputs lift the cells of either. A GAP, and a reader of its output, sort no earlier than what they read, so their record indices decide. DEDUCED,
log entry 39. -/
def orderOk (r q : Rec) (later : Bool) (first : Nat) (liftR liftQ : Int) : Bool :=
  if r.op == 5 || q.op == 5 then later
  else (rangeFrom first 1024).all fun y =>
    let l := r.lastRead y
    if l < 0 then true
    else
      let hq := max (q.hOf l.toNat) liftQ
      let hr := max (r.hOf y) liftR
      if later then decide (hq ≤ hr) else decide (hq < hr)

/-- The checks of one record that need no other section (reason 0x0007). -/
def Pkg.recordOk (p : Pkg) (k i : Nat) : Bool :=
  let g := p.prog k
  let r := recAt g i
  let reads (c : Nat) : Bool := srcKind c == 1
  let halo (c : Nat) : Bool := let q := recAt g (srcIdx c); !reads c || q.op == 5 || haloOk r q
  r.rangesOk && r.scalarsOk && r.classOk k && decide (r.vplain < p.vplains) && p.sourcesOk k i r && stackOk g i r && (r.fuse || p.sramOk k i) &&
    (!(r.op == 1 || r.op == 2 || r.op == 3 || r.op == 4) || halo r.inA) && (r.op != 4 || halo r.inB)

/-- The CDF section (R156, R157). -/
def cdfOk (c : Bytes) : Bool :=
  let n := cdfTables c
  let l (x : Int) : Bool := decide (0 ≤ x) && decide (x ≤ 6)
  u32At c 0 == 1 && decide (64 ≤ n) && decide (n ≤ 256) && c.length == 64 + cdfHp c + 512 * n && decide (cdfFrac c ≤ 4) &&
    zeroAt c 7 1 && decide (cdfEscMax c ≤ 65535) && decide (4 ≤ cdfLatCh c) && decide (cdfLatCh c ≤ 4096) &&
    cdfLatCh c % 4 == 0 && decide (cdfHypCh c ≤ 4096) && l (cdfLatDh c) && l (cdfLatDv c) && l (cdfHypDh c) && l (cdfHypDv c) &&
    allZero (slice c 20 44) && allZero (slice c (64 + cdfHypCh c) (cdfHp c - cdfHypCh c)) &&
    (List.range (cdfHypCh c)).all (fun i => let t := u8At c (64 + i); decide (64 ≤ t) && decide (t < n)) &&
    (List.range n).all fun t =>
      let tb := cdfTable c t
      listGet tb 0 1 == 0 && (List.range 256).all fun s => decide (listGet tb s 0 < listGet tb (s + 1) 0)

/-- Program header rules (R137). -/
def progOk (g : Bytes) (k : Nat) : Bool :=
  let n := recCount g
  decide (1 ≤ n) && decide (n ≤ 4096) && decide (tensorCount g ≤ 4096) && zeroAt g 10 2 && zeroAt g 22 2 && allZero (slice g 32 32) &&
    within 128 (128 * n) g.length && within (u32At g 4) (16 * tensorCount g) g.length && decide (128 + 128 * n ≤ u32At g 4) &&
    within (u32At g 12) (u32At g 16) g.length && decide (128 + 128 * n ≤ u32At g 12) && decide (u8At g 20 ≤ (if k == 0 then 4 else 0)) &&
    decide (u8At g 21 ≤ (if k == 0 then 4 else 0)) &&
    within (u32At g 4 + 16 * tensorCount g) (64 * (u8At g 20 - 1)) g.length &&
    (List.range 4).all fun j => if j < u8At g 21 then decide (u16At g (24 + 2 * j) < n) else zeroAt g (24 + 2 * j) 2

/-- Manifest rules (R135). -/
def Pkg.manOk (p : Pkg) : Bool :=
  let m := p.man
  u32At m 0 == 1 && decide (p.media ≤ 2) && (if p.media == 0 then decide (p.profile ≤ 2) else p.profile == 0xFF) && u8At m 6 == 3 &&
    decide (1 ≤ p.vplains) && decide (p.vplains ≤ 8) && p.stateBytes % 128 == 0 && decide (u32At m 20 ≤ 16) && allZero (slice m 24 8) &&
    within 64 (64 * u32At m 20) m.length

/-- One entry point (R136). -/
def Pkg.entryOk (p : Pkg) (e : EntryPoint) : Bool :=
  let decKind := e.kind == 3 || e.kind == 4 || e.kind == 7 || e.kind == 9
  let n := u8At e.raw 1
  decide (1 ≤ e.kind) && decide (e.kind ≤ 10) && (e.dec == decKind) && decide (1 ≤ n) && decide (n ≤ 7) && zeroAt e.raw 2 6 &&
    allZero (slice e.raw (8 + 8 * n) (56 - 8 * n)) &&
    (List.range n).all (fun i => zeroAt e.raw (9 + 8 * i) 3) &&
    e.segs.all (fun s => decide (s.1 ≤ 1) && !(e.dec && s.1 == 1) && decide (s.2.1 + s.2.2 ≤ recCount (p.prog s.1)) &&
      (s.1 == 0 || p.sections.has 3)) &&
    (p.entries.filter fun f => f.kind == e.kind).length == 1 &&
    (let ph := p.phases e
     !ph.param || (ph.ph1 ++ ph.loop).all fun kr => kr.1 == 0)

/-- The programs present. -/
def Pkg.progs (p : Pkg) : List Nat := if p.sections.has 3 then [0, 1] else [0]

/-- Every tensor reference of a package: program, record, tensor entry, write. -/
def Pkg.refs (p : Pkg) : List (Nat × Nat × Tensor × Bool) :=
  p.progs.flatMap fun k => (List.range (recCount (p.prog k))).flatMap fun i =>
    let r := p.rcd k i
    ([r.inA, r.inB].filter fun c => srcKind c == 2).map (fun c => (k, i, p.tensor k c, false)) ++
      (if srcKind r.out == 2 then [(k, i, p.tensor k r.out, true)] else [])

/-- One tensor table entry (R138, R158, R213, R243, R250): a SCRATCH tensor begins in the state area, SYMBOLS and LATENT have the scales and channels of
the CDF section, a side tensor its two channels on the unit's own grid, SRC and DST of a field program the grid's channels. -/
def Pkg.tensorOk (p : Pkg) (t : Tensor) : Bool :=
  let c := p.cdf
  let lat := t.dh == cdfLatDh c && t.dv == cdfLatDv c
  let hyp := t.dh == cdfHypDh c && t.dv == cdfHypDv c && decide (cdfHypCh c > 0)
  decide (1 ≤ t.kind) && decide (t.kind ≤ 11) && bits (u8At t 1) 4 4 == 0 && decide (t.fmt ≤ 11) && zeroAt t 6 2 &&
    (decide (t.kind ≤ 2) || t.loc == 0) && (t.kind != 1 || decide (t.loc < p.stateBytes)) &&
    (!(t.kind == 5 || t.kind == 6) || !p.sections.has 10 || (lat && (t.chans == cdfLatCh c || (t.kind == 6 && t.chans == 2 * cdfLatCh c))) ||
      (hyp && t.chans == cdfHypCh c)) &&
    (t.kind != 10 || ((t.chans == 2 || t.chans == 3) && decide (0 ≤ t.dh) && decide (t.dh ≤ 6) && decide (0 ≤ t.dv) && decide (t.dv ≤ 6))) &&
    (t.kind != 10 || p.media == 0 || (t.chans == 2 && t.dh == 0 && t.dv == 0)) &&
    (p.media != 2 || !(t.kind == 3 || t.kind == 4) || ((t.chans == 1 || t.chans == 64) && t.dh == 0 && t.dv == 0)) &&
    (p.media != 2 || t.kind != 3 || t.fmt == 7 || t.fmt == 8)

/-- The rules of R139, R158, R243, R250 and R460 on one reference, given all of them. -/
def Pkg.refOk (p : Pkg) (all : List (Nat × Nat × Tensor × Bool)) (e : Nat × Nat × Tensor × Bool) : Bool :=
  let (k, i, t, w) := e
  let v := (p.rcd k i).vplain
  let sameAs (f : Nat × Nat × Tensor × Bool) : Bool := t.same f.2.2.1 v (p.rcd f.1 f.2.1).vplain
  let c := p.cdf
  let lat := t.dh == cdfLatDh c && t.dv == cdfLatDv c
  let hyp := t.dh == cdfHypDh c && t.dv == cdfHypDv c && decide (cdfHypCh c > 0)
  (all.all fun f => !sameAs f || (t.fmt == f.2.2.1.fmt && t.chans == f.2.2.1.chans && t.dh == f.2.2.1.dh && t.dv == f.2.2.1.dv)) &&
    (w || k == 1 || t.kind == 10 || !(all.any fun f => f.2.2.2 && f.1 == 1 && sameAs f)) &&
    (t.kind != 5 || (w && k == 1)) &&
    (!w || k == 0 || !(t.kind == 6 || t.kind == 7 || t.kind == 8 || t.kind == 9)) &&
    (!(t.kind == 5 || t.kind == 6) || !p.sections.has 10 ||
      ((lat || hyp) && t.chans == (if lat then (if w && t.kind == 6 then 2 * cdfLatCh c else cdfLatCh c) else cdfHypCh c))) &&
    (t.kind != 6 || !w || p.sections.has 10) && (t.kind != 10 || !w || p.media == 0) && (t.kind != 3 || p.media != 2 || k == 1) &&
    (t.kind != 6 || !(all.any fun f => f.2.2.2 != w && sameAs f && f.1 == k && f.2.2.1.chans == t.chans))

/-- The tensor table entries of all programs. -/
def Pkg.tensors (p : Pkg) : List Tensor := p.progs.flatMap fun k => (List.range (tensorCount (p.prog k))).map fun i => tensorAt (p.prog k) i

/-- Entries that name one tensor agree (R460); those of POOL tensors are compared where records name them. -/
def Pkg.agreeOk (p : Pkg) (t : Tensor) : Bool :=
  t.kind == 2 || p.tensors.all fun u => !t.same u 0 0 || (t.fmt == u.fmt && t.chans == u.chans && t.dh == u.dh && t.dv == u.dv)

/-- Reference features agree within a program (R210). -/
def Pkg.refFeatOk (p : Pkg) (k : Nat) : Bool :=
  let ts : List Tensor := (List.range (tensorCount (p.prog k))).map fun i => tensorAt (p.prog k) i
  ts.all fun (a : Tensor) => a.kind != 7 || ts.all fun (b : Tensor) => !(b.kind == 8 || b.kind == 9) || (a.chans == b.chans && a.dh == b.dh && a.dv == b.dv)

/-- The writers of a tensor among the records before position n of an entry (R460). -/
def Pkg.writtenBefore (p : Pkg) (rs : List (Nat × Nat)) (n : Nat) (t : Tensor) (v : Nat) : Bool :=
  (rs.take n).any fun kr =>
    let r := p.rcd kr.1 kr.2
    srcKind r.out == 2 && t.same (p.tensor kr.1 r.out) v r.vplain

/-- Two records lie in one phase. -/
def Phases.together (ph : Phases) (a b : Nat × Nat) : Bool := [ph.ph0, ph.ph1, ph.loop, ph.ph10].any fun l => l.contains a && l.contains b

/-- The records of an entry whose rows record n reads in its execution (R70): earlier ones of its phase, in its stack, through a tensor that they
write, or through the rim engine or the warp unit. -/
def Pkg.readsOf (p : Pkg) (e : EntryPoint) (n : Nat) : List (Nat × Nat) :=
  let rs := e.recs
  let kr := listGet rs n (0, 0)
  let r := p.rcd kr.1 kr.2
  let srcs := [r.inA, r.inB]
  let before := (rs.take n).filter fun qr => (p.phases e).together kr qr
  let op := if srcKind r.inA == 4 then 6 else if srcKind r.inA == 3 then 7 else 0
  let unit := (before.filter fun qr => let q := p.rcd qr.1 qr.2; q.op == op && q.vplain == r.vplain).getLast?
  before.filter fun qr =>
    let q := p.rcd qr.1 qr.2
    (qr.1 == kr.1 && srcs.any fun c => srcKind c == 1 && srcIdx c == qr.2) || unit == some qr ||
      srcs.any fun c => srcKind c == 2 && srcKind q.out == 2 && (p.tensor kr.1 c).same (p.tensor qr.1 q.out) r.vplain q.vplain

/-- The h to which GAP outputs lift the records of an entry in the slice that ends before luma row n (R70), by record code; a GAP's own h. -/
def Pkg.gapLifts (p : Pkg) (e : EntryPoint) (n : Nat) : SMap Int :=
  (List.range e.recs.length).foldl (fun (m : SMap Int) i =>
    let kr := listGet e.recs i (0, 0)
    let r := p.rcd kr.1 kr.2
    let key (x : Nat × Nat) : Nat := recCode x.1 x.2
    let hs := (p.readsOf e i).map fun x =>
      let q := p.rcd x.1 x.2
      let lift := m.get (key x) (-1)
      if r.op == 5 && q.op != 5 then max (q.hOf (lastLayerRow n q.vScale)) lift else lift
    let h := hs.foldl max (-1)
    if h ≥ 0 then m.put (key kr) h else m) []

/-- The order check of R70 for record n of an entry; where GAP outputs lift cells, in the first four slices of every slice height. -/
def Pkg.entryOrderOk (p : Pkg) (e : EntryPoint) (n : Nat) : Bool :=
  let kr := listGet e.recs n (0, 0)
  let r := p.rcd kr.1 kr.2
  let gaps := e.recs.any fun x => (p.rcd x.1 x.2).op == 5
  let slices : List (Nat × Nat) := if gaps then (rangeFrom 1 8).flatMap fun k => (List.range 4).map fun i => (64 * k, i) else [(64, 0)]
  (p.readsOf e n).all fun qr =>
    let q := p.rcd qr.1 qr.2
    slices.all fun s =>
      let m := if gaps then p.gapLifts e (s.1 * (s.2 + 1)) else []
      let first := if s.2 == 0 then 0 else lastLayerRow (s.1 * s.2) r.vScale + 1
      orderOk r q (decide (recCode qr.1 qr.2 < recCode kr.1 kr.2)) first (m.get (recCode kr.1 kr.2) (-1)) (m.get (recCode qr.1 qr.2) (-1))

/-- The tensor rules of record n of an entry (R139, R460, R250): POOL reads follow a write, decode entries read what exact records write or
the stream supplies, SCRATCH of a field decode is written in the block. -/
def Pkg.entryTensorsOk (p : Pkg) (e : EntryPoint) (n : Nat) : Bool :=
  let rs := e.recs
  let kr := listGet rs n (0, 0)
  let r := p.rcd kr.1 kr.2
  ([r.inA, r.inB].filter fun c => srcKind c == 2).all fun c =>
    let t := p.tensor kr.1 c
    (t.kind != 2 || p.writtenBefore rs n t r.vplain) &&
      (!e.dec || t.kind == 6 || t.kind == 8 || t.kind == 9 || t.kind == 10 ||
        p.refs.any fun f => f.2.2.2 && f.1 == 0 && t.same f.2.2.1 r.vplain (p.rcd f.1 f.2.1).vplain) &&
      (e.kind != 9 || t.kind != 1 || p.writtenBefore rs n t r.vplain)

/-- The records of an entry that write DST. -/
def Pkg.dstWriters (p : Pkg) (e : EntryPoint) : List (Nat × Nat) :=
  e.recs.filter fun kr => let r := p.rcd kr.1 kr.2; srcKind r.out == 2 && (p.tensor kr.1 r.out).kind == 4

/-- Rules of audio and field packages (R241, R250): the latter's SRC and DST tensors have one number of channels. -/
def Pkg.mediaOk (p : Pkg) : Bool :=
  (p.media != 1 || (cdfLatDv p.cdf == 0 && cdfHypDv p.cdf == 0)) &&
    (p.media != 2 || match p.entry 9 with
      | none => true
      | some e =>
        let ds := p.dstWriters e
        ds.length == 1 && ds.all fun kr => (p.rcd kr.1 kr.2).outFmt == 11) &&
    (p.media != 2 ||
      let cs := (p.tensors.filter fun t => t.kind == 3 || t.kind == 4).map Tensor.chans
      cs.all (· == cs.headD 0))

/-- A record's tile lists (R140). -/
def tileListsOk (g : Bytes) (maps : Nat) (r : Rec) : Bool :=
  let a := auxArea g
  let m := u8At a r.tileList
  m == maps && zeroAt a (r.tileList + 1) 3 && within r.tileList (4 + 4 * m) a.length &&
    (List.range m).all fun j =>
      let o := u32At a (r.tileList + 4 + 4 * j)
      within o 2 a.length && within o (2 + u16At a o) a.length

/-- The BUDGET section (R147), but for what each record needs in it. The fields of a mapping's times, CODER among them, are the packager's figures,
which admission takes as they stand (R267): they are not held against R175. DESIGN CHOICE, log entry 164. -/
def Pkg.budgetOk (p : Pkg) : Bool :=
  let b := p.budget
  let m := budgetCount b
  decide (1 ≤ m) && decide (m ≤ 8) && zeroAt b 4 4 && within 8 (64 * m) b.length &&
    (List.range m).all fun j =>
      let d := mapAt b j
      let rs := mapRecs b d
      (List.range 8).all (fun v => decide (v < p.vplains) || mapTiles d v == 0) && decide (1 ≤ u8At d 20) && decide (u8At d 20 ≤ 8) &&
        zeroAt d 21 3 && zeroAt d 30 2 && within (u32At d 24) (16 * u16At d 28) b.length &&
        rs.all (fun x => decide (u8At x 2 ≤ 3) && zeroAt x 3 1 && zeroAt x 12 4 &&
          decide (u16At x 0 % 0x8000 < recCount (p.prog (u16At x 0 / 0x8000))))

/-- Record (k, i) in the BUDGET section (R147): one entry in each mapping when an entry point names it, and an X of 0 unless RERUN_MODE is
1. -/
def Pkg.budgetRecOk (p : Pkg) (kr : Nat × Nat) : Bool :=
  let b := p.budget
  let named := p.entries.any fun e => e.recs.contains kr
  (List.range (budgetCount b)).all fun j =>
    let mine := (mapRecs b (mapAt b j)).filter fun x => u16At x 0 == recCode kr.1 kr.2
    (!named || mine.length == 1) && ((p.rcd kr.1 kr.2).rerun == 1 || mine.all fun x => u32At x 8 == 0)

/-- Adapter target j (R230). -/
def Pkg.adapterOk (p : Pkg) (j : Nat) : Bool :=
  let i := u16At (p.prog 0) (24 + 2 * j)
  let r := p.rcd 0 i
  let naming := p.entries.filter fun e => decide (1 ≤ e.kind) && decide (e.kind ≤ 4) && e.recs.contains (0, i)
  r.op == 1 && r.kh % 2 == 1 && r.kw % 2 == 1 && r.aFmt == 9 && naming.all (fun e => (p.phases e).ph10.contains (0, i)) &&
    naming.any fun e => e.kind == 3 || e.kind == 4

/-- Required sections (R134). -/
def Pkg.sectionsOk (p : Pkg) : Bool :=
  let has (t : Nat) : Bool := p.sections.has t
  let usesRot (k : Nat) : Bool := (List.range (recCount (p.prog k))).any fun i => (p.rcd k i).rotN != 0
  [1, 2, 4, 6, 11].all has && (!has 3 || (has 5 && has 7)) && (!usesRot 0 || has 8) && (!has 3 || !usesRot 1 || has 9) &&
    (p.media == 2 || has 10) && (!(p.entries.any fun e => e.kind == 10) || has 12)

/-- Step 6 of R150: the first broken rule's result field. A section that other contents require is asked for once the records' own fields
hold (R134). DEDUCED, log entry 37. An ANCHOR section whose length is not that of its count is refused with reason 0x0008. DESIGN CHOICE, log
entry 164. -/
def Pkg.check (p : Pkg) : Option Nat :=
  if !([1, 2, 4, 6, 11].all p.sections.has) then some (failCode 2 0xFFFF)
  else if !(p.manOk && p.progs.all fun k => progOk (p.prog k) k) then some (failCode 8 0xFFFF)
  else
    let recs := p.progs.flatMap fun k => (List.range (recCount (p.prog k))).map fun i => (k, i)
    let refs := p.refs
    firstFail (
      (recs.map fun kr => (p.recordOk kr.1 kr.2, failCode 7 (recCode kr.1 kr.2))) ++
      [(p.sectionsOk, failCode 2 0xFFFF), (!p.sections.has 10 || cdfOk p.cdf, failCode 7 0xFFFF)] ++
      (recs.map fun kr => (p.offsetsOk kr.1 (p.rcd kr.1 kr.2), failCode 7 (recCode kr.1 kr.2))) ++
      (recs.map fun kr => (tileListsOk (p.prog kr.1) (budgetCount p.budget) (p.rcd kr.1 kr.2), failCode 8 (recCode kr.1 kr.2))) ++
      [(!p.sections.has 10 || cdfHypCh p.cdf == 0 || cdfHypDh p.cdf != cdfLatDh p.cdf || cdfHypDv p.cdf != cdfLatDv p.cdf, failCode 8 0xFFFF)] ++
      (p.tensors.map fun t => (p.tensorOk t && p.agreeOk t, failCode 8 0xFFFF)) ++
      (refs.map fun e => (p.refOk refs e, failCode 8 (recCode e.1 e.2.1))) ++
      (p.progs.map fun k => (p.refFeatOk k, failCode 8 0xFFFF)) ++
      (p.entries.map fun e => (p.entryOk e, failCode 8 0xFFFF)) ++
      (p.entries.flatMap fun e => (List.range e.recs.length).flatMap fun n =>
        let c := let kr := listGet e.recs n (0, 0); recCode kr.1 kr.2
        [(p.entryTensorsOk e n, failCode 8 c), (p.entryOrderOk e n, failCode 7 c)]) ++
      [(p.mediaOk && p.budgetOk, failCode 8 0xFFFF)] ++ (recs.map fun kr => (p.budgetRecOk kr, failCode 8 (recCode kr.1 kr.2))) ++
      [(!p.sections.has 12 || (p.sec 12).length == 4 + 16 * u32At (p.sec 12) 0, failCode 8 0xFFFF)] ++
      ((List.range (u8At (p.prog 0) 21)).map fun j => (p.adapterOk j, failCode 7 (u16At (p.prog 0) (24 + 2 * j)))))

/-- The model digest (R145). -/
def modelDigestOf (digests : SMap Bytes) (sha : Bytes → Bytes) : Bytes :=
  sha ([2, 4, 6, 8, 10].flatMap fun t => digests.get t (List.replicate 32 0))

end Sys2Proof.Machine
end

