-- ==== Sys2Proof/Machine/Admission.lean ====
section
/-!
DEFINITION. Contracts and admission (R258 to R271): the contract parameter block, seats, segments and their lengths, the
placement of trains, CONTRACT_OPEN and CONTRACT_CLOSE.
-/
namespace Sys2Proof.Machine

/-- δ of R264, in ns. -/
def slotNs : Rat := 15625 / 16

/-- Least number n with x ≤ n. -/
def ratCeil (x : Rat) : Nat := x.ceil.toNat

/-! Grids and units of a package -/

/-- Positions of a grid of scales dh, dv on a geometry of W × H (R159): width and height. -/
def gridW (w : Nat) (dh : Int) : Nat := ceilDiv w (2 ^ dh.toNat)
def gridH (h : Nat) (dv : Int) : Nat := ceilDiv h (2 ^ dv.toNat)

/-- The grid rows of luma rows y0 to y0 + n - 1 (R159): first row, and one past the last. -/
def gridRows (y0 n : Nat) (dv : Int) : Nat × Nat := (ceilDiv y0 (2 ^ dv.toNat), ceilDiv (y0 + n) (2 ^ dv.toNat))

/-- Elements of the largest unit of a geometry (R160, R172): its first n rows. -/
def unitElements (cdf : Bytes) (w n : Nat) : Nat :=
  gridW w (cdfHypDh cdf) * (gridRows 0 n (cdfHypDv cdf)).2 * cdfHypCh cdf +
    gridW w (cdfLatDh cdf) * (gridRows 0 n (cdfLatDv cdf)).2 * cdfLatCh cdf

/-- Largest coded slice of a unit of n elements (R168, R169). -/
def codedMax (cdf : Bytes) (n : Nat) : Nat := 128 + 2 * (n + 2 * cdfEscMax cdf)

/-- The MOTION tensor of a package, if its tensor tables hold one (R138, R191). -/
def Pkg.motion (p : Pkg) : Option Tensor := p.tensors.find? fun t => t.kind == 10

/-- Bytes of the motion section of luma rows y0 to y0 + n - 1 (R191). -/
def Pkg.motionBytes (p : Pkg) (w y0 n : Nat) : Nat :=
  match p.motion with
  | none => 0
  | some t => let (a, b) := gridRows y0 n t.dv; 4 * gridW w t.dh * (b - a)

/-- RAW_LEN of the package's adapters (R186). -/
def Pkg.adapterRaw (p : Pkg) : Nat :=
  let g := p.prog 0
  sumN ((List.range (u8At g 21)).map fun j => let r := recAt g (u16At g (24 + 2 * j)); 4 * (r.cIn + r.cOut))

/-! The contract parameter block -/

/-- KINDs of entry that a JOB runs on every unit (R267). -/
def jobKinds (job : Nat) : List Nat := listGet [[1, 2], [3, 4], [6], [7], [8], [9]] job []

def Contract.adapters (c : Contract) : Bool := bitAt (u8At c.cpb 9) 0
def Contract.region (c : Contract) : Bool := bitAt (u8At c.cpb 9) 1
def Contract.mapping (c : Contract) : Nat := u8At c.cpb 3
def Contract.seatCount (c : Contract) : Nat := u8At c.cpb 6
def Contract.gopMin (c : Contract) : Nat := u16At c.cpb 26
/-- ITERS of R270. -/
def Contract.iters (c : Contract) : Nat := if u8At c.cpb 10 == 0 then 24 else u8At c.cpb 10

/-- KINDs that a contract's job needs, with TRAIN and REGION (R259). -/
def Contract.needs (c : Contract) : List Nat :=
  jobKinds c.job ++ (if c.adapters then [5] else []) ++ if c.region then [10] else []

/-- A field of the CPB is in its range (R258). -/
def cpbOk (b : Bytes) : Bool :=
  let job := u8At b 2
  let adapters := bitAt (u8At b 9) 0
  let w := u16At b 20
  let h := u16At b 22
  let rng (x lo hi : Nat) : Bool := decide (lo ≤ x) && decide (x ≤ hi)
  decide (job ≤ 5) && decide (u8At b 4 ≤ 1) && decide (u8At b 5 ≤ 7) && rng (u8At b 6) 1 64 && rng (u8At b 7) 1 8 &&
    rng (u8At b 8) 4 6 && decide (u8At b 9 ≤ (if job == 0 then 3 else 0)) && decide (u8At b 10 ≤ 64) &&
    (adapters || u8At b 10 == 0) && zeroAt b 11 1 && rng (u32At b 12) 100000 4000000000 && rng (u32At b 16) 10000 4000000000 &&
    (if job ≤ 1 then rng w 16 16384 && rng h 16 16384
     else if job ≤ 3 then rng w 1 8 && (h == 160 || h == 240 || h == 320 || h == 480)
     else (w == 64 || w == 256) && h == 0) &&
    (if job ≤ 1 then rng (u8At b 24) 1 8 else u8At b 24 == 0) && zeroAt b 25 1 &&
    (if adapters then u16At b 26 != 0 else u16At b 26 == 0) && allZero (slice b 28 36)

/-- The CPB fits the package (R259). -/
def Contract.fitsPkg (c : Contract) (p : Pkg) : Bool :=
  let d := mapAt p.budget c.mapping
  let service := (c.needs.filterMap p.entry).flatMap fun e => e.recs.filterMap fun kr =>
    let r := p.rcd kr.1 kr.2
    if r.op == 6 || r.op == 7 || r.op == 8 then some r.vplain else none
  c.job / 2 == p.media && decide (c.mapping < budgetCount p.budget) && c.needs.all (fun k => (p.entry k).isSome) &&
    (!c.adapters || u8At (p.prog 0) 21 != 0) && decide (u16At c.cpb 20 ≤ u16At d 16) && decide (u16At c.cpb 22 ≤ u16At d 18) &&
    decide (u8At c.cpb 24 ≤ u8At d 20) && service.all fun v => v == service.headD 0

/-- A package of nothing. -/
def Pkg.empty : Pkg := { pkgDigest := [], modelDigest := [], sections := [], digests := [] }

/-! Segments -/

/-- A segment of a train: its resource kind, and its length in slots (R267). -/
inductive SegKind where
  | tiles | eng | rim | warp | reg | ll | out
deriving DecidableEq, Repr

/-- Budget of record (k, i) in a list of record budgets: SCOPE, B, X. -/
def recBudget (bs : List Bytes) (kr : Nat × Nat) : Nat × Nat × Nat :=
  match bs.find? fun b => u16At b 0 == kr.2 + 0x8000 * kr.1 with
  | some b => (u8At b 2, u32At b 4, u32At b 8)
  | none => (0, 0, 0)

/-- A tile sum in tile cycles (R148, R267): records, each with the number of times it runs. -/
def tileSum (bs : List Bytes) (allow : Nat) (rs : List ((Nat × Nat) × Nat)) : Nat :=
  sumN (rs.map fun e => (recBudget bs e.1).2.1 * e.2) +
    allow * maxN ((rs.filter fun e => e.1.1 == 0).map fun e => (recBudget bs e.1).2.2) +
    allow * maxN ((rs.filter fun e => e.1.1 == 1).map fun e => (recBudget bs e.1).2.2)

def once (rs : List (Nat × Nat)) : List ((Nat × Nat) × Nat) := rs.map fun r => (r, 1)

/-- Tile sums of an entry (R267): TILE0, the parameter part, TILE10. -/
def entrySums (p : Pkg) (bs : List Bytes) (allow : Nat) (extra : List (Nat × Nat)) (e : EntryPoint) : Nat × Nat × Nat :=
  let ph := p.phases e
  let sc (n : Nat) (rs : List (Nat × Nat)) : List (Nat × Nat) := rs.filter fun r => (recBudget bs r).1 == n
  (tileSum bs allow (once (sc 0 ph.ph0 ++ sc 1 (e.recs ++ extra) ++ sc 2 (e.recs ++ extra) ++ sc 0 extra)),
   tileSum bs allow (once (sc 0 ph.ph1) ++ (sc 0 ph.loop).map fun r => (r, 8)),
   tileSum bs allow (once (sc 0 ph.ph10)))

/-- Slots of n cycles at f cycles in d ns. -/
def cycleSlots (n : Nat) (perNs : Rat) : Nat := ratCeil ((n : Rat) / perNs / slotNs)

/-- O of R267: bytes that one departure delivers over PCIe, at the limits of mapping d. -/
def Contract.outBytes (c : Contract) (p : Pkg) (d : Bytes) : Nat :=
  let w := u16At d 16
  let h := u16At d 18
  let rows := min (64 * u8At d 20) h
  let hm := 156
  let edge := u16At c.cpb 20
  let elems := if edge == 64 then 262144 else 65536
  match c.job with
  | 0 =>
    let base := 36 + ceilDiv w 64 * ceilDiv rows 64 + codedMax p.cdf (unitElements p.cdf w rows)
    let raw := p.adapterRaw
    let adapter := if c.adapters then 28 + 16 * u8At (p.prog 0) 21 + raw + 5 * ceilDiv raw 65535 + 1 else 0
    max (base + 92 + 108 + 44 + adapter) (base + 44 + p.motionBytes w 0 rows) + 2 * hm
  | 2 => 28 + codedMax p.cdf (unitElements p.cdf h 1) + hm
  | 3 => 16 + 4 * w * h
  | 4 => 44 + codedMax p.cdf (unitElements p.cdf edge edge) + 20 * elems + hm
  | 5 => 8 * elems + 16
  | _ => 0

/-- Bytes of the LL segment (R267). DEDUCED, log entry 54. -/
def Contract.llBytes (c : Contract) (p : Pkg) : Nat :=
  if c.job < 2 then
    p.motionBytes (u16At c.cpb 20) 0 (min (64 * u8At c.cpb 24) (u16At c.cpb 22)) + (if c.adapters then p.adapterRaw else 0)
  else if c.job < 4 then 0
  else 4 * (if u16At c.cpb 20 == 64 then 262144 else 65536)

/-- The records of the REGION entry, when it is in use. -/
def Contract.regionRecs (c : Contract) (p : Pkg) : List (Nat × Nat) := if c.region then ((p.entry 10).map (·.recs)).getD [] else []

/-- The tile sums of each entry of the job (R267). -/
def Contract.sums (c : Contract) (p : Pkg) : List (Nat × Nat × Nat) :=
  ((jobKinds c.job).filterMap p.entry).map (entrySums p (mapRecs p.budget (mapAt p.budget c.mapping)) c.rerunA (c.regionRecs p))

/-- The tiles' clock in cycles a ns at a divider (R267). -/
def tileGHz (div : Nat) : Rat := 24 / (5 * (div : Rat))

/-- The holding time of R173 in ns, in the worst case (R267): CODER cycles at 2.4 GHz and the parameter part at a divider. -/
def Contract.holdNs (c : Contract) (p : Pkg) (div : Nat) : Rat :=
  (c.sums p).foldl (fun m x => max m ((u32At (mapAt p.budget c.mapping) 32 : Rat) * 5 / 12 + (x.2.1 : Rat) / tileGHz div)) 0

/-- The segments of a contract's train in order, lengths in slots (R267). DEDUCED, log entry 55. -/
def Contract.segments (c : Contract) (p : Pkg) (cp : Nat) : List (SegKind × Nat) :=
  let d := mapAt p.budget c.mapping
  let f := tileGHz c.clkDiv
  let sums := c.sums p
  let rs := ((jobKinds c.job).filterMap p.entry).flatMap (·.recs) ++ c.regionRecs p
  let uses (op : Nat) : Bool := rs.any fun kr => (p.rcd kr.1 kr.2).op == op
  let eng := ratCeil (c.holdNs p c.clkDiv / slotNs)
  let len (k : SegKind) (phase : Nat) : Nat :=
    match k with
    | .tiles => maxN (sums.map fun x => cycleSlots (if phase == 0 then x.1 else x.2.2) f)
    | .eng => eng
    | .rim => if uses 7 || uses 8 then cycleSlots (u32At d 40) (6 / 5) else 0
    | .warp => if uses 6 then cycleSlots (u32At d 36) (6 / 5) else 0
    | .reg => if c.region then cycleSlots (u32At d 44) (8 / 5) else 0
    | .ll => ceilDiv (c.llBytes p) (if c.job % 2 == 1 then 16384 else 8192)
    | .out => 1 + ratCeil ((c.outBytes p d : Rat) / ((cp : Rat) / 4))
  let order : List (SegKind × Nat) :=
    match c.job with
    | 0 => [(.rim, 0), (.tiles, 0), (.reg, 0), (.ll, 0), (.eng, 0), (.out, 0), (.warp, 0), (.tiles, 10)]
    | 1 => [(.ll, 0), (.tiles, 0), (.eng, 0), (.warp, 0), (.tiles, 10), (.rim, 0), (.out, 0)]
    | 2 => [(.rim, 0), (.tiles, 0), (.eng, 0), (.out, 0), (.tiles, 10)]
    | 3 => [(.tiles, 0), (.eng, 0), (.tiles, 10), (.rim, 0), (.out, 0)]
    | 4 => [(.tiles, 0), (.eng, 0), (.tiles, 10), (.ll, 0), (.out, 0)]
    | _ => [(.ll, 0), (.tiles, 0), (.eng, 0), (.tiles, 10), (.out, 0)]
  (order.map fun e => (e.1, len e.1 e.2)).filter fun e => e.2 != 0

/-- T_it of R270 in ns. -/
def Contract.trainNs (c : Contract) (p : Pkg) : Rat :=
  let bs := mapRecs p.budget (mapAt p.budget c.mapping)
  let rs := ((p.entry 5).map (·.recs)).getD []
  (tileSum bs c.rerunA (once rs) : Rat) * (5 * (c.clkDiv : Rat)) / 24

/-- The spacing of a contract's departures in ns (R266). -/
def Contract.spacing (c : Contract) : Rat := (ceilDiv 1024 c.k : Rat) * slotNs

/-- M of R270 at departures g ns apart. -/
def Contract.trainDeps (c : Contract) (p : Pkg) (g : Rat) : Nat := ratCeil ((c.iters : Rat) * c.trainNs p / g)

/-- adapter_test (R270). -/
def Contract.adapterTest (c : Contract) (p : Pkg) (g : Rat) (R : Nat) : Bool :=
  if !c.adapters then true
  else
    let u : Rat := c.units
    let m : Rat := c.trainDeps p g
    let gop : Rat := c.gopMin
    decide (36 + g + (R : Rat) * slotNs + (2 * u + m) * g ≤ 95 / 100 * (c.latency : Rat)) &&
      decide ((gop * (u + 1) + u + m) * g ≤ 95 / 100 * gop * (c.period : Rat))

/-! Tiles -/

/-- The unreserved logical tiles of plain p, as device tile numbers, given tiles already taken. -/
def Dev.freeTiles (s : Dev) (held : List Nat) (p : Nat) : List Nat :=
  if (s.plain p).failed then []
  else ((List.range 256).map fun t => p * 256 + t).filter fun n => !s.tileReserved held n

/-- Place one virtual plain of n tiles (R261): the physical plain and its tiles. -/
def Dev.placeVirtual (s : Dev) (held : List Nat) (n : Nat) : Option (Nat × List Nat) :=
  ((List.range 8).find? fun p =>
    let free := s.freeTiles held p
    !(s.plain p).failed && decide (n ≤ free.length) && (n == 0 || decide (256 - free.length + n ≤ 243))).map
    fun p => (p, (s.freeTiles held p).take n)

/-- Place the virtual plains of one seat: tiles and plains, in order (R261). -/
def Dev.placeSeat (s : Dev) : List Nat → List Nat → Option (List Nat × List Nat)
  | _, [] => some ([], [])
  | held, n :: ns =>
    match s.placeVirtual held n with
    | none => none
    | some (p, ts) => (Dev.placeSeat s (held ++ ts) ns).map fun r => (ts ++ r.1, p :: r.2)

/-- A seat just placed. -/
def Seat.fresh (tiles plains : List Nat) : Seat :=
  { tiles := tiles, plains := plains, stream := none, lost := false, bookings := [], offset := 0, tokens := 0, tokenAt := 0
    redos := 0, redoMark := 0, uncovered := false, moving := false, departed := none, link := false }

/-- Place n seats (R261). -/
def Dev.placeSeats (s : Dev) (sizes : List Nat) : Nat → List Nat → Option (List Seat)
  | 0, _ => some []
  | n + 1, held =>
    match s.placeSeat held sizes with
    | none => none
    | some (ts, ps) => (Dev.placeSeats s sizes n (held ++ ts)).map fun r => Seat.fresh ts ps :: r

/-! Trains -/

/-- A unit instance can be booked at all: it works, and serves (R155, R371, R382). -/
def Dev.unitUp (s : Dev) (res : Nat) : Bool :=
  if res < 16 then s.units.engines.any fun e => e.role == some res && !e.failed
  else if res < 24 then !(s.plain (res - 16)).rimDown
  else if res < 32 then !(s.plain (res - 24)).warpDown
  else if res < 34 then !(listGet s.units.regionDown (res - 32) false)
  else !(listGet s.units.lles (res - 34) Lle.reset).failed

/-- The instance is free in every slot of the run, and stays within 972 slots (R265). -/
def Dev.runFree (s : Dev) (booked : List Booking) (res slot len : Nat) : Bool :=
  s.unitUp res &&
    decide (sumN ((booked.filter fun b => b.res == res).map (·.len)) + len ≤ 972) &&
    (List.range len).all fun i => !(booked.any fun b => b.res == res && b.covers ((slot + i) % 1024))

/-- The instances that may take a segment, for a seat whose service records stand on physical plain v (R269). -/
def segInstances (k : SegKind) (v : Nat) : List Nat :=
  match k with
  | .eng => List.range 16
  | .rim => [16 + v]
  | .warp => [24 + v]
  | .reg => [32, 33]
  | .ll => [34, 35, 36, 37]
  | _ => []

/-- Book one departure from a slot on (R266, R269). -/
def Dev.bookDeparture (s : Dev) (v quarter : Nat) : List Booking → Nat → List (SegKind × Nat) → Option (List Booking)
  | booked, _, [] => some booked
  | booked, slot, (k, n) :: rest =>
    match k with
    | .tiles => Dev.bookDeparture s v quarter booked ((slot + n) % 1024) rest
    | .out => Dev.bookDeparture s v quarter (⟨39, slot, n, quarter⟩ :: booked) ((slot + n) % 1024) rest
    | _ =>
      match (segInstances k v).find? fun r => s.runFree booked r slot n with
      | none => none
      | some r => Dev.bookDeparture s v quarter (⟨r, slot, n, 0⟩ :: booked) ((slot + n) % 1024) rest

/-- Book the departures at the slots given; each also books the HBM rate over its train (R268). -/
def Dev.bookAll (s : Dev) (v quarter R hbmQ : Nat) (segs : List (SegKind × Nat)) : List Nat → List Booking → Option (List Booking)
  | [], booked => some booked
  | t :: ts, booked =>
    match s.bookDeparture v quarter (⟨38, t, R, hbmQ⟩ :: booked) t segs with
    | none => none
    | some b => Dev.bookAll s v quarter R hbmQ segs ts b

/-- Bytes booked in a slot of a resource. -/
def bytesIn (booked : List Booking) (res slot : Nat) : Nat :=
  sumN ((booked.filter fun b => b.res == res && b.covers slot).map (·.bytes))

/-- Bandwidth bookings stay within 95 % of capacity in every slot (R265). -/
def bandwidthOk (booked : List Booking) (cp : Nat) : Bool :=
  (List.range 1024).all fun j => decide (100 * bytesIn booked 38 j ≤ 95 * hbmCap) && decide (100 * bytesIn booked 39 j ≤ 95 * cp)

/-- What a train needs: K, length, segments, HBM_Q, PCIE_Q, the PCIe capacity (R267, R268). -/
structure TrainPlan where
  k     : Nat
  R     : Nat
  segs  : List (SegKind × Nat)
  hbmQ  : Nat
  pcieQ : Nat
  cp    : Nat
deriving DecidableEq, Repr

/-- The bookings of a seat at offset a, on top of those given (R266, R268, R269). -/
def Dev.trainAt (s : Dev) (t : TrainPlan) (v : Nat) (booked : List Booking) (a : Nat) : Option (List Booking) :=
  match s.bookAll v (t.cp / 4) t.R t.hbmQ t.segs (trainStarts t.k a) (⟨39, 0, 1024, t.pcieQ⟩ :: booked) with
  | none => none
  | some all => if bandwidthOk all t.cp then some (all.take (all.length - booked.length)) else none

/-- The first offset from a on, of n, at which a train fits. -/
def Dev.findTrain (s : Dev) (t : TrainPlan) (v : Nat) (booked : List Booking) : Nat → Nat → Option (Nat × List Booking)
  | 0, _ => none
  | n + 1, a =>
    match s.trainAt t v booked a with
    | some bs => some (a, bs)
    | none => Dev.findTrain s t v booked n (a + 1)

/-- place_trains (R269). -/
def Dev.placeTrains (s : Dev) (t : TrainPlan) (vplain : Nat) : List Seat → List Booking → Option (List Seat)
  | [], _ => some []
  | x :: xs, booked =>
    match s.findTrain t (listGet x.plains vplain 0) booked 1024 0 with
    | none => none
    | some (a, bs) => (Dev.placeTrains s t vplain xs (bs ++ booked)).map fun r => { x with bookings := bs, offset := a } :: r

/-- The virtual plain of the job's service records (R259). -/
def Contract.serviceVplain (c : Contract) (p : Pkg) : Nat :=
  (((jobKinds c.job).filterMap p.entry).flatMap fun e => e.recs.filterMap fun kr =>
    let r := p.rcd kr.1 kr.2
    if r.op == 6 || r.op == 7 || r.op == 8 then some r.vplain else none).headD 0

/-- The loop of admission over k (R269): the contract with its trains, or the reason. -/
def Dev.admitFrom (s : Dev) (c : Contract) (p : Pkg) (segs : List (SegKind × Nat)) (R cp : Nat) : Nat → Nat → Except Nat Contract
  | 0, _ => .error 5
  | n + 1, k =>
    if k > 64 || ceilDiv 1024 k < R then .error 5
    else
      let g : Rat := (ceilDiv 1024 k : Rat) * slotNs
      let bound : Rat := 36 + g + (R : Rat) * slotNs + (c.burst : Rat) * g
      if decide (bound ≤ 95 / 100 * (c.latency : Rat)) && c.adapterTest p g R then
        let d := mapAt p.budget c.mapping
        let t : TrainPlan :=
          { k := k, R := R, segs := segs, hbmQ := ceilDiv (u64At d 48) R
            pcieQ := ceilDiv (u64At d 56 * (c.units + 1) * 1000000) (c.period * 1024), cp := cp }
        match s.placeTrains t (c.serviceVplain p) c.seats s.media.allBookings with
        | some seats => .ok { c with k := k, rTrain := R, bound := ratCeil bound, seats := seats }
        | none => .error 6
      else Dev.admitFrom s c p segs R cp n (k + 1)

/-- Admission (R261, R263, R267, R269): the contract admitted, or the reason of REJECTED_ADMISSION. -/
def Dev.admitted (s : Dev) (c : Contract) (p : Pkg) : Except Nat Contract :=
  let d := mapAt p.budget c.mapping
  let sizes := (List.range p.vplains).map (mapTiles d)
  match s.placeSeats sizes c.seatCount s.media.seatTiles with
  | none => .error 3
  | some seats =>
    let c1 := { c with seats := seats }
    if !c.guaranteed then .ok c1
    else if s.pcieCap == 0 then .error 6
    else
      let segs := c1.segments p s.pcieCap
      let R := sumN (segs.map (·.2))
      let target : Rat := 95 / 100 * (c.period : Rat) / ((c.units : Rat) + 1)
      match findFrom (fun k => decide ((ceilDiv 1024 k : Rat) * slotNs ≤ target)) 64 1 with
      | none => .error 4
      | some k => if ceilDiv 1024 k < R then .error 4 else s.admitFrom c1 p segs R s.pcieCap 64 k

/-! CONTRACT_OPEN and CONTRACT_CLOSE -/

/-- The admission report (R260). -/
def Contract.report (c : Contract) (p : Pkg) : Bytes :=
  if !c.guaranteed then List.replicate 64 0
  else
    let d := mapAt p.budget c.mapping
    let occ : Rat := (ceilDiv 1024 c.k : Rat) * slotNs
    leBytes 2 c.k ++ leBytes 2 c.rTrain ++ leBytes 4 c.bound ++ leBytes 4 (ratCeil occ) ++
      leBytes 4 (ceilDiv (u64At d 48) c.rTrain) ++
      leBytes 4 (ceilDiv (u64At d 56 * (c.units + 1) * 1000000) (c.period * 1024)) ++ List.replicate 44 0

/-- The lowest number from 1 on that a table does not hold. DESIGN CHOICE, log entry 45. -/
def lowestFree {α : Type} (m : SMap α) (n : Nat) : Nat := (findFrom (fun k => !(SMap.has m k)) n 1).getD 0

/-- Wake every gated plain that a seat uses (R271, R407). -/
def Dev.wakeSeats (s : Dev) (xs : List Seat) : Dev :=
  (List.range 8).foldl (fun t p => if xs.any fun x => x.inPlain p then t.wakePlain p else t) s

/-- What follows a change of the seats: the causes and the plains' idle times (R278, R407). -/
def Dev.seatsChanged (s : Dev) : Dev := s.refreshSusp.refreshIdle

/-- End CONTRACT_OPEN without a contract: bytes 64 to 127 of the CPB zero (R260). -/
def Dev.contractFail (s : Dev) (a : Acc) (cpb status reason : Nat) : Dev :=
  match s.hostWrite (cpb + 64) (List.replicate 64 0) with
  | some t => t.complete a status reason 0 none
  | none => (s.dataFault a.func a.ring).complete a stABORTED 0 0 none

/-- CONTRACT_OPEN (R258 to R263, R269, R271). -/
def Dev.contractOpenOp (a : Acc) (s : Dev) : Dev :=
  let cpb := u64At a.raw 16
  if cpb + 128 > 2 ^ 64 then s.complete a stBAD 0 0 none
  else
    match s.hostRead cpb 64 with
    | none => (s.dataFault a.func a.ring).contractFail a cpb stABORTED 0
    | some b =>
      let s1 := s.count (ev 11 0) 64
      match (s1.fn a.func).handleAt a.seq (u16At b 0) with
      | none => s1.contractFail a cpb stMISSING 0
      | some h =>
        let p := s1.media.pkgs.get h.pkg Pkg.empty
        let c : Contract := { func := a.func, cpb := b, pkg := h.pkg, k := 0, rTrain := 0, bound := 0, seats := [] }
        if !(cpbOk b && c.fitsPkg p) then s1.contractFail a cpb stFORMAT 1
        else if (s1.media.contracts.filter fun e => e.2.func == a.func).length ≥ 64 || s1.media.contracts.length ≥ 256 ||
            s1.media.allSeats.length + c.seatCount > 1024 then
          (s1.count (ev 14 4) 1).contractFail a cpb stADMISSION 7
        else
          match s1.admitted c p with
          | .error r => (s1.count (ev 14 4) 1).contractFail a cpb stADMISSION r
          | .ok x =>
            match s1.hostWrite (cpb + 64) (x.report p) with
            | none => (s1.dataFault a.func a.ring).complete a stABORTED 0 0 none
            | some t =>
              let n := lowestFree t.media.contracts 257
              let u : Dev := { t with media := { t.media with contracts := t.media.contracts.put n x } }
              (((u.wakeSeats x.seats).seatsChanged).count (ev 14 3) 1).complete a stDONE n 0 none

def execContractOpen (d : Desc) (s : State) : Out := .next (s.onDev fun v => v.runDesc d 0x20 Dev.contractOpenOp)

/-- Remove a contract with every reservation (R262). -/
def Dev.dropContract (s : Dev) (n : Nat) : Dev :=
  ({ s with media := { s.media with contracts := s.media.contracts.del n } }).seatsChanged

/-- CONTRACT_CLOSE (R262). -/
def Dev.contractCloseOp (a : Acc) (s : Dev) : Dev :=
  let n := handleOf a.raw
  match s.media.contracts.find n with
  | none => s.complete a stBAD 0 0 none
  | some c =>
    if c.func != a.func then s.complete a stBAD 0 0 none
    else if c.seats.any fun x => x.stream.isSome then s.complete a stADMISSION 0 0 none
    else (s.dropContract n).complete a stDONE 0 0 none

def execContractClose (d : Desc) (s : State) : Out := .next (s.onDev fun v => v.runDesc d 0x21 Dev.contractCloseOp)

end Sys2Proof.Machine
end

