-- ==== Sys2Proof/Machine/Repair.lean ====
section
/-!
DEFINITION. Spares and the repair state (R374, R375, R377, R380, R381, R103, R104): fuse records, soft repair, tile
replacement and engine substitution.
-/
namespace Sys2Proof.Machine

/-- CHECK of a fuse record (R381): the complement of the sum of bytes 0 to 6. -/
def fuseCheck (v : Nat) : Nat := 255 - sumN ((List.range 7).map fun k => bits v (8 * k) 8) % 256

/-- A fuse record is valid (R381). -/
def fuseValid (v : Nat) : Bool := bits v 56 8 == fuseCheck v

/-- A value with its CHECK (R381). -/
def fuseRecord (v : Nat) : BitVec 64 := BitVec.ofNat 64 (v % 2 ^ 56 + fuseCheck v * 2 ^ 56)

/-- A record is void: a valid REVOKE record names it (R381). -/
def revoked (rs : List (BitVec 64)) (i : Nat) : Bool :=
  rs.any fun r => fuseValid r.toNat && bits r.toNat 0 4 == 15 && bits r.toNat 8 9 == i

/-- Whether a physical position serves a logical tile other than t (R380). -/
def Plain.servesOther (x : Plain) (t pos : Nat) : Bool := (List.range 256).any fun u => u != t && x.posOf u == pos && !x.lost.contains u

/-- FUSE_ERR (R371). -/
def Dev.fuseErr (s : Dev) : Dev := s.sticky 3 8 0

/-- Assign a logical engine to the free spare with the lowest number (R155, R374). -/
def spareEngine (es : List Engine) : Option Nat :=
  (List.range 18).find? fun n =>
    let e := listGet es n (Engine.reset n)
    !e.failed && !e.withdrawn && e.role.isNone

/-- Physical engine n gives its role up to a spare, if one is free: the engines, and whether the role moved (R155). -/
def moveRole (es : List Engine) (n : Nat) : List Engine × Bool :=
  let e := listGet es n (Engine.reset n)
  match e.role with
  | none => (es, true)
  | some r =>
    match spareEngine es with
    | some m => (listMod (listSet es n { e with role := none }) m fun x => { x with role := some r, held := e.held }, true)
    | none => (es, false)

/-- Physical engine n is marked failed; a spare takes its role (R374, R381). -/
def Units.failEngine (u : Units) (n : Nat) : Units × Bool :=
  let es := listMod u.engines n fun e => { e with failed := true }
  let (fs, ok) := moveRole es n
  ({ u with engines := fs }, ok)

/-! Repair inside an array (R103, R104) -/

/-- The repair of an array: failed physical row, failed physical columns ascending, and whether soft repair holds one of them. -/
abbrev ArrayRepair := Option Nat × List Nat × Bool

/-- The array of a physical tile has no failed row or column. -/
def ArrayRepair.none : ArrayRepair := (Option.none, [], false)

/-- Physical row of logical row i (R103). -/
def ArrayRepair.row (m : ArrayRepair) (i : Nat) : Nat :=
  match m.1 with
  | some f => if i < f then i else i + 1
  | Option.none => i

/-- Physical column of logical column j: the j-th that is not failed (R103). -/
def ArrayRepair.col (m : ArrayRepair) (j : Nat) : Nat := m.2.1.foldl (fun p c => if c ≤ p then p + 1 else p) j

/-- The logical row that a physical row serves; none for a failed or unused one (R103). -/
def ArrayRepair.rowOf (m : ArrayRepair) (p : Nat) : Option Nat :=
  let i := match m.1 with
    | some f => if p < f then some p else if p = f then Option.none else some (p - 1)
    | Option.none => some p
  i.filter (· < 16)

/-- The logical column that a physical column serves; none for a failed or unused one (R103). -/
def ArrayRepair.colOf (m : ArrayRepair) (p : Nat) : Option Nat :=
  if m.2.1.contains p then Option.none else (some (p - (m.2.1.filter (· < p)).length)).filter (· < 64)

/-- A repair would be a second failed row or a third failed column of its array (R104), or a ninth row of its SRAM bank (R92, R378). -/
def Dev.overRepair (s : Dev) (v : Nat) : Bool :=
  let m := (s.plain (bits v 4 3)).arrays.get (4 * bits v 8 9 + bits v 17 3) ArrayRepair.none
  match bits v 0 4 with
  | 0x2 => m.1.isSome && m.1 != some (bits v 20 12)
  | 0x3 => decide (m.2.1.length ≥ 2) && !m.2.1.contains (bits v 20 12)
  | 0x4 =>
    let rows := (s.plain (bits v 4 3)).srams.get (4 * bits v 8 9 + bits v 17 3) []
    decide (rows.length ≥ 8) && !rows.contains (bits v 20 12)
  | _ => false

/-- Failed columns, ascending, with one more. -/
def insertCol (c : Nat) : List Nat → List Nat
  | [] => [c]
  | d :: l => if c < d then c :: d :: l else if c = d then d :: l else d :: insertCol c l

/-- A physical tile is marked failed (R378, R104): TILE_FAIL, a TILE_BAD entry. -/
def Dev.markBad (s : Dev) (p pos : Nat) : Dev :=
  let x := s.plain p
  let e := repairEntry 10 p pos 0 0
  let s1 := if x.bad.contains pos then s else s.setPlain p { x with bad := x.bad ++ [pos] }
  (if s1.units.soft.contains e then s1 else s1.soft e).sticky 0 (8 + p) (firstDet 0 pos p 0)

/-- One entry of the repair state applied (R380, R381); soft says that the entry comes from soft repair. One that an array has no room for marks
the tile failed (R104). -/
def Dev.applyRepair (soft : Bool) (s : Dev) (v : Nat) : Dev :=
  if s.overRepair v then s.markBad (bits v 4 3) (bits v 8 9) else
  let p := bits v 4 3
  let pos := bits v 8 9
  let sub := bits v 17 3
  let val := bits v 20 12
  let x := s.plain p
  match bits v 0 4 with
  | 0x1 =>
    if pos ≥ 272 || val ≥ 256 || x.bad.contains pos || x.servesOther val pos then s.fuseErr
    else s.setPlain p { x with place := x.place.put val pos
                               softMap := if soft then val :: x.softMap.erase val else x.softMap.erase val }
  | 0x2 =>
    let k := 4 * pos + sub
    let (_, cols, _) := x.arrays.get k (none, [], false)
    s.setPlain p { x with arrays := x.arrays.put k (some val, cols, soft) }
  | 0x3 =>
    let k := 4 * pos + sub
    let (row, cols, _) := x.arrays.get k (none, [], false)
    s.setPlain p { x with arrays := x.arrays.put k (row, insertCol val cols, soft) }
  | 0x4 =>
    let k := 4 * pos + sub
    let rows := x.srams.get k []
    s.setPlain p { x with srams := x.srams.put k (if rows.contains val then rows else rows ++ [val]) }
  | 0x5 => { s with units := (s.units.failEngine pos).1 }
  | 0x6 =>
    { s with units := { s.units with rimSpare := some p } }
  | 0x7 =>
    { s with pair := { s.pair with links := listMod s.pair.links pos fun l => { l with failLane := some val } } }
  | 0x8 => { s with units := { s.units with hbmRep := listMod s.units.hbmRep pos (· + 1) } }
  | 0xA => if x.bad.contains pos then s else s.setPlain p { x with bad := x.bad ++ [pos] }
  | _ => s

/-- One fuse record applied when the device leaves reset (R380, R381). -/
def Dev.applyRecord (rs : List (BitVec 64)) (s : Dev) (i : Nat) : Dev :=
  let v := (listGet rs i 0).toNat
  if v == 0 || revoked rs i then s
  else if !fuseValid v then s.fuseErr
  else s.applyRepair false v

/-- The repair state built when the device leaves reset: factory fuses, records, soft repair, in index order (R380). -/
def Dev.buildRepair (s : Dev) (f : Fuses) : Dev :=
  let s1 := f.factory.foldl (fun t v => t.applyRepair false v.toNat) s
  let s2 := (List.range 64).foldl (fun t i => t.applyRecord f.records i) s1
  s.units.soft.foldl (fun t v => t.applyRepair true v.toNat) s2

/-- The standby root PLL is selected at boot (R381). -/
def Fuses.pllStandby (f : Fuses) (soft : List (BitVec 64)) : Bool :=
  (f.factory.any fun v => bits v.toNat 0 4 == 9) ||
    ((List.range 64).any fun i =>
      let v := (listGet f.records i 0).toNat
      v != 0 && fuseValid v && !Machine.revoked f.records i && bits v 0 4 == 9) ||
    soft.any fun v => bits v.toNat 0 4 == 9

/-- Place logical tile t of plain p on the lowest free physical tile (R375), entered in soft repair. -/
def Dev.placeTile (s : Dev) (p t : Nat) : Option Dev :=
  let x := s.plain p
  x.freePos.head?.map fun pos =>
    (s.setPlain p { x with place := x.place.put t pos, softMap := t :: x.softMap.erase t, lost := x.lost.erase t }).soft
      (repairEntry 1 p pos 0 t)

/-- The plain serves its lost logical tiles again as free physical tiles appear (R377), at most n of them. -/
def Dev.serveLost (p : Nat) : Nat → Dev → Dev
  | 0, s => s
  | n + 1, s =>
    match (s.plain p).lost with
    | [] => s
    | t :: _ =>
      match s.placeTile p t with
      | some u => Dev.serveLost p n u
      | none => s

/-- A free physical tile appeared in plain p. -/
def Dev.freed (s : Dev) (p : Nat) : Dev := s.serveLost p (s.plain p).lost.length

/-- The repair of a physical tile that a test finds (R378): an array row, an array column or an SRAM row, by a free value
(the fault found is not the spec's to give; log entry 2). -/
def fixFound (p pos v : Nat) : BitVec 64 :=
  let val := if v % 3 = 0 then v / 12 % 17 else if v % 3 = 1 then v / 12 % 66 else v / 12 % 512
  repairEntry (2 + v % 3) p pos (v / 3 % 4) val

/-- A repair of a physical tile by a test (R378), where its array has room for it (R104). -/
def Dev.softFix (s : Dev) (p pos v : Nat) : Dev :=
  let e := fixFound p pos v
  if s.overRepair e.toNat then s.markBad p pos else (s.applyRepair true e.toNat).soft e

/-- The outcome of the tests of R378 on a withdrawn physical tile: free again, repaired and free, or failed. A free value
decides (log entry 2). DESIGN CHOICE, log entry 33. -/
def Dev.testWithdrawn (s : Dev) (p pos : Nat) : Dev :=
  let (v, s1) := s.draw
  match v % 3 with
  | 0 => s1.freed p
  | 1 => (s1.softFix p pos (v / 3)).freed p
  | _ => s1.markBad p pos

/-- A logical tile whose physical tile cannot serve: replaced (R375), else lost (R377), with SPARE_OUT. The answer says
whether a free physical tile was found. -/
def Dev.replaceTile (s : Dev) (p t : Nat) : Dev × Bool :=
  match s.placeTile p t with
  | some u => (u, true)
  | none =>
    let x := s.plain p
    ((s.setPlain p { x with lost := if x.lost.contains t then x.lost else x.lost ++ [t] }).sticky 0 (16 + p)
      (firstDet 0 (x.posOf t) p 0), false)

/-- Physical engine n fails (R155, R371): ENG_FAULT, a spare takes its role and the failure enters soft repair, or
ENG_SPARE_OUT. The answer says whether the role is still served. -/
def Dev.loseEngine (s : Dev) (n : Nat) : Dev × Bool :=
  let s1 := s.sticky 1 0 (firstDet n 0 0 0)
  let (u, ok) := s1.units.failEngine n
  let s2 := ({ s1 with units := u }).soft (repairEntry 5 0 n 0 0)
  if ok then (s2, true) else (s2.sticky 1 1 (firstDet n 0 0 0), false)

/-- A rim engine fails its boot test (R374, R384): the spare takes over, or the plain is left without. Rim engine 8 is the spare. -/
def Dev.bootRim (s : Dev) (r : Nat) : Dev :=
  let s1 := s.sticky 1 2 (firstDet r 0 (if r < 8 then r else 0) 0)
  let without (t : Dev) (p : Nat) : Dev := (t.setPlain p { t.plain p with rimDown := true }).sticky 1 3 (firstDet r 0 p 0)
  if r < 8 then
    if s1.units.rimSpare.isNone && !s1.units.rimSpareFailed then ({ s1 with units := { s1.units with rimSpare := some r } }).soft (repairEntry 6 r 0 0 0)
    else if s1.units.rimSpare == some r then s1 else without s1 r
  else
    let s2 := { s1 with units := { s1.units with rimSpare := none, rimSpareFailed := true } }
    match s1.units.rimSpare with
    | some p => without s2 p
    | none => s2

/-- A lane of pass link l fails its boot test (R346, R371, R384): the link's spare takes its traffic, or the link is lost. -/
def Dev.bootLane (s : Dev) (l lane : Nat) : Dev :=
  let set (f : PassLink → PassLink) : Dev := { s with pair := { s.pair with links := listMod s.pair.links l f } }
  match (listGet s.pair.links l PassLink.reset).failLane with
  | some n => if n == lane then s else (set fun x => { x with dead := true }).sticky 1 (10 + l) (firstDet l lane 0 0)
  | none => ((set fun x => { x with failLane := some lane }).soft (repairEntry 7 0 l 0 lane)).sticky 1 (8 + l) (firstDet l lane 0 0)

/-- A failed lane of an HBM channel is repaired (R374, R384). -/
def Dev.repairHbmLane (s : Dev) (stack channel lane : Nat) : Dev :=
  let s1 := (s.sticky 2 (2 + stack) (firstDet stack lane 0 0)).soft (repairEntry 8 0 stack channel lane)
  { s1 with units := { s1.units with hbmRep := listMod s1.units.hbmRep stack (· + 1) } }

/-- Units that failed their boot test are marked, and their roles move (R384, R412). -/
def Dev.bootTests (s : Dev) (b : BootTests) : Dev :=
  let s1 := b.tiles.foldl (fun t e =>
    let u := t.markBad e.1 e.2
    match (u.plain e.1).tileAt e.2 with
    | some l => (u.replaceTile e.1 l).1
    | none => u) s
  let s2 := b.engines.foldl (fun t n => (t.loseEngine n.val).1) s1
  let s3 := b.rims.foldl (fun t r => t.bootRim r.val) s2
  let s4 := b.lanes.foldl (fun t e => t.bootLane e.1.val e.2.val) s3
  b.hbmLanes.foldl (fun t e => t.repairHbmLane e.1.val e.2.1.val e.2.2.val) s4

/-! Withdrawal for test (R385, R386) -/

/-- DBG_TSTSTAT.STATE (R386). -/
def Dev.testState (s : Dev) (st : Nat) : Dev := s.setRegN (DBG + 0x108) st

/-- The test is over with a STATE. -/
def Dev.testOver (s : Dev) (st : Nat) : Dev := { s with units := { s.units with test := none } }.testState st

/-- The test runs on its withdrawn unit. -/
def Dev.testRuns (s : Dev) (t : Test) : Dev := { s with units := { s.units with test := some { t with waiting := false } } }.testState 2

/-- A tile is under test: it counts as reserved, and its plain wakes (R385, R407). -/
def Dev.testTile (s : Dev) (t : Test) : Dev :=
  (((s.setPlain t.plain { s.plain t.plain with testPos := some t.pos }).wakePlain t.plain).testRuns t).refreshIdle

/-- Withdraw a tile that serves a reserved logical tile: the logical tile moves to a free physical tile, or the test is refused. -/
def Dev.withdrawTile (s : Dev) (t : Test) : Dev :=
  match (s.plain t.plain).tileAt t.pos with
  | none => s.testTile t
  | some l =>
    match s.placeTile t.plain l with
    | some u => u.testTile t
    | none => s.testOver 6

/-- The moment at which seat tiles given depart idle: a withdrawal that waits for it is made (R376). -/
def Dev.withdrawFor (s : Dev) (tiles : List Nat) : Dev :=
  match s.units.test with
  | some t =>
    match (s.plain t.plain).tileAt t.pos with
    | some l => if t.waiting && decide (t.cls < 2) && tiles.contains (t.plain * 256 + l) then s.withdrawTile t else s
    | none => s
  | none => s

/-- Withdraw engine n: its logical role passes to a spare, or the test is refused (R385). -/
def Dev.withdrawEngine (s : Dev) (t : Test) : Dev :=
  let (es, ok) := moveRole s.units.engines t.inst
  if ok then ({ s with units := { s.units with engines := listMod es t.inst fun e => { e with withdrawn := true } } }).testRuns t
  else s.testOver 6

/-- A unit boundary of engine i: a withdrawal that waits for it is made (R374, R385). -/
def Dev.engineIdle (s : Dev) (i : Nat) : Dev :=
  match s.units.test with
  | some t => if t.waiting && t.cls == 2 && t.inst == i then s.withdrawEngine t else s
  | none => s

/-- Every logical tile left on a failed position by the repair state is replaced (R375). -/
def Dev.settlePlaces (s : Dev) : Dev :=
  (List.range 8).foldl (fun t p =>
    let x := t.plain p
    ((List.range 256).filter fun l => x.bad.contains (x.posOf l) && !x.lost.contains l).foldl
      (fun u l => (u.replaceTile p l).1) t) s

end Sys2Proof.Machine
end

