-- ==== Sys2Proof/Machine/Entropy.lean ====
section
/-!
DEFINITION. Entropy coding (R159 to R171): elements and their order, residuals, the rANS encoder and decoder.
-/
namespace Sys2Proof.Machine

/-- A position of a grid in a unit: row, column, and whether the sum of its coordinates is even (R159). -/
structure Pos where
  row    : Nat
  col    : Nat
  anchor : Bool
deriving DecidableEq, Repr

/-- An element (R160): hyper or latent, channel, position, and segment (0 the hyper segment, s + 1 step s). -/
structure Elem where
  hyper : Bool
  ch    : Nat
  row   : Nat
  col   : Nat
  seg   : Nat
deriving DecidableEq, Repr

/-- The elements of a unit in element order (R160). -/
def elemsOf (hypCh latCh : Nat) (hyp lat : List Pos) : List Elem :=
  (hyp.flatMap fun p => (List.range hypCh).map fun c => ⟨true, c, p.row, p.col, 0⟩) ++
    (List.range 8).flatMap fun s =>
      (lat.filter fun p => p.anchor == (s % 2 == 0)).flatMap fun p =>
        (rangeFrom (s / 2 * (latCh / 4)) (latCh / 4)).map fun c => ⟨false, c, p.row, p.col, s + 1⟩

/-- form_residual (R165): the residual, whether it escapes, whether it was clamped for a spent escape count. -/
def formResidual (y : Nat) (mu : Int) (f escUsed escMax : Nat) : Int × Bool × Bool :=
  let v := Fmt.fp32.decode y
  let r : Int :=
    if v.isNan then 0
    else
      let yd := (Fmt.fp64.ofVal .rne false v).1
      let md := (Fmt.fp64.round false (decide (mu < 0)) mu.natAbs (-(f : Int))).1
      match Fmt.fp64.decode (Fmt.fp64.sub yd md).1 with
      | .nan _ => 0
      | .inf s => if s then -32768 else 32767
      | .fin s m e => min (max (roundInt .rne s m e).1 (-32768)) 32767
  if decide (-127 ≤ r) && decide (r ≤ 127) then (r, false, false)
  else if escUsed < escMax then (r, true, false)
  else (min (max r (-127)) 127, false, true)

/-- The decoded code of an element (R166). -/
def symbolCode (r mu : Int) (f : Nat) : Int := narrow (r * 2 ^ f + mu) 16 false

/-- Start and end of symbol s of a table. -/
def cdfLo (t : List Nat) (s : Nat) : Nat := listGet t s 65536
def cdfFreq (t : List Nat) (s : Nat) : Nat := cdfLo t (s + 1) - cdfLo t s

/-- enc_put (R168): the new state, with a word pushed where it renormalises. -/
def encPut (x c f : Nat) (ws : List Nat) : Nat × List Nat :=
  let y := if x ≥ f * 2 ^ 16 then x / 2 ^ 16 else x
  let vs := if x ≥ f * 2 ^ 16 then x % 2 ^ 16 :: ws else ws
  (y / f * 2 ^ 16 + y % f + c, vs)

/-- One element put on its lane (R167, R168): states, and the stack with its top first. -/
def encElem (st : List Nat × List Nat) (i : Nat) (c : Coded) : List Nat × List Nat :=
  let l := i % 32
  let x := listGet st.1 l 65536
  let s := if c.esc then 0 else (c.r + 128).toNat
  let (x2, w2) :=
    if c.esc then
      let e := toCode 16 c.r
      let (a, wa) := encPut x (e / 256 % 256 * 256) 256 st.2
      encPut a (e % 256 * 256) 256 wa
    else (x, st.2)
  let (x3, w3) := encPut x2 (cdfLo c.table s) (cdfFreq c.table s) w2
  (listSet st.1 l x3, w3)

/-- Elements from index i on, the last first (R168). -/
def encFrom (i : Nat) : List Coded → List Nat × List Nat
  | [] => (List.replicate 32 65536, [])
  | c :: cs => encElem (encFrom (i + 1) cs) i c

/-- encode_unit and the bytes of the coded slice (R168, R169). -/
def encodeUnit (cs : List Coded) : Bytes :=
  let (x, w) := encFrom 0 cs
  x.flatMap (leBytes 4) ++ w.flatMap (leBytes 2)

/-- Escapes of a coded unit. -/
def escapes (cs : List Coded) : Nat := (cs.filter (·.esc)).length

/-- 16-bit words of bytes. -/
def words16 : Bytes → List Nat
  | a :: b :: rest => (a.toNat + 256 * b.toNat) :: words16 rest
  | _ => []

/-- decode_begin (R170). -/
def decodeBegin (cs : Bytes) (N escMax : Nat) : RansDec :=
  let len := cs.length
  if len < 128 || len % 2 == 1 || decide (len > 128 + 2 * (N + 2 * escMax)) then
    { x := [], rest := [], W := 0, next := 0, bad := true, excess := false, esc := 0 }
  else
    let x := (List.range 32).map fun l => u32At cs (4 * l)
    { x := x, rest := words16 (cs.drop 128), W := (len - 128) / 2, next := 0, bad := x.any fun v => decide (v < 2 ^ 16)
      excess := false, esc := 0 }

/-- read_word (R170). -/
def RansDec.word (d : RansDec) : Nat × RansDec :=
  match d.rest with
  | [] => (0, { d with excess := true })
  | w :: ws => (w, { d with rest := ws, next := d.next + 1 })

/-- The largest s from 0 to 255 with cdf[s] ≤ slot. -/
def cdfFind (t : List Nat) (slot : Nat) : Nat := ((t.take 256).takeWhile fun c => decide (c ≤ slot)).length - 1

/-- dec_get on lane l (R170). -/
def RansDec.get (d : RansDec) (l : Nat) (t : List Nat) : Nat × RansDec :=
  let x := listGet d.x l 65536
  let slot := x % 2 ^ 16
  let s := cdfFind t slot
  let x1 := cdfFreq t s * (x / 2 ^ 16) + slot - cdfLo t s
  if x1 < 2 ^ 16 then
    let (w, e) := d.word
    (s, { e with x := listSet e.x l (x1 * 2 ^ 16 + w) })
  else (s, { d with x := listSet d.x l x1 })

/-- One element of decode_segment (R170): the residual and the state. -/
def RansDec.elem (d : RansDec) (i : Nat) (t : List Nat) (escMax : Nat) : Int × RansDec :=
  if d.bad then (0, d)
  else
    let l := i % 32
    let (s, d1) := d.get l t
    let (r, d2) : Int × RansDec :=
      if s == 0 then
        let (lb, a) := d1.get l uniformTable
        let (hb, b) := a.get l uniformTable
        (sext 16 (hb * 256 + lb), { b with esc := b.esc + 1, bad := decide (b.esc + 1 > escMax) })
      else ((s : Int) - 128, d1)
    let bad := d2.bad || d2.excess
    (if bad then 0 else r, { d2 with bad := bad })

/-- decode_segment (R170) on elements from index i with their tables: each residual, and whether it escaped. -/
def RansDec.segment (escMax : Nat) : RansDec → Nat → List (List Nat) → List (Int × Bool) × RansDec
  | d, _, [] => ([], d)
  | d, i, t :: ts =>
    let (r, e) := d.elem i t escMax
    let (rs, g) := RansDec.segment escMax e (i + 1) ts
    ((r, decide (d.esc < e.esc)) :: rs, g)

/-- decode_end (R170): corrupt. -/
def RansDec.corrupt (d : RansDec) : Bool := d.bad || d.x.any (fun v => v != 2 ^ 16) || d.next != d.W

/-- An element's entry in a slice buffer (R172): symbol index and scale code. -/
def Coded.entry (c : Coded) : Bytes := leBytes 2 ((if c.esc then 0 else (c.r + 128).toNat % 256) + 256 * c.scale)

/-- The bytes of a slice buffer that a unit of n elements occupies (R172), as offset and bytes: the table area, the element entries, the escape list
of escMax places, and the coded slice at the top of the word area. -/
def sliceBuffer (tables : Bytes) (n : Nat) (es : List Coded) (escMax : Nat) (coded : Bytes) : List (Nat × Bytes) :=
  [(0, tables), (131072, es.flatMap Coded.entry),
   (131072 + 2 * n, ((es.filter (·.esc)).take escMax).flatMap fun c => leBytes 2 (toCode 16 c.r)), (1048576 - coded.length, coded)]

/-- The bound of R172. -/
def unitFits (n escMax : Nat) : Bool := decide (4 * n + 6 * escMax ≤ 917376)

end Sys2Proof.Machine
end

