-- ==== Sys2Proof/Machine/Crypto.lean ====
section
/-!
DEFINITION. Check values and digests: CRC-32C (R179), the CRC-32 and Adler-32 of gzip and zlib (R312), XXH64 of
Zstandard (R312), SHA-256 (R133, R332), SHA-384 and ECDSA over P-384 (R146, R413; FIPS 180-4 and FIPS 186-5).
-/
namespace Sys2Proof.Machine

/-- One bit of a reflected 32-bit CRC with the reversed polynomial. -/
def crcBit (poly c : Nat) : Nat := if c % 2 == 1 then (c / 2) ^^^ poly else c / 2

/-- One byte of a reflected 32-bit CRC. -/
def crcByte (poly c : Nat) (b : Byte) : Nat :=
  (List.range 8).foldl (fun x _ => crcBit poly x) (c ^^^ b.toNat)

/-- A reflected 32-bit CRC with initial value and final exclusive OR of all ones. -/
def crc32Of (poly : Nat) (m : Bytes) : Nat := (m.foldl (crcByte poly) 0xFFFFFFFF) ^^^ 0xFFFFFFFF

/-- CRC-32C (R179). -/
def crc32c (m : Bytes) : Nat := crc32Of 0x82F63B78 m

/-- The CRC-32 of gzip (RFC 1952). -/
def crc32 (m : Bytes) : Nat := crc32Of 0xEDB88320 m

/-- Adler-32 of zlib (RFC 1950). -/
def adler32 (m : Bytes) : Nat :=
  let (a, b) := m.foldl (fun (x : Nat × Nat) c =>
    let a := (x.1 + c.toNat) % 65521
    (a, (x.2 + a) % 65521)) (1, 0)
  b * 65536 + a

/-- Rotate a w-bit number right by n. -/
def rotr (w x n : Nat) : Nat := (x / 2 ^ n ||| (x * 2 ^ (w - n))) % 2 ^ w

/-- Rotate a w-bit number left by n. -/
def rotl (w x n : Nat) : Nat := rotr w x (w - n)

/-- Words of w bits from numerals that hold four each, the first in the highest bits. -/
def fours (w : Nat) (l : List Nat) : List Nat := l.flatMap fun x => (List.range 4).map fun i => x / 2 ^ (w * (3 - i)) % 2 ^ w

def cubeRoots0 : List Nat :=
  [0x428A2F98D728AE227137449123EF65CDB5C0FBCFEC4D3B2FE9B5DBA58189DBBC,
   0x3956C25BF348B53859F111F1B605D019923F82A4AF194F9BAB1C5ED5DA6D8118,
   0xD807AA98A303024212835B0145706FBE243185BE4EE4B28C550C7DC3D5FFB4E2,
   0x72BE5D74F27B896F80DEB1FE3B1696B19BDC06A725C71235C19BF174CF692694]

def cubeRoots1 : List Nat :=
  [0xE49B69C19EF14AD2EFBE4786384F25E30FC19DC68B8CD5B5240CA1CC77AC9C65,
   0x2DE92C6F592B02754A7484AA6EA6E4835CB0A9DCBD41FBD476F988DA831153B5,
   0x983E5152EE66DFABA831C66D2DB43210B00327C898FB213FBF597FC7BEEF0EE4,
   0xC6E00BF33DA88FC2D5A79147930AA72506CA6351E003826F142929670A0E6E70]

def cubeRoots2 : List Nat :=
  [0x27B70A8546D22FFC2E1B21385C26C9264D2C6DFC5AC42AED53380D139D95B3DF,
   0x650A73548BAF63DE766A0ABB3C77B2A881C2C92E47EDAEE692722C851482353B,
   0xA2BFE8A14CF10364A81A664BBC423001C24B8B70D0F89791C76C51A30654BE30,
   0xD192E819D6EF5218D69906245565A910F40E35855771202A106AA07032BBD1B8]

def cubeRoots3 : List Nat :=
  [0x19A4C116B8D2D0C81E376C085141AB532748774CDF8EEB9934B0BCB5E19B48A8,
   0x391C0CB3C5C95A634ED8AA4AE3418ACB5B9CCA4F7763E373682E6FF3D6B2B8A3,
   0x748F82EE5DEFB2FC78A5636F43172F6084C87814A1F0AB728CC702081A6439EC,
   0x90BEFFFA23631E28A4506CEBDE82BDE9BEF9A3F7B2C67915C67178F2E372532B]

def cubeRoots4 : List Nat :=
  [0xCA273ECEEA26619CD186B8C721C0C207EADA7DD6CDE0EB1EF57D4F7FEE6ED178,
   0x06F067AA72176FBA0A637DC5A2C898A6113F9804BEF90DAE1B710B35131C471B,
   0x28DB77F523047D8432CAAB7B40C724933C9EBE0A15C9BEBC431D67C49C100D4C,
   0x4CC5D4BECB3E42B6597F299CFC657E2A5FCB6FAB3AD6FAEC6C44198C4A475817]

/-- First 64 bits of the fractional parts of the cube roots of the first 80 primes (FIPS 180-4): the round constants of SHA-384. -/
def sha384K : List Nat := fours 64 (cubeRoots0 ++ cubeRoots1 ++ cubeRoots2 ++ cubeRoots3 ++ cubeRoots4)

/-- The round constants of SHA-256 are the first 32 bits of the first 64 of them. -/
def sha256K : List Nat := (sha384K.take 64).map (· / 2 ^ 32)

/-- Initial hash values: the fractional parts of the square roots of primes 1 to 8, and of primes 9 to 16. -/
def sha256H : List Nat := fours 32 [0x6A09E667BB67AE853C6EF372A54FF53A, 0x510E527F9B05688C1F83D9AB5BE0CD19]
def sha384H : List Nat :=
  fours 64 [0xCBBB9D5DC1059ED8629A292A367CD5079159015A3070DD17152FECD8F70E5939,
            0x67332667FFC00B318EB44A8768581511DB0C2E0D64F98FA747B5481DBEFA4FA4]

/-- What differs between SHA-256 and SHA-384: word width, rounds' constants, rotation counts, initial value. -/
structure ShaCfg where
  w    : Nat
  k    : List Nat
  h    : List Nat
  sig0 : Nat × Nat × Nat
  sig1 : Nat × Nat × Nat
  sum0 : Nat × Nat × Nat
  sum1 : Nat × Nat × Nat
  out  : Nat
deriving DecidableEq, Repr

def sha256Cfg : ShaCfg := ⟨32, sha256K, sha256H, (7, 18, 3), (17, 19, 10), (2, 13, 22), (6, 11, 25), 32⟩
def sha384Cfg : ShaCfg := ⟨64, sha384K, sha384H, (1, 8, 7), (19, 61, 6), (28, 34, 39), (14, 18, 41), 48⟩

/-- A small sigma: two rotations and a shift. -/
def shaSig (w : Nat) (r : Nat × Nat × Nat) (x : Nat) : Nat := rotr w x r.1 ^^^ rotr w x r.2.1 ^^^ (x / 2 ^ r.2.2)

/-- A capital sigma: three rotations. -/
def shaSum (w : Nat) (r : Nat × Nat × Nat) (x : Nat) : Nat := rotr w x r.1 ^^^ rotr w x r.2.1 ^^^ rotr w x r.2.2

/-- The padded message (FIPS 180-4). -/
def shaPad (w : Nat) (m : Bytes) : Bytes :=
  let blk := w * 2
  let lenB := w / 4
  let n := m.length + 1 + lenB
  m ++ [0x80] ++ List.replicate ((blk - n % blk) % blk) 0 ++ beBytes lenB (8 * m.length)

/-- Words still to come of a block's schedule, from the sixteen before them, oldest first. -/
def shaExpand (c : ShaCfg) : Nat → List Nat → List Nat
  | 0, _ => []
  | n + 1, last =>
    let w (i : Nat) : Nat := listGet last i 0
    let next := (w 0 + shaSig c.w c.sig0 (w 1) + w 9 + shaSig c.w c.sig1 (w 14)) % 2 ^ c.w
    next :: shaExpand c n (last.drop 1 ++ [next])

/-- One round: the working variables, with a round constant plus a schedule word. -/
def shaRound (c : ShaCfg) (v : List Nat) (kw : Nat × Nat) : List Nat :=
  let at_ (i : Nat) : Nat := listGet v i 0
  let pick := at_ 6 ^^^ (at_ 4 &&& (at_ 5 ^^^ at_ 6))
  let most := (at_ 0 &&& at_ 1) ||| (at_ 2 &&& (at_ 0 ||| at_ 1))
  let low := at_ 7 + shaSum c.w c.sum1 (at_ 4) + pick + (kw.1 + kw.2)
  let top := (low + shaSum c.w c.sum0 (at_ 0) + most) % 2 ^ c.w
  top :: v.take 3 ++ ((at_ 3 + low) % 2 ^ c.w) :: (v.drop 4).take 3

/-- One block. -/
def shaBlock (c : ShaCfg) (h : List Nat) (blk : Bytes) : List Nat :=
  let first := (chunks (c.w / 8) 16 blk).map beNat
  let words := first ++ shaExpand c (c.k.length - 16) first
  List.zipWith (fun x y => (x + y) % 2 ^ c.w) h ((c.k.zip words).foldl (shaRound c) h)

/-- The digest of a message. -/
def sha (c : ShaCfg) (m : Bytes) : Bytes :=
  let p := shaPad c.w m
  let h := (chunks (c.w * 2) (p.length / (c.w * 2)) p).foldl (shaBlock c) c.h
  (h.flatMap fun x => beBytes (c.w / 8) x).take c.out

def sha256 (m : Bytes) : Bytes := sha sha256Cfg m
def sha384 (m : Bytes) : Bytes := sha sha384Cfg m

/-! XXH64 -/

def xxP1 : Nat := 0x9E3779B185EBCA87
def xxP2 : Nat := 0xC2B2AE3D27D4EB4F
def xxP3 : Nat := 0x165667B19E3779F9
def xxP4 : Nat := 0x85EBCA77C2B2AE63
def xxP5 : Nat := 0x27D4EB2F165667C5

def m64 (x : Nat) : Nat := x % 2 ^ 64
def xxRound (acc x : Nat) : Nat := m64 (rotl 64 (m64 (acc + x * xxP2)) 31 * xxP1)
def xxMerge (h v : Nat) : Nat := m64 ((h ^^^ xxRound 0 v) * xxP1 + xxP4)

/-- The four accumulators over 32-byte stripes. -/
def xxStripes : Nat → Bytes → List Nat → List Nat
  | 0, _, v => v
  | n + 1, b, v =>
    let v' := (List.range 4).map fun i => xxRound (listGet v i 0) (u64At b (8 * i))
    xxStripes n (b.drop 32) v'

def xxTail8 : Nat → Bytes → Nat → Nat
  | 0, _, h => h
  | n + 1, b, h => xxTail8 n (b.drop 8) (m64 (rotl 64 (h ^^^ xxRound 0 (u64At b 0)) 27 * xxP1 + xxP4))

def xxTail1 (b : Bytes) (h : Nat) : Nat :=
  b.foldl (fun a c => m64 (rotl 64 (a ^^^ m64 (c.toNat * xxP5)) 11 * xxP1)) h

/-- XXH64 with seed 0. -/
def xxh64 (m : Bytes) : Nat :=
  let n := m.length
  let k := n / 32
  let h0 :=
    if n ≥ 32 then
      let v := xxStripes k m [m64 (xxP1 + xxP2), xxP2, 0, m64 (2 ^ 64 - xxP1)]
      let s := m64 (rotl 64 (listGet v 0 0) 1 + rotl 64 (listGet v 1 0) 7 + rotl 64 (listGet v 2 0) 12 + rotl 64 (listGet v 3 0) 18)
      v.foldl xxMerge s
    else xxP5
  let rest := m.drop (32 * k)
  let h1 := xxTail8 (rest.length / 8) rest (m64 (h0 + n))
  let r2 := rest.drop (rest.length / 8 * 8)
  let (h2, r3) :=
    if r2.length ≥ 4 then (m64 (rotl 64 (h1 ^^^ m64 (u32At r2 0 * xxP1)) 23 * xxP2 + xxP3), r2.drop 4) else (h1, r2)
  let h3 := xxTail1 r3 h2
  let h4 := m64 ((h3 ^^^ h3 / 2 ^ 33) * xxP2)
  let h5 := m64 ((h4 ^^^ h4 / 2 ^ 29) * xxP3)
  h5 ^^^ h5 / 2 ^ 32

/-! P-384 -/

/-- The field prime. -/
def p384p : Nat := 2 ^ 384 - 2 ^ 128 - 2 ^ 96 + 2 ^ 32 - 1
/-- The order of the base point. -/
def p384n : Nat := 0xffffffffffffffffffffffffffffffffffffffffffffffffc7634d81f4372ddf581a0db248b0a77aecec196accc52973
/-- Coefficient b of the curve. -/
def p384b : Nat := 0xb3312fa7e23ee7e4988e056be3f82d19181d9c6efe8141120314088f5013875ac656398d8a2ed19d2a85c8edd3ec2aef
/-- The base point. -/
def p384gx : Nat := 0xaa87ca22be8b05378eb1c71ef320ad746e1d3b628ba79b9859f741e082542a385502f25dbf55296c3a545e3872760ab7
def p384gy : Nat := 0x3617de4a96262c6f5d9e98bf9292dc29f8f41dbd289a147ce9da3113b5f0b8c00a60b1ce1d7e819d7a431d7c90ea0e5f

/-- b ^ e modulo m by the e's low `n` bits. -/
def powMod (m : Nat) : Nat → Nat → Nat → Nat
  | 0, _, _ => 1
  | n + 1, b, e =>
    let r := powMod m n (b * b % m) (e / 2)
    if e % 2 == 1 then r * b % m else r

/-- Inverse modulo a 384-bit prime. -/
def invMod (m x : Nat) : Nat := powMod m 384 (x % m) (m - 2)

/-- A point holds on the curve y² = x³ - 3x + b, coordinates below the prime (R146). -/
def onCurve (x y : Nat) : Bool :=
  decide (x < p384p) && decide (y < p384p) &&
    y * y % p384p == (x * x % p384p * x + (p384p - 3) * x + p384b) % p384p

/-- Points, none at infinity. -/
abbrev Pt := Option (Nat × Nat)

/-- Sum of two points. -/
def ptAdd (a b : Pt) : Pt :=
  match a, b with
  | none, q => q
  | p, none => p
  | some (x1, y1), some (x2, y2) =>
    if x1 == x2 && (y1 + y2) % p384p == 0 then none
    else
      let l :=
        if x1 == x2 then (3 * x1 * x1 + (p384p - 3)) % p384p * invMod p384p (2 * y1) % p384p
        else (y2 + (p384p - y1)) % p384p * invMod p384p (x2 + (p384p - x1)) % p384p
      let x3 := (l * l + 2 * p384p - x1 - x2) % p384p
      some (x3, (l * ((x1 + (p384p - x3)) % p384p) + (p384p - y1)) % p384p)

/-- k times a point by k's low `n` bits. -/
def ptMul : Nat → Nat → Pt → Pt
  | 0, _, _ => none
  | n + 1, k, q =>
    let r := ptMul n (k / 2) (ptAdd q q)
    if k % 2 == 1 then ptAdd r q else r

/-- ECDSA over P-384 with SHA-384 (R146, R413): key, signature and message. -/
def ecdsaOk (qx qy r s : Nat) (m : Bytes) : Bool :=
  if !(onCurve qx qy) || r == 0 || s == 0 || r ≥ p384n || s ≥ p384n then false
  else
    let e := beNat (sha384 m)
    let w := invMod p384n s
    match ptAdd (ptMul 384 (e * w % p384n) (some (p384gx, p384gy))) (ptMul 384 (r * w % p384n) (some (qx, qy))) with
    | none => false
    | some (x, _) => x % p384n == r

/-- KEY_ID (R146, R413): the first 8 bytes of the SHA-256 of Qx followed by Qy. -/
def keyId (key : Bytes) : Bytes := (sha256 key).take 8

end Sys2Proof.Machine
end

