-- ==== Sys2Proof/Machine/Inflate.lean ====
section
/-!
DEFINITION. DEFLATE, zlib and gzip (RFC 1951, 1950, 1952) as R311 to R316 accept and write them. Errors are the status
codes of R297.
-/
namespace Sys2Proof.Machine

def stIllegal : Nat := 0x20
def stTooFar : Nat := 0x21
def stOverrun : Nat := 0x22
def stCheck : Nat := 0x23
def stFull : Nat := 0x24
def stTruncated : Nat := 0x25

/-- A result or a status. -/
abbrev LL (α : Type) := Except Nat α

/-- The unread input: bytes, and the bits of the first that are read. -/
structure Cur where
  bs  : Bytes
  off : Nat
deriving DecidableEq, Repr

def Cur.bit (c : Cur) : LL (Nat × Cur) :=
  match c.bs with
  | [] => .error stTruncated
  | b :: rest =>
    let v := b.toNat / 2 ^ c.off % 2
    if c.off == 7 then .ok (v, ⟨rest, 0⟩) else .ok (v, ⟨b :: rest, c.off + 1⟩)

/-- n bits, the first the lowest. -/
def Cur.take : Nat → Cur → LL (Nat × Cur)
  | 0, c => .ok (0, c)
  | n + 1, c => do
    let (b, c1) ← c.bit
    let (v, c2) ← Cur.take n c1
    .ok (b + 2 * v, c2)

/-- Skip to the next byte boundary. -/
def Cur.align (c : Cur) : Cur := if c.off == 0 then c else ⟨c.bs.drop 1, 0⟩

/-- n bytes from a byte boundary. -/
def Cur.bytes (c : Cur) (n : Nat) : LL (Bytes × Cur) :=
  if c.bs.length < n then .error stTruncated else .ok (c.bs.take n, ⟨c.bs.drop n, 0⟩)

/-- A canonical Huffman code: codes of each length from 1 up, and symbols by length then number. -/
structure Huff where
  counts : List Nat
  syms   : List Nat
deriving DecidableEq, Repr

def huffOf (lens : List Nat) : Huff :=
  let ix := (List.range lens.length).zip lens
  { counts := (List.range 15).map fun k => (ix.filter fun e => e.2 == k + 1).length
    syms := (List.range 15).flatMap fun k => (ix.filter fun e => e.2 == k + 1).map (·.1) }

/-- Codes left over after the lengths given; none where over-subscribed. -/
def huffLeft : List Nat → Nat → Option Nat
  | [], left => some left
  | c :: cs, left => if c ≤ 2 * left then huffLeft cs (2 * left - c) else none

/-- The code is complete. -/
def Huff.complete (h : Huff) : Bool := huffLeft h.counts 1 == some 0

/-- A distance code: complete, or one code of length 1, or none at all (R316). -/
def Huff.distOk (h : Huff) : Bool := h.complete || h.syms.isEmpty || (h.syms.length == 1 && h.counts.headD 0 == 1)

/-- Decode one symbol; a code with no symbol is illegal. -/
def huffGet (syms : List Nat) : List Nat → Nat → Nat → Nat → Cur → LL (Nat × Cur)
  | [], _, _, _, _ => .error stIllegal
  | c :: cs, code, first, idx, cur =>
    if (c :: cs).all (· == 0) then .error stIllegal
    else do
      let (b, cur1) ← cur.bit
      let code1 := code + b
      if code1 < first + c then .ok (listGet syms (idx + (code1 - first)) 0, cur1)
      else huffGet syms cs (2 * code1) (2 * (first + c)) (idx + c) cur1

def Huff.get (h : Huff) (c : Cur) : LL (Nat × Cur) := huffGet h.syms h.counts 0 0 0 c

/-- The status of a fault of host memory (R297, R318). -/
def stHistory : Nat := 0x41

/-- Output so far, newest first, its length, where the current stream began, the capacity, and the ranges of the output (first byte, length) that
cannot be read back from DST (R315, R301). -/
structure Sink where
  rev   : Bytes
  n     : Nat
  base  : Nat
  cap   : Nat
  holes : List (Nat × Nat)
deriving DecidableEq, Repr

/-- Output of the last 1 MiB is in the engine's buffer; older history is read back from DST (R315), and the read of byte n - dist fails. -/
def Sink.lost (o : Sink) (dist : Nat) : Bool :=
  decide (dist > 2 ^ 20) && o.holes.any fun h => decide (h.1 ≤ o.n - dist) && decide (o.n - dist < h.1 + h.2)

def Sink.put (o : Sink) (b : Byte) : LL Sink :=
  if o.n < o.cap then .ok { o with rev := b :: o.rev, n := o.n + 1 } else .error stFull

def Sink.putAll : Bytes → Sink → LL Sink
  | [], o => .ok o
  | b :: bs, o => do let o1 ← o.put b; Sink.putAll bs o1

/-- Copy len bytes from dist back. -/
def Sink.copy (dist : Nat) : Nat → Sink → LL Sink
  | 0, o => .ok o
  | n + 1, o =>
    if o.lost dist then .error stHistory
    else do let o1 ← o.put (listGet o.rev (dist - 1) 0); Sink.copy dist n o1

/-- The bytes of the current stream. -/
def Sink.stream (o : Sink) : Bytes := (o.rev.take (o.n - o.base)).reverse

/-- Base and extra bits of length symbol 257 + k. -/
def lenBase : List (Nat × Nat) :=
  [(3, 0), (4, 0), (5, 0), (6, 0), (7, 0), (8, 0), (9, 0), (10, 0), (11, 1), (13, 1), (15, 1), (17, 1), (19, 2), (23, 2),
   (27, 2), (31, 2), (35, 3), (43, 3), (51, 3), (59, 3), (67, 4), (83, 4), (99, 4), (115, 4), (131, 5), (163, 5), (195, 5),
   (227, 5), (258, 0)]

/-- Base and extra bits of distance symbol k. -/
def distBase (k : Nat) : Nat × Nat := if k < 4 then (k + 1, 0) else ((2 + k % 2) * 2 ^ (k / 2 - 1) + 1, k / 2 - 1)

/-- The symbols of one block (R316): at most n of them. -/
def inflateSyms (lit dist : Huff) : Nat → Cur → Sink → LL (Cur × Sink)
  | 0, _, _ => .error stTruncated
  | n + 1, c, o => do
    let (s, c1) ← lit.get c
    if s < 256 then do
      let o1 ← o.put (BitVec.ofNat 8 s)
      inflateSyms lit dist n c1 o1
    else if s == 256 then .ok (c1, o)
    else if s > 285 then .error stIllegal
    else if dist.syms.isEmpty then .error stIllegal
    else do
      let (lb, le) := listGet lenBase (s - 257) (3, 0)
      let (lx, c2) ← Cur.take le c1
      let (ds, c3) ← dist.get c2
      if ds > 29 then .error stIllegal
      else do
        let (db, de) := distBase ds
        let (dx, c4) ← Cur.take de c3
        if db + dx > o.n - o.base then .error stTooFar
        else do
          let o1 ← Sink.copy (db + dx) (lb + lx) o
          inflateSyms lit dist n c4 o1

/-- Order of the code length code's lengths. -/
def clOrder : List Nat := [16, 17, 18, 0, 8, 7, 9, 6, 10, 5, 11, 4, 12, 3, 13, 2, 14, 1, 15]

def readLens : List Nat → List Nat → Cur → LL (List Nat × Cur)
  | [], ls, c => .ok (ls, c)
  | k :: ks, ls, c => do
    let (v, c1) ← Cur.take 3 c
    readLens ks (ls.set k v) c1

/-- The code lengths of a dynamic block: `want` of them, gathered newest first. -/
def readCodeLens (h : Huff) (want : Nat) : Nat → List Nat → Nat → Cur → LL (List Nat × Cur)
  | 0, _, _, _ => .error stTruncated
  | n + 1, rev, have_, c =>
    if have_ ≥ want then .ok (rev.reverse, c)
    else do
      let (s, c1) ← h.get c
      if s < 16 then readCodeLens h want n (s :: rev) (have_ + 1) c1
      else do
        let (k, base, v) : Nat × Nat × Nat := if s == 16 then (2, 3, rev.headD 0) else if s == 17 then (3, 3, 0) else (7, 11, 0)
        if s == 16 && rev.isEmpty then .error stIllegal
        else do
          let (x, c2) ← Cur.take k c1
          if have_ + base + x > want then .error stOverrun
          else readCodeLens h want n (List.replicate (base + x) v ++ rev) (have_ + base + x) c2

/-- The two codes of a dynamic block. -/
def dynamicCodes (c : Cur) : LL (Huff × Huff × Cur) := do
  let (hlit, c1) ← Cur.take 5 c
  if hlit > 29 then .error stIllegal
  else do
    let (hdist, c2) ← Cur.take 5 c1
    if hdist > 29 then .error stIllegal
    else do
      let (hclen, c3) ← Cur.take 4 c2
      let (cl, c4) ← readLens (clOrder.take (hclen + 4)) (List.replicate 19 0) c3
      let h := huffOf cl
      if !h.complete then .error stIllegal
      else do
        let want := hlit + 257 + hdist + 1
        let (ls, c5) ← readCodeLens h want (want + 1) [] 0 c4
        let lit := huffOf (ls.take (hlit + 257))
        let dist := huffOf (ls.drop (hlit + 257))
        if lit.complete && dist.distOk then .ok (lit, dist, c5) else .error stIllegal

def fixedLit : Huff :=
  huffOf (List.replicate 144 8 ++ List.replicate 112 9 ++ List.replicate 24 7 ++ List.replicate 8 8)
def fixedDist : Huff := huffOf (List.replicate 32 5)

/-- A stored block. -/
def storedBlock (c : Cur) (o : Sink) : LL (Cur × Sink) := do
  let (h, c1) ← c.align.bytes 4
  let len := u16At h 0
  if u16At h 2 != 65535 - len then .error stIllegal
  else do
    let o1 ← Sink.putAll (c1.bs.take len) o
    if c1.bs.length < len then .error stTruncated else .ok (⟨c1.bs.drop len, 0⟩, o1)

/-- The body of one block of a type, after its header of three bits. -/
def inflateBody (fuel typ : Nat) (c : Cur) (o : Sink) : LL (Cur × Sink) :=
  match typ with
  | 0 => storedBlock c o
  | 1 => inflateSyms fixedLit fixedDist fuel c o
  | 2 => do
    let (l, d, c1) ← dynamicCodes c
    inflateSyms l d fuel c1 o
  | _ => .error stIllegal

/-- The blocks of one DEFLATE stream, at most n; fuel bounds the symbols of a block. -/
def inflateBlocks (fuel : Nat) : Nat → Cur → Sink → LL (Cur × Sink)
  | 0, _, _ => .error stTruncated
  | n + 1, c, o => do
    let (fin, c1) ← c.bit
    let (typ, c2) ← Cur.take 2 c1
    let (c3, o1) ← inflateBody fuel typ c2 o
    if fin == 1 then .ok (c3.align, o1) else inflateBlocks fuel n c3 o1

/-- One raw DEFLATE stream. -/
def inflateStream (c : Cur) (o : Sink) : LL (Cur × Sink) :=
  let fuel := 8 * c.bs.length + 8
  inflateBlocks fuel fuel c { o with base := o.n }

/-- Nothing may follow a stream (R316). -/
def noMore (c : Cur) (o : Sink) : LL Bytes := if c.bs.isEmpty then .ok o.rev.reverse else .error stOverrun

def sink0 (cap : Nat) : Sink := { rev := [], n := 0, base := 0, cap := cap, holes := [] }

/-- FORMAT 0: exactly one raw DEFLATE stream (R315). -/
def inflateRaw (b : Bytes) (cap : Nat) : LL Bytes := do
  let (c, o) ← inflateStream ⟨b, 0⟩ (sink0 cap)
  noMore c o

/-- The next byte, which a test must accept: each is tested before the one after it is read (R316). -/
def Cur.byteThat (c : Cur) (p : Nat → Bool) : LL (Nat × Cur) := do
  let (h, c1) ← c.bytes 1
  if p (u8At h 0) then .ok (u8At h 0, c1) else .error stIllegal

/-- FORMAT 1: exactly one zlib stream (R315). -/
def inflateZlib (b : Bytes) (cap : Nat) : LL Bytes := do
  let (cmf, c0) ← Cur.byteThat ⟨b, 0⟩ fun x => x % 16 == 8 && decide (x / 16 ≤ 7)
  let (_, c) ← c0.byteThat fun x => (cmf * 256 + x) % 31 == 0 && !bitAt x 5
  let (c1, o) ← inflateStream c (sink0 cap)
  let (t, c2) ← c1.bytes 4
  if beNat t != adler32 o.stream then .error stCheck else noMore c2 o

/-- Bytes up to and with a zero byte. -/
def takeZ : Bytes → LL (Bytes × Bytes)
  | [] => .error stTruncated
  | b :: bs => if b == 0 then .ok ([b], bs) else do let (x, y) ← takeZ bs; .ok (b :: x, y)

/-- A gzip member header: the header's bytes so far, and the rest. -/
def gzipHeader (b : Bytes) : LL (Bytes) := do
  let (_, k1) ← Cur.byteThat ⟨b, 0⟩ (· == 0x1F)
  let (_, k2) ← k1.byteThat (· == 0x8B)
  let (_, k3) ← k2.byteThat (· == 8)
  let (flg, k4) ← k3.byteThat (decide <| · < 32)
  let (_, c) ← k4.bytes 6
  let (x, r1) ← (if bitAt flg 2 then do
      let (l, c1) ← c.bytes 2
      let (d, c2) ← c1.bytes (leNat l)
      .ok (l ++ d, c2.bs)
    else .ok ([], c.bs) : LL (Bytes × Bytes))
  let (nm, r2) ← (if bitAt flg 3 then takeZ r1 else .ok ([], r1) : LL (Bytes × Bytes))
  let (cm, r3) ← (if bitAt flg 4 then takeZ r2 else .ok ([], r2) : LL (Bytes × Bytes))
  if bitAt flg 1 then do
    let (t, c3) ← Cur.bytes ⟨r3, 0⟩ 2
    if leNat t != crc32 (b.take 10 ++ x ++ nm ++ cm) % 65536 then .error stCheck else .ok c3.bs
  else .ok r3

/-- The members of a gzip input, at most n. -/
def gzipMembers : Nat → Bytes → Sink → LL Bytes
  | 0, _, _ => .error stTruncated
  | n + 1, b, o => do
    let r ← gzipHeader b
    let (c1, o1) ← inflateStream ⟨r, 0⟩ o
    let (t, c2) ← c1.bytes 4
    if leNat t != crc32 o1.stream then .error stCheck
    else do
      let (z, c3) ← c2.bytes 4
      if leNat z != (o1.n - o1.base) % 2 ^ 32 then .error stCheck
      else if c3.bs.isEmpty then .ok o1.rev.reverse
      else gzipMembers n c3.bs o1

/-- FORMAT 2: gzip members in sequence (R315). -/
def inflateGzip (b : Bytes) (cap : Nat) : LL Bytes := gzipMembers (b.length + 1) b (sink0 cap)

/-! Compression -/

/-- Stored blocks of at most 65,535 bytes, the last final (R313). -/
def storedBlocks : Nat → Bytes → Bytes
  | 0, _ => []
  | n + 1, b =>
    let c := b.take 65535
    let r := b.drop 65535
    [if r.isEmpty then 1 else 0] ++ leBytes 2 c.length ++ leBytes 2 (65535 - c.length) ++ c ++
      (if r.isEmpty then [] else storedBlocks n r)

def deflateStored (b : Bytes) : Bytes := storedBlocks (b.length / 65535 + 1) b

/-- The bound of R314 for raw DEFLATE. -/
def deflateBound (n : Nat) : Nat := n + 5 * ceilDiv n 65535 + 1

/-- Bits of the input still unread. -/
def Cur.left (c : Cur) : Nat := 8 * c.bs.length - c.off

/-- Bits of a symbol of the fixed literal and length code (RFC 1951 3.2.6). -/
def fixedLitBits (s : Nat) : Nat := if s < 144 then 8 else if s < 256 then 9 else if s < 280 then 7 else 8

/-- The bits that the symbols of a block of codes lit and dist would take in the fixed code, end of block included; at most n symbols. -/
def fixedBits (lit dist : Huff) : Nat → Cur → Nat → Option Nat
  | 0, _, _ => none
  | n + 1, c, acc =>
    match lit.get c with
    | .error _ => none
    | .ok (s, c1) =>
      if s < 256 then fixedBits lit dist n c1 (acc + fixedLitBits s)
      else if s == 256 then some (acc + fixedLitBits s)
      else
        let le := (listGet lenBase (s - 257) (3, 0)).2
        match Cur.take le c1 >>= fun x => dist.get x.2 with
        | .error _ => none
        | .ok (ds, c3) =>
          match Cur.take (distBase ds).2 c3 with
          | .error _ => none
          | .ok (_, c4) => fixedBits lit dist n c4 (acc + fixedLitBits s + le + 5 + (distBase ds).2)

/-- Bits of n input bytes as a stored block whose data begin at bit p of the stream, after the block's header of three bits. -/
def storedBits (p n : Nat) : Nat := (8 - p % 8) % 8 + 32 + 8 * n

/-- A block is one that the engine may write (R313): at most 65,535 input bytes, and shorter than each form that comes before its own in
the order stored, fixed, dynamic. p is the bit of the stream at which its body begins, len the body's bits, n its input bytes. -/
def blockShortest (fuel typ p len n : Nat) (c : Cur) : Bool :=
  decide (n ≤ 65535) && (typ == 0 || decide (len < storedBits p n)) &&
    (typ != 2 || match dynamicCodes c with
      | .ok (l, d, c1) => (match fixedBits l d fuel c1 0 with
        | some k => decide (len < k)
        | none => false)
      | .error _ => false)

/-- Every block of a stream of `total` bits is one that the engine may write (R313); at most n blocks. -/
def blocksShortest (fuel total : Nat) : Nat → Cur → Sink → Bool
  | 0, _, _ => false
  | n + 1, c, o =>
    match c.bit >>= fun x => (Cur.take 2 x.2).map fun y => (x.1, y.1, y.2) with
    | .error _ => false
    | .ok (fin, typ, c2) =>
      match inflateBody fuel typ c2 o with
      | .error _ => false
      | .ok (c3, o1) =>
        blockShortest fuel typ (total - c2.left) (c2.left - c3.left) (o1.n - o.n) c2 && (fin == 1 || blocksShortest fuel total n c3 o1)

/-- Raw DEFLATE that an engine may write for an input (R313, R314): it decodes to the input, keeps the bound, and its blocks are those of R313. That
a stored or fixed block is not longer than the dynamic form the engine found is not checked, since that form is the engine's own. -/
def deflateFits (b c : Bytes) : Bool :=
  let fuel := 8 * c.length + 8
  (inflateRaw c b.length).toOption == some b && decide (c.length ≤ deflateBound b.length) &&
    blocksShortest fuel (8 * c.length) fuel ⟨c, 0⟩ (sink0 b.length)

/-- Raw DEFLATE at a LEVEL (R311, R313, R314). The matcher of LEVEL 1 to 9 is a free function (log entry 9) that is used where it
answers a stream that R313 and R314 allow. -/
def deflateRaw (level : Nat) (b : Bytes) : Bytes :=
  if level == 0 then deflateStored b
  else if deflateFits b (Config.deflateChoice level b) then Config.deflateChoice level b
  else deflateStored b

/-- FLEVEL of R313. -/
def zlibLevel (level : Nat) : Nat := if level ≤ 1 then 0 else if level ≤ 5 then 1 else if level == 6 then 2 else 3

/-- LL_COMP's output (R313). DEDUCED, log entry 49. -/
def compress (format level : Nat) (b : Bytes) : Bytes :=
  let d := deflateRaw level b
  match format with
  | 1 =>
    let f := 64 * zlibLevel level
    let check := (31 - (0x78 * 256 + f) % 31) % 31
    [0x78, BitVec.ofNat 8 (f + check)] ++ d ++ beBytes 4 (adler32 b)
  | 2 =>
    [0x1F, 0x8B, 8, 0, 0, 0, 0, 0, if level == 9 then 2 else if level == 1 then 4 else 0, 255] ++ d ++
      leBytes 4 (crc32 b) ++ leBytes 4 (b.length % 2 ^ 32)
  | _ => d

end Sys2Proof.Machine
end

