-- ==== Sys2Proof/Machine/Hms.lean ====
section
/-!
DEFINITION. The Hirun Media Stream format (R177 to R209): units and their checks, stream headers, the parameter blocks'
shared fields, and the units an encoder writes.
-/
namespace Sys2Proof.Machine

/-- A whole unit (R177, R179). -/
def unitOf (typ flags : Nat) (payload : Bytes) : Bytes :=
  let b := [0x48, 0x4D] ++ leBytes 1 typ ++ leBytes 1 flags ++ leBytes 4 payload.length ++ payload
  b ++ leBytes 4 (crc32c b)

def unitType (u : Bytes) : Nat := u8At u 2
def unitFlags (u : Bytes) : Nat := u8At u 3
def unitPayload (u : Bytes) : Bytes := (u.drop 8).take (u.length - 12)

/-- lg8 (R227). -/
def lg8 (x : Int) : Int :=
  let v := if x < 1 then 1 else x.toNat
  let n := floorLog2 v
  8 * n + (v * 8 / 2 ^ n % 8 : Nat)

/-! Stream headers -/

def hdrRev (h : Bytes) : Nat := u8At h 0
def hdrMedia (h : Bytes) : Nat := u8At h 1
def hdrK (h : Bytes) : Nat := u8At h 3
/-- The re-run allowance (R180; 0 in revision 2, R208). -/
def hdrA (h : Bytes) : Nat := if hdrRev h == 2 then 0 else u8At h 4
def hdrAdapters (h : Bytes) : Bool := hdrRev h != 2 && bitAt (u8At h 5) 0
def hdrW (h : Bytes) : Nat := u16At h 48
def hdrH (h : Bytes) : Nat := u16At h 50
/-- Slices of a picture (R189). -/
def sliceCount (h k : Nat) : Nat := ceilDiv h (64 * k)

/-- Width and height even as R124 requires for a chroma format. -/
def chromaEven (w h chroma : Nat) : Bool :=
  (chroma != 0 || (w % 2 == 0 && h % 2 == 0)) && (chroma != 1 || w % 2 == 0)

/-- The fields WIDTH to FALLBACK that a video header and a VPB share (R181, R221): size, chroma, depth, colour, rate, fallback. -/
def videoFields (w h chroma depth colour : Nat) (rate fallback : Bytes) : Bool :=
  decide (16 ≤ w) && decide (w ≤ 16384) && decide (16 ≤ h) && decide (h ≤ 16384) && decide (chroma ≤ 3) && chromaEven w h chroma &&
    (depth == 8 || depth == 10 || depth == 12) && decide (colour ≤ 3) && u32At rate 0 != 0 && u32At rate 4 != 0 &&
    (List.range 3).all fun i => u16At fallback (2 * i) % 2 ^ (16 - depth) == 0

/-- The limits of a profile (R240). -/
def profileOk (profile w h : Nat) : Bool :=
  let (edge, area) := listGet [(4096, 2228224), (8192, 9437184), (16384, 35651584)] profile (0, 0)
  decide (w ≤ edge) && decide (h ≤ edge) && decide (w * h ≤ area)

/-- Rates, channels and sample format of audio (R182, R244). -/
def audioFields (rate channels fmt : Nat) : Bool :=
  (rate == 16000 || rate == 24000 || rate == 32000 || rate == 48000) && decide (1 ≤ channels) && decide (channels ≤ 8) && decide (fmt ≤ 2)

/-- BOUND of a field (R251): 2^-1019 ≤ e < 2^1023. -/
def boundOk (b : Nat) : Bool := decide (b < 2 ^ 63) && decide (4 ≤ b / 2 ^ 52) && decide (b / 2 ^ 52 < 2046)

/-- ELEM, DIMS, BLOCK and EXTENT of a field (R183, R250). -/
def fieldFields (elem dims block : Nat) (extent : Bytes) : Bool :=
  decide (elem ≤ 1) && decide (1 ≤ dims) && decide (dims ≤ 4) && decide (block ≤ 1) && (block == 1 || decide (3 ≤ dims)) &&
    (List.range 4).all fun d => if d < dims then u32At extent (4 * d) != 0 else u32At extent (4 * d) == 1

/-- The form of a stream header's payload (R180 to R183, R204). A revision that is neither 2 nor 3 is checked as 3. -/
def streamHeaderOk (h : Bytes) : Bool :=
  let rev2 := hdrRev h == 2
  let media := hdrMedia h
  h.length == 80 && decide (media ≤ 2) && (if media == 0 then decide (u8At h 2 ≤ 2) else u8At h 2 == 0xFF) &&
    (if media == 0 then decide (1 ≤ hdrK h) && decide (hdrK h ≤ 8) else hdrK h == 0) &&
    (if rev2 then u8At h 4 == 0 && u8At h 5 == 0 else decide (u8At h 4 ≤ 7) && decide (u8At h 5 ≤ 1)) && zeroAt h 6 2 && zeroAt h 40 8 &&
    (match media with
     | 0 =>
       videoFields (hdrW h) (hdrH h) (u8At h 52) (u8At h 53) (u8At h 54) (slice h 56 8) (slice h 64 6) && zeroAt h 55 1 && allZero (slice h 70 10)
     | 1 =>
       audioFields (u32At h 48) (u8At h 52) (u8At h 53) && zeroAt h 54 2 && decide (6000 ≤ u32At h 56) && decide (u32At h 56 ≤ 256000) &&
         allZero (slice h 60 20)
     | _ =>
       fieldFields (u8At h 48) (u8At h 49) (u8At h 50) (slice h 52 16) && zeroAt h 51 1 && boundOk (u64At h 68) && allZero (slice h 76 4))

/-! Field blocks -/

/-- Block edges E_d (R250). -/
def blockEdges (dims block : Nat) : List Nat :=
  if block == 0 then [64, 64, 64, 1] else if dims == 1 then [65536, 1, 1, 1] else [256, 256, 1, 1]

/-- Blocks along each dimension (R250). -/
def blockCounts (dims block : Nat) (extent : List Nat) : List Nat :=
  (List.range 4).map fun d => ceilDiv (listGet extent d 1) (listGet (blockEdges dims block) d 1)

/-- The linear index of a block (R197). -/
def blockIndex (n p : List Nat) : Nat :=
  listGet p 0 0 + listGet n 0 1 * (listGet p 1 0 + listGet n 1 1 * (listGet p 2 0 + listGet n 2 1 * listGet p 3 0))

/-- Elements of a block within EXTENT along each dimension (R250). -/
def blockSizes (dims block : Nat) (extent p : List Nat) : List Nat :=
  (List.range 4).map fun d =>
    let e := listGet (blockEdges dims block) d 1
    min e (listGet extent d 1 - listGet p d 0 * e)

def mulN (l : List Nat) : Nat := l.foldl (· * ·) 1

def hdrExtent (h : Bytes) : List Nat := (List.range 4).map fun d => u32At h (52 + 4 * d)

/-! Slices -/

/-- The luma rows of slice j (R68, R159): first, and count. -/
def sliceRows (h k j : Nat) : Nat × Nat := (64 * k * j, min (64 * k) (h - 64 * k * j))

/-- BX × BY of a slice (R190). -/
def roiBlocks (w h k j : Nat) : Nat := ceilDiv w 64 * ceilDiv (sliceRows h k j).2 64

/-- Pairs of i16 of a motion section, flattened (R191). -/
def motionValues (b : Bytes) : List Int := (List.range (b.length / 2)).map fun i => sext 16 (u16At b (2 * i))

/-- The motion section of a slice payload, uncompressed; none where it is malformed (R191). want is its length, 0 without a
MOTION tensor. -/
def motionOf (u : Bytes) (intra : Bool) (want : Nat) : Option (List Int) :=
  let defl := bitAt (u8At u 7) 1
  let m := slice u (24 + u32At u 8) (u32At u 12)
  if intra || want == 0 then (if m.isEmpty && !defl then some (List.replicate (want / 2) 0) else none)
  else if m.isEmpty && !defl then some (List.replicate (want / 2) 0)
  else if defl then
    match inflateRaw m want with
    | .ok b => if b.length == want then some (motionValues b) else none
    | .error _ => none
  else if m.length == want then some (motionValues m)
  else none

/-- The form of a slice payload by itself (R189, R190, R204). -/
def sliceForm (u : Bytes) : Bool :=
  decide (24 ≤ u.length) && u.length == 24 + u32At u 8 + u32At u 12 + u32At u 16 && zeroAt u 20 4 && decide (u8At u 6 ≤ 63) && decide (u8At u 7 ≤ 3) &&
    (bitAt (u8At u 7) 0 || u32At u 8 == 0)

/-- A slice unit under a stream header (R189, R190, R208). -/
def sliceOk (u : Bytes) (rev2 : Bool) (w h k : Nat) : Bool :=
  sliceForm u && (!rev2 || (u8At u 7 == 0 && u32At u 8 == 0)) && decide (u16At u 4 < sliceCount h k) &&
    (!bitAt (u8At u 7) 0 || u32At u 8 == roiBlocks w h k (u16At u 4))

/-- Effective quality of a block (R190). -/
def effQuality (q off : Int) : Int := min (max (q + off) 0) 63

/-! Adapters -/

/-- INT4 codes of a run of bytes (R28). -/
def int4List (b : Bytes) (n : Nat) : List Int :=
  (List.range n).map fun i => sext 4 (u8At b (i / 2) / (if i % 2 == 1 then 16 else 1))

/-- Codes packed as INT4 (R28). -/
def packInt4 (l : List Int) : Bytes :=
  (List.range (ceilDiv l.length 2)).map fun i =>
    BitVec.ofNat 8 (toCode 4 (listGet l (2 * i) 0) + 16 * toCode 4 (listGet l (2 * i + 1) 0))

/-- The targets of an adapter, from the codes from an offset on (R186). -/
def targetsFrom (g desc codes : Bytes) : Nat → Nat → Nat → List Target
  | 0, _, _ => []
  | n + 1, j, off =>
    let i := u16At g (24 + 2 * j)
    let r := recAt g i
    let d := slice desc (16 * j) 16
    { rcd := i, down := sext 8 (u8At d 6), up := sext 8 (u8At d 7), D := int4List (codes.drop off) (8 * r.cIn)
      U := int4List (codes.drop (off + 4 * r.cIn)) (8 * r.cOut) } :: targetsFrom g desc codes n (j + 1) (off + 4 * (r.cIn + r.cOut))

/-- The form of an adapter unit's payload by itself, and its codes (R185, R186, R204). -/
def adapterCodes (u : Bytes) : Option Bytes :=
  let t := u8At u 4
  let expOk (x : Int) : Bool := decide (-31 ≤ x) && decide (x ≤ 15)
  if !(decide (16 ≤ u.length) && u.length == 16 + 16 * t + u32At u 12 && decide (1 ≤ t) && decide (t ≤ 4) && u8At u 5 == 8 && zeroAt u 6 2 &&
      (List.range t).all fun j =>
        let d := slice u (16 + 16 * j) 16
        expOk (sext 8 (u8At d 6)) && expOk (sext 8 (u8At d 7)) && zeroAt d 8 8) then none
  else
    match inflateRaw (slice u (16 + 16 * t) (u32At u 12)) (u32At u 8) with
    | .ok codes => if codes.length == u32At u 8 then some codes else none
    | .error _ => none

/-- An adapter unit's payload under a PROG_X: PIC_ID and adapter; none where it is malformed (R185, R186, R231). -/
def adapterOf (g u : Bytes) : Option (Nat × Adapter) :=
  let t := u8At u 4
  let desc := slice u 16 (16 * t)
  let want := sumN ((List.range t).map fun j => let r := recAt g (u16At g (24 + 2 * j)); 4 * (r.cIn + r.cOut))
  let mine := t == u8At g 21 && u32At u 8 == want && (List.range t).all fun j =>
    let i := u16At g (24 + 2 * j)
    let d := slice desc (16 * j) 16
    u16At d 0 == i && u16At d 2 == (recAt g i).cIn && u16At d 4 == (recAt g i).cOut
  if !mine then none else (adapterCodes u).map fun codes => (u32At u 0, { targets := targetsFrom g desc codes t 0 0, bytes := desc ++ codes })

/-! Picture headers -/

/-- The form of a picture header by itself (R187, R188, R204). -/
def pictureForm (u : Bytes) : Bool :=
  let id := u32At u 0
  let none32 := 0xFFFFFFFF
  let ref (x : Nat) : Bool := x == none32 || decide (x < id)
  let bare := u32At u 8 == none32 && u32At u 12 == none32
  u.length == 32 && decide (u8At u 4 ≤ 1) && decide (u8At u 5 ≤ 63) && decide (u8At u 6 ≤ 3) && decide (u8At u 7 ≤ 1) && zeroAt u 24 8 &&
    id != none32 && (if u8At u 4 == 0 then bare else !bare && u8At u 7 == 0) && ref (u32At u 8) && ref (u32At u 12)

/-- A picture header under a stream's header and its last accepted PIC_ID (R187, R188, R240). -/
def pictureOk (h u : Bytes) (lastId : Option Nat) : Bool :=
  let id := u32At u 0
  let intra := u8At u 4 == 0
  let rl := u32At u 12
  let ad := bitAt (u8At u 7) 0
  let after := match lastId with
    | none => true
    | some l => decide (id > l) || (intra && id == 0 && decide (l > 0))
  pictureForm u && (hdrRev h != 2 || !ad) && after && (!intra || ad || !hdrAdapters h) && (!ad || hdrAdapters h) &&
    (u8At h 2 != 0 || (rl == 0xFFFFFFFF && !bitAt (u8At u 6) 1))

/-! Field block units -/

/-- The form of a field block unit by itself (R194, R195, R204). -/
def fieldForm (u : Bytes) : Bool :=
  let rl := u32At u 24
  let k := u32At u 28
  let exc (i : Nat) : Bytes := slice u (32 + u32At u 20 + rl + 16 * i) 16
  decide (32 ≤ u.length) && u.length == 32 + u32At u 20 + rl + 16 * k && decide (u8At u 16 ≤ 3) && decide (u8At u 17 ≤ 1) && zeroAt u 18 2 &&
    (u8At u 16 != 0 || (rl == 0 && u8At u 17 == 0)) && (List.range k).all (fun i => zeroAt (exc i) 4 4) &&
    (List.range (k - 1)).all fun i => decide (u32At (exc i) 0 < u32At (exc (i + 1)) 0)

/-- The residuals of a field block unit for n elements, and its exceptions; none where it is malformed (R194, R195). -/
def fieldSections (u : Bytes) (n elem : Nat) : Option (List Int × List (Nat × Nat)) :=
  let fmt := u8At u 16
  let defl := bitAt (u8At u 17) 0
  let cl := u32At u 20
  let rl := u32At u 24
  let k := u32At u 28
  let w := listGet [0, 1, 2, 4] fmt 0
  let res := slice u (32 + cl) rl
  let exc := (List.range k).map fun i => slice u (32 + cl + rl + 16 * i) 16
  let exOk := exc.all fun e => decide (u32At e 0 < n) && (elem == 1 || zeroAt e 12 4)
  let plain : Option Bytes :=
    if fmt == 0 then some []
    else if defl then (match inflateRaw res (w * n) with | .ok b => if b.length == w * n then some b else none | .error _ => none)
    else if rl == w * n then some res else none
  if !(fieldForm u && exOk) then none
  else plain.map fun b =>
    ((List.range n).map fun i => if w == 0 then 0 else sext (8 * w) (fieldAt b (w * i) w), exc.map fun e => (u32At e 0, u64At e 8))

/-- BLOCK_POS of a field block unit. -/
def fieldPos (u : Bytes) : List Nat := (List.range 4).map fun d => u32At u (4 * d)

/-- The block position lies within the blocks that EXTENT implies (R195). -/
def fieldPosOk (h : Bytes) (p : List Nat) : Bool :=
  let n := blockCounts (u8At h 49) (u8At h 50) (hdrExtent h)
  (List.range 4).all fun d => decide (listGet p d 0 < listGet n d 1)

/-! Units an encoder writes -/

/-- The stream header payload of an encode stream (R180 to R183, R200), from its parameter block and package. -/
def headerFor (medium : Nat) (p : Bytes) (digest : Bytes) : Bytes :=
  let k := if medium == 0 then u8At p 22 else 0
  let a := if medium == 0 then u8At p 23 else if medium == 1 then u8At p 7 else u8At p 28
  let common := leBytes 1 3 ++ leBytes 1 medium ++ leBytes 1 (if medium == 0 then u8At p 24 else 0xFF) ++ leBytes 1 k ++ leBytes 1 a ++
    leBytes 1 (if medium == 0 then u8At p 25 % 2 else 0) ++ leBytes 2 0 ++ slice digest 0 32 ++ leBytes 8 0
  let media :=
    match medium with
    | 0 => slice p 0 7 ++ leBytes 1 0 ++ slice p 8 14 ++ leBytes 10 0
    | 1 => slice p 0 6 ++ leBytes 2 0 ++ slice p 8 4 ++ leBytes 20 0
    | _ => slice p 0 3 ++ leBytes 1 0 ++ slice p 4 24 ++ leBytes 4 0
  common ++ media

/-- The model unit payload (R184); NAME is the package's (R135). -/
def modelFor (p : Pkg) : Bytes := slice p.modelDigest 0 32 ++ slice p.pkgDigest 0 32 ++ slice p.man 32 32

/-- The picture header payload (R187). -/
def pictureFor (c : Pic) (adapter : Bool) (quality : Nat) : Bytes :=
  leBytes 4 c.picId ++ leBytes 1 (b2n (!c.intra)) ++ leBytes 1 quality ++ leBytes 1 c.mark ++ leBytes 1 (b2n adapter) ++
    leBytes 4 c.refShort ++ leBytes 4 c.refLong ++ leBytes 8 c.pts ++ leBytes 8 0

/-- The adapter unit payload (R185): descriptors and codes, deflated by a lossless engine. -/
def adapterPayload (picId : Nat) (a : Adapter) : Bytes :=
  let n := a.targets.length
  let codes := a.bytes.drop (16 * n)
  let z := deflateRaw 4 codes
  leBytes 4 picId ++ leBytes 1 n ++ leBytes 1 8 ++ leBytes 2 0 ++ leBytes 4 codes.length ++ leBytes 4 z.length ++ a.bytes.take (16 * n) ++ z

/-- The hallmark unit payload (R196). -/
def hallmarkPayload (scope subject : Nat) (rcd : Bytes) : Bytes := leBytes 1 scope ++ leBytes 7 0 ++ leBytes 8 subject ++ rcd

/-- A hallmark unit's form (R196, R204). -/
def hallmarkUnitOk (u : Bytes) : Bool := u.length == 144 && decide (u8At u 0 ≤ 3) && zeroAt u 1 7

end Sys2Proof.Machine
end

