-- ==== Sys2Proof/Machine/Bounded.lean ====
section
/-!
DEFINITION. The arithmetic of bounded-class records (R25, R37 to R49, R52, R53, R63, R67, R79 to R82, R96, R97, R99, R112, R113, R123,
R143): elements, groups and accumulation, the vector list, the pre-operation, the rotation and the row stage of one position.
-/
namespace Sys2Proof.Machine

/-! Formats and package data of a record -/

/-- Format of a code field of a record. -/
def Rec.fmtA (r : Rec) : Fmt := (Fmt.ofCode r.aFmt).getD .int8
def Rec.fmtW (r : Rec) : Fmt := (Fmt.ofCode r.wFmt).getD .int4
def Rec.fmtOut (r : Rec) : Fmt := (Fmt.ofCode r.outFmt).getD .int8

/-- The accumulator format of a bounded record (R42). -/
def Rec.accFmt (r : Rec) : Fmt := if r.fmtA = .fp64 then .fp64 else .fp32

/-- Output channels of one channel part (R457). -/
def Rec.partCh (r : Rec) : Nat := r.cOut / r.parts

/-- Codes that a cell uses in one issue (R81): two of INT2 and ternary, but not where activations are read as FP16. -/
def Rec.perCell (r : Rec) (wide : Bool) : Nat := if r.wFmt == 1 || r.wFmt == 2 then (if wide then 1 else 2) else 1

/-- Weight code n of a record, as stored (R28, R134). -/
def Pkg.wCode (p : Pkg) (k : Nat) (r : Rec) (n : Nat) : Nat :=
  let nb := fmtBits r.wFmt
  bits (fieldAt (p.wgt k) (r.wOff + n * nb / 8) (ceilDiv (n * nb % 8 + nb) 8)) (n * nb % 8) nb

/-- κ of output channel o. -/
def Pkg.kappaOf (p : Pkg) (k : Nat) (r : Rec) (o : Nat) : Int :=
  if r.kappaOff == noOff then 0 else sext 8 (u8At (p.chexp k) (r.kappaOff + o))

/-- Rotation sign of output channel o. -/
def Pkg.signOf (p : Pkg) (k : Nat) (r : Rec) (o : Nat) : Bool :=
  r.rotSign != noOff && bitAt (u8At (p.rots k) (r.rotSign + o / 8)) (o % 8)

/-- Bias of output channel o of a bounded record: a code of the accumulator format, +0 where the record names none (R42, R134). -/
def Pkg.biasFloat (p : Pkg) (k : Nat) (r : Rec) (o : Nat) : Nat :=
  if r.biasOff == noOff then 0 else fieldAt (p.wgt k) (r.biasOff + r.accFmt.width / 8 * o) (r.accFmt.width / 8)

/-! Elements -/

/-- The exponent of channel c at a position of several rows (R457). -/
def expOf (p : List Int × List Int) (c : Nat) : Int := listGet p.2 (c * p.2.length / max 1 p.1.length) 0

/-- A position as a bounded record reads it: codes, part exponents, and the codes' format: FP16 where a wide re-run wrote them (R39, R110). -/
structure BPos where
  q    : List Int
  rho  : List Int
  fmt  : Fmt
  wide : Bool
deriving DecidableEq, Repr

/-- The code of channel c. -/
def BPos.code (p : BPos) (c : Nat) : Nat := toCode p.fmt.width (listGet p.q c 0)

/-- The row exponent of channel c. -/
def BPos.exp (p : BPos) (c : Nat) : Int := expOf (p.q, p.rho) c

/-- Channel c as an operand of the arrays: the cell operand form with the row exponent added (R37, R38, R44). -/
def BPos.op (p : BPos) (c : Nat) : CellOp := (cellOp p.fmt (p.code c)).scale (p.exp c)

/-- A value times 2^k. -/
def FVal.scaleBy (k : Int) : FVal → FVal
  | .fin s m e => .fin s m (e + k)
  | v => v

/-- The value q × 2^ρ of channel c, subnormal codes kept (R56). -/
def BPos.val (p : BPos) (c : Nat) : FVal := (p.fmt.value (p.code c)).scaleBy (p.exp c)

/-- A value as a code of a format, integer formats in two's complement. -/
def Fmt.codeOfVal (f : Fmt) (md : Rounding) (sat : Bool) (v : FVal) : Nat × FpFlags :=
  if f.isFloat then f.ofVal md sat v else let (x, fl) := f.intOfVal md v; (toCode f.width x, fl)

/-! Groups and accumulation (R41 to R45, R79 to R82, R112) -/

/-- The format whose window holds the products of a position (R39, R41): FP16 where a row read, or the re-run, is wide and the record's own
format is narrower. DEDUCED, log entry 148. -/
def windowFmt (f : Fmt) (wide : Bool) : Fmt := if wide && decide (f.width ≤ 8) then .fp16 else f

/-- Reduction depth of an issue (R79, R81, R82). -/
def Rec.depth (r : Rec) (wide : Bool) : Nat := if r.trans then 256 else listGet [16, 8, 4] r.shape 16 * r.perCell wide

/-- Issues of a position, per output (R112). -/
def Rec.issueCount (r : Rec) (wide : Bool) : Nat := r.kh * r.kw * ceilDiv r.cIn (r.depth wide)

/-- Put a number into a list in the order of its key, after those of an equal key. -/
def insertKey (key : Nat → Nat) (n : Nat) : List Nat → List Nat
  | [] => [n]
  | m :: ms => if key n < key m then n :: m :: ms else m :: insertKey key n ms

/-- The numbers below n in the order of their keys: every order of the issues is that of some keys (log entry 10). -/
def keyOrder (key : Nat → Nat) (n : Nat) : List Nat := (List.range n).foldl (fun l i => insertKey key i l) []

/-- The product of input channel c of tap t with its weight for output o: a missing product is zero (R80, R112), padding code 0 (R109). A missing
product is +0. DESIGN CHOICE, log entry 159. -/
def Pkg.termBounded (p : Pkg) (k : Nat) (r : Rec) (ps : List (Option BPos)) (o t c : Nat) : Product :=
  if c < r.cIn then
    let x := match listGet ps t none with
      | some q => q.op c
      | none => .fin false 0 0
    ((cellOp r.fmtW (p.wCode k r ((o * r.kh * r.kw + t) * r.cIn + c))).scale (p.kappaOf k r o)).mul x
  else .fin false 0 0

/-- The group values of issue i for output o, in the order in which they are added (R79, R81, R82). The weight order of R134 holds for a
transposed record's own outputs. DEDUCED, log entry 149. -/
def Pkg.issueBounded (p : Pkg) (k : Nat) (r : Rec) (ps : List (Option BPos)) (wide : Bool) (o i : Nat) : List FVal :=
  let per := ceilDiv r.cIn (r.depth wide)
  let first := i % per * r.depth wide
  let n := if r.trans then 64 else r.depth wide
  (List.range (r.depth wide / n)).map fun a =>
    groupValue ((List.range n).map fun j => p.termBounded k r ps o (i / per) (first + a * n + j)) (windowBits (windowFmt r.fmtA wide))

/-- The accumulator of output o after all issues of a position, in the order of the keys (R42, R48). -/
def Pkg.convBounded (p : Pkg) (k : Nat) (r : Rec) (ps : List (Option BPos)) (wide : Bool) (key : Nat → Nat) (o : Nat) : Nat :=
  let w := wide || ps.any fun q => match q with | some x => x.wide | none => false
  (keyOrder key (r.issueCount w)).foldl (fun a i => (p.issueBounded k r ps w o i).foldl (accAdd r.accFmt) a) (p.biasFloat k r o)

/-- ADD without a vector list (R113): the exact sum of the two elements joins the bias as one rounded addition. DEDUCED, log entry 150. -/
def Pkg.addBounded (p : Pkg) (k : Nat) (r : Rec) (ps : List (Option BPos)) (o : Nat) : Nat :=
  let one : CellOp := .fin false 1 0
  accAdd r.accFmt (p.biasFloat k r o)
    (groupValue (ps.map fun q => match q with | some x => (x.op o).mul one | none => .fin false 0 0) 8192)

/-! The vector list (R143) -/

/-- The entries of a record's vector list. -/
def Pkg.vecOf (p : Pkg) (k : Nat) (r : Rec) : List Bytes := if r.vecOff == noOff then [] else vecList (auxArea (p.prog k)) r.vecOff 16

/-- The registers of a vector list: what each holds, with its format, and the flags raised. -/
structure VecState where
  regs  : SMap (Fmt × Nat)
  flags : FpFlags
deriving DecidableEq, Repr

/-- The format of an entry. -/
def vecFmt (e : Bytes) : Fmt := if u8At e 5 == 1 then .fp64 else .fp32

/-- An operand of an entry: the operands the record gives, temporaries, IMM. A temporary that holds nothing, or another format than the
entry's, is a free value. DESIGN CHOICE, log entry 151. -/
def VecState.operand (st : VecState) (src : Nat → Fmt → Option Nat) (free : Nat) (e : Bytes) (c : Nat) : Nat :=
  let f := vecFmt e
  if c == 8 then fieldAt e 8 (f.width / 8)
  else if c == 0 || c == 9 then (src c f).getD free
  else
    match st.regs.find c with
    | some (g, v) => if g = f then v else free
    | none => free

/-- One entry of a vector list (R55, R143). -/
def VecState.entry (src : Nat → Fmt → Option Nat) (free : Nat → Nat) (st : VecState) (n : Nat) (e : Bytes) : VecState :=
  let f := vecFmt e
  let x (j : Nat) : Nat := st.operand src (free (3 * n + j) % 2 ^ f.width) e (u8At e (2 + j))
  let (v, fl) := match u8At e 0 with
    | 1 => f.add (x 0) (x 1)
    | 2 => f.sub (x 0) (x 1)
    | 3 => f.mul (x 0) (x 1)
    | 4 => f.fma (x 0) (x 1) (x 2)
    | 5 => f.div (x 0) (x 1)
    | 6 => f.sqrt (x 0)
    | 7 => f.minNum (x 0) (x 1)
    | _ => f.maxNum (x 0) (x 1)
  { regs := st.regs.put (u8At e 1) (f, v), flags := st.flags.or fl }

/-- Operands that an operation of a vector list reads (R143). -/
def vecArity (e : Bytes) : Nat := if u8At e 0 == 6 then 1 else if u8At e 0 == 4 then 3 else 2

/-- An entry of a vector list reads operand c in format f. -/
def vecReads (c : Nat) (f : Fmt) (e : Bytes) : Bool := vecFmt e == f && (List.range (vecArity e)).any fun j => u8At e (2 + j) == c

/-- A vector list on one element (R143): what destination 0 passes on in format f, and the flags. -/
def vecRun (f : Fmt) (src : Nat → Fmt → Option Nat) (free : Nat → Nat) (es : List Bytes) : Nat × FpFlags :=
  let st := (List.range es.length).foldl (fun (s : VecState) n => s.entry src free n (listGet es n [])) { regs := [], flags := {} }
  let other := free (3 * es.length) % 2 ^ f.width
  (match st.regs.find 0 with
   | some (g, v) => if g = f then v else other
   | none => (src 0 f).getD other, st.flags)

/-! The epilogue of a bounded record (R35, R46, R63, R67) -/

/-- PRE_OP of a bounded record on a value of format f (R46, R59): leaky ReLU is a multiplication of a negative value by 2^-k (R25, R55).
DEDUCED, log entry 62. -/
def Rec.preFloatBy (r : Rec) (f : Fmt) (v : Nat) : Nat × FpFlags :=
  let lim (c : Nat) : Nat := if f = .fp64 then (convert .fp32 .fp64 .rne false c).1 else c
  match r.preCode with
  | 1 => f.maxNum v 0
  | 2 => if (f.decode v).sign && !(f.decode v).isNan then f.mul v (f.round false false 1 (-(r.leakyK : Int))).1 else (v, {})
  | 3 =>
    let a := f.maxNum v (lim r.clampLo)
    let b := f.minNum a.1 (lim r.clampHi)
    (b.1, a.2.or b.2)
  | _ => (v, {})

/-- Draw one stochastic value from each of a list of lanes in turn (R52, R53): the roundings, and the generators after. -/
def drawLanes (R : Nat) : List Nat → List Nat → List Rounding × List Nat
  | [], gens => ([], gens)
  | v :: vs, gens =>
    let (nx, r) := srDraw (listGet gens v 1) R
    let rest := drawLanes R vs (listSet gens v nx)
    (.sr R r :: rest.1, rest.2)

/-- A generator after n draws. -/
def srSkip : Nat → Nat → Nat
  | 0, g => g
  | n + 1, g => srSkip n (srDraw g 1).1

/-- What the seed of a cell's wide re-run is changed by (R97). -/
def wideKey (band y : Nat) : Nat := (band * 2 ^ 32 ^^^ y ^^^ 2 ^ 63) % 2 ^ 64

/-- Vector lanes of work in a format (R53, R96). -/
def lanesOf (f : Fmt) : Nat := if f = .fp64 then 8 else 16

/-- The record's rounding of a row's elements draws (R50, R67): by the record's mode, wherever the outputs are narrower than f. -/
def Rec.draws (r : Rec) (f : Fmt) (wide : Bool) : Bool :=
  r.stoch && (wide || !(r.fmtOut = .fp32 || r.fmtOut = .fp64) || (f = .fp64 && r.fmtOut = .fp32))

/-- The roundings of a row of channels chans of sliver part s (R53, R96, R97), n positions after the start of its generators. -/
def Rec.roundings (r : Rec) (f : Fmt) (seed s n : Nat) (chans : List Nat) : List Rounding :=
  let L := lanesOf f
  let gens := (List.range L).map fun v => srSkip (n * (chans.filter fun c => c % L == v).length) (srSeed seed (s * 16 + v))
  (drawLanes r.srBits (chans.map (· % L)) gens).1

/-- A part of a position from its values to its row (R59, R63, R67): pre-operation, rotation, row stage; mds are the roundings of its
elements. The results of a rotation of binary64 values are free. DESIGN CHOICE, log entry 126. -/
def Pkg.rowFloat (p : Pkg) (kr : Nat × Nat) (r : Rec) (f : Fmt) (g : Nat) (vals : List Nat) (mds : List Rounding) (free : Nat → Nat)
    (wide : Bool) : RowOutB :=
  let pre := vals.map (r.preFloatBy f)
  let v := pre.map (·.1)
  let n := r.rotN
  let u := if n == 0 then v
    else (List.range (v.length / n)).flatMap fun h =>
      if f = .fp64 then (rangeFrom (h * n) n).map fun i => free i % 2 ^ 64
      else rotateBounded ((v.drop (h * n)).take n) n ((rangeFrom (g * r.partCh + h * n) n).map (p.signOf kr.1 r))
  let o := rowBounded f r.fmtOut r.rowMin r.rowMax wide u mds
  { o with flags := pre.foldl (fun a x => a.or x.2) o.flags }

/-! Rearrangement (R113) -/

/-- The code of a moved element: unchanged at the position's exponent, else converted to the record's format, subnormals flushed; UNSUBPIX
converts always. The flags are the convert's (R57). -/
def BPos.moved (p : BPos) (c : Nat) (F : Fmt) (rho : Int) (conv : Bool) : Int × FpFlags :=
  if !conv && p.exp c == rho then (listGet p.q c 0, {})
  else
    let v := F.codeOfVal .rne true ((p.val c).scaleBy (-rho))
    (((if F = .e2m1 then v.1 else F.flush v.1 : Nat) : Int), v.2)

/-- The rows of a position that SUBPIX or UNSUBPIX moves (R113): codes, exponents, whether they are FP16 (log entry 148), and flags. -/
def Rec.moveFloat (r : Rec) (src : List (BPos × Nat)) : List Int × List Int × Bool × FpFlags :=
  let wide := src.any fun e => e.1.wide
  let n := src.length / r.parts
  let outs := (List.range r.parts).map fun g =>
    let es := (src.drop (g * n)).take n
    let rho := es.foldl (fun a e => max a (e.1.exp e.2)) ((es.head?.map fun e => e.1.exp e.2).getD 0)
    (es.map fun e => e.1.moved e.2 (if wide then .fp16 else r.fmtOut) rho (r.op == 3), rho)
  (outs.flatMap fun o => o.1.map (·.1), outs.map (·.2), wide, outs.foldl (fun a o => o.1.foldl (fun b x => b.or x.2) a) {})

/-! The global average (R123) -/

/-- The average of channel c over positions grouped by sliver: sums and division in binary64, the quotient in binary32; the flags are those
of the tiles' sums, which run on vector units. DEDUCED, log entry 152. -/
def gapFloat (slivers : List (List BPos)) (c : Nat) : Nat × FpFlags :=
  let f := Fmt.fp64
  let add (a : Nat × FpFlags) (b : Nat × FpFlags) : Nat × FpFlags := let s := f.add a.1 b.1; (s.1, (a.2.or b.2).or s.2)
  let tile (ps : List BPos) : Nat × FpFlags := ps.foldl (fun a p => add a (f.ofVal .rne false (p.val c))) (0, {})
  let tiles := slivers.map tile
  let S := tiles.foldl (fun a t => (f.add a t.1).1) 0
  let N := max 1 (sumN (slivers.map (·.length)))
  ((convert .fp64 .fp32 .rne false (f.div S (f.round false false N 0).1).1).1, tiles.foldl (fun a t => a.or t.2) {})

end Sys2Proof.Machine
end

