-- ==== Sys2Proof/Machine/Layers.lean ====
section
/-!
DEFINITION. The execution of layer records over feature maps (R31 to R35, R64 to R75, R109 to R127, R162, R163, R230,
R231, R457), in both classes; the order of a bounded record's issues is free (log entry 10).
-/
namespace Sys2Proof.Machine

/-! Feature maps -/

def FMap.zero (w h ch : Nat) : FMap := { w := w, h := h, ch := ch, bcast := false, cells := [] }

/-- Codes and part exponents at a position. -/
def FMap.at (m : FMap) (x y : Nat) : List Int × List Int :=
  (m.cells.find (if m.bcast then 0 else y * 65536 + x)).getD (List.replicate m.ch 0, [0])

def FMap.set (m : FMap) (x y : Nat) (c : List Int × List Int) : FMap := { m with cells := m.cells.put (y * 65536 + x) c }

/-- Mark a position as written in FP16 by a wide re-run, or not. -/
def FMap.mark (m : FMap) (x y : Nat) (wide : Bool) : FMap :=
  { m with wides := if wide then m.wides.put (y * 65536 + x) true else m.wides.del (y * 65536 + x) }

/-- The codes at a position are a wide re-run's. -/
def FMap.wideAt (m : FMap) (x y : Nat) : Bool := m.wides.has (if m.bcast then 0 else y * 65536 + x)

/-- Row y holds something. -/
def FMap.hasRow (m : FMap) (y : Nat) : Bool := m.cells.any fun e => e.1 / 65536 == y

/-- Channel c at a position aligned to a window exponent (R64). -/
def aligned (p : List Int × List Int) (c : Nat) (rhoW : Int) : Int := rshiftRne (listGet p.1 c 0) (rhoW - expOf p c).toNat

/-- The exact value q × 2^ρ of channel c (exponents of exact rows are 0 to 15, R66). -/
def exactValue (p : List Int × List Int) (c : Nat) : Int := listGet p.1 c 0 * 2 ^ (expOf p c).toNat

/-- The window exponent of the real positions read (R64). -/
def windowExp (ps : List (Option (List Int × List Int))) : Int :=
  ps.foldl (fun a p => match p with
    | some q => q.2.foldl max a
    | none => a) (match ps.findSome? id with
    | some q => q.2.headD 0
    | none => 0)

/-- n × 2^-d rounded up, for a scale d of either sign (R159, R59). -/
def scaleDim (n : Nat) (d : Int) : Nat := if d ≥ 0 then ceilDiv n (2 ^ d.toNat) else n * 2 ^ (-d).toNat

/-- floor(y × 2^dv) (R68). -/
def lumaRow (y : Nat) (dv : Int) : Nat := if dv ≥ 0 then y * 2 ^ dv.toNat else y / 2 ^ (-dv).toNat

/-! An execution -/

/-- The execution of an entry's records on one unit: package, luma geometry, the unit's rows, maps and tensors, references,
adapter, allowance used, what the completion reports, statistics and event counts; what changes the records' seeds (R233), and the rows that
each record of the phase computes (R96). -/
structure Exec where
  pkg     : Pkg
  recs    : List (Nat × Nat)
  w       : Nat
  h       : Nat
  y0      : Nat
  rows    : Nat
  maps    : SMap FMap
  refS    : Option FMap
  refL    : Option FMap
  adapter : Option Adapter
  allow   : Nat
  usedX   : Nat
  usedB   : Nat
  wide    : Bool
  sat     : Bool
  stats   : SMap RecStat
  counts  : SMap Nat
  param   : Bool
  phase   : Nat
  video   : Bool
  depth   : Nat
  seedX   : Nat := 0
  rowsOf  : SMap (List Nat) := []
deriving DecidableEq, Repr

/-- Keys of maps: a record's output (odd), a tensor (even; the parameter tensor apart from ŷ, R158). -/
def recKey (kr : Nat × Nat) : Nat := 2 * (2 * kr.2 + kr.1) + 1
def tensKey (t : Tensor) (v : Nat) : Nat := 2 * t.key v
def paramKey (t : Tensor) : Nat := 2 * (t.key 0 + 2 ^ 120)

/-- A key names a SCRATCH tensor (R460). -/
def isScratch (k : Nat) : Bool := k % 2 == 0 && k / 2 % 16 == 1

/-- The map of a tensor, zeros where nothing is written (R460); REF tensors read the references (R210). -/
def Exec.tensorMap (e : Exec) (t : Tensor) (v : Nat) : FMap :=
  let z := FMap.zero (scaleDim e.w t.dh) (scaleDim e.h t.dv) t.chans
  if t.kind == 8 then e.refS.getD z
  else if t.kind == 9 then e.refL.getD z
  else (e.maps.find (tensKey t v)).getD z

/-- The record before (k, i) in the entry with an operation on a virtual plain (R142: rim engine, warp unit). -/
def Exec.unitSource (e : Exec) (kr : Nat × Nat) (ops : List Nat) (v : Nat) : Option (Nat × Nat) :=
  (e.recs.takeWhile fun x => x != kr).reverse.find? fun x =>
    let q := e.pkg.rcd x.1 x.2
    ops.contains q.op && q.vplain == v

/-- A source: its map and, in the parameter part, the row scale by which rows outside the unit are padding (R163). -/
def Exec.source (e : Exec) (kr : Nat × Nat) (c : Nat) : FMap × Option Int :=
  let r := e.pkg.rcd kr.1 kr.2
  let ofRec (x : Nat × Nat) : FMap × Option Int :=
    ((e.maps.find (recKey x)).getD (FMap.zero 0 0 0), if e.param then some (e.pkg.rcd x.1 x.2).vScale else none)
  match srcKind c with
  | 1 => ofRec (kr.1, srcIdx c)
  | 2 =>
    let t := e.pkg.tensor kr.1 c
    (e.tensorMap t r.vplain, if e.param && t.kind != 8 && t.kind != 9 then some t.dv else none)
  | 3 => ((e.unitSource kr [7] r.vplain).map ofRec).getD (FMap.zero 0 0 0, none)
  | 4 => ((e.unitSource kr [6] r.vplain).map ofRec).getD (FMap.zero 0 0 0, none)
  | _ => (FMap.zero 0 0 0, none)

/-- Row y of scale dv belongs to the unit (R68, R159). -/
def Exec.rowIn (e : Exec) (dv : Int) (y : Nat) : Bool :=
  let l := lumaRow y dv
  decide (e.y0 ≤ l) && decide (l < e.y0 + e.rows)

/-- The position (x, y) of a source, none where it is padding (R109, R163). A GAP row is read with exponent 0 (R122, log entry 60). -/
def Exec.read (e : Exec) (s : FMap × Option Int) (x y : Int) : Option (List Int × List Int) :=
  if s.1.bcast then some ((s.1.at 0 0).1, [0])
  else if x < 0 || y < 0 || decide (x ≥ s.1.w) || decide (y ≥ s.1.h) then none
  else
    match s.2 with
    | some dv => if e.rowIn dv y.toNat then some (s.1.at x.toNat y.toNat) else none
    | none => some (s.1.at x.toNat y.toNat)

/-! Package data of a record -/

/-- The integer of a code of an integer format. -/
def intCode (f : Fmt) (c : Nat) : Int :=
  match f.value c with
  | .fin s m e => (if s then -(m : Int) else m) * 2 ^ e.toNat
  | _ => 0

/-- Weight of output channel o, tap (ky, kx), input channel c, of an exact record. -/
def Pkg.weight (p : Pkg) (k : Nat) (r : Rec) (o ky kx c : Nat) : Int :=
  intCode ((Fmt.ofCode r.wFmt).getD .int4) (p.wCode k r (((o * r.kh + ky) * r.kw + kx) * r.cIn + c))

/-- INT32 bias of output channel o. -/
def Pkg.biasInt (p : Pkg) (k : Nat) (r : Rec) (o : Nat) : Int :=
  if r.biasOff == noOff then 0 else sext 32 (u32At (p.wgt k) (r.biasOff + 4 * o))

/-- PRE_OP of an exact record (R35, R59). -/
def Rec.preOp (r : Rec) : PreOp :=
  match r.preCode with
  | 1 => .relu
  | 2 => .leaky r.leakyK
  | 3 => .clamp (sext 32 r.clampLo) (sext 32 r.clampHi)
  | _ => .none

/-- The row stage's fields of an exact record (R59). -/
def Pkg.rowCfg (p : Pkg) (r : Rec) : RowCfg :=
  { outFmt := (Fmt.ofCode r.outFmt).getD .int8, baseShift := r.baseShift, rowMin := r.rowMin, rowMax := r.rowMax, wrap := r.wrap
    preOp := r.preOp
    table := if r.tableOff == noOff then none else some ((List.range 256).map fun i => sext 8 (u8At (p.wgt 0) (r.tableOff + i)))
    rotN := r.rotN }

/-! Positions of exact records -/

/-- The taps of a CONV at an output position (R109): what each reads, in tap order. -/
def Exec.taps (e : Exec) (s : FMap × Option Int) (r : Rec) (x y : Nat) : List (Option (List Int × List Int)) :=
  (List.range r.kh).flatMap fun (j : Nat) => (List.range r.kw).map fun (i : Nat) =>
    e.read s ((x * r.stride : Int) - r.padL + i * r.dil) ((y * r.stride : Int) - r.padT + j * r.dil)

/-- The exact sums of a CONV or RIM_OUT (R32, R64, R65). -/
def Exec.convSums (e : Exec) (kr : Nat × Nat) (r : Rec) (ps : List (Option (List Int × List Int))) (rhoW : Int) : List Int :=
  let xs := ps.map fun p => match p with
    | some q => (List.range r.cIn).map fun c => aligned q c rhoW
    | none => []
  (List.range r.cOut).map fun o =>
    (List.range xs.length).foldl (fun (a : Int) t =>
      let x := listGet xs t []
      (List.range x.length).foldl (fun (b : Int) c => b + e.pkg.weight kr.1 r o (t / r.kw) (t % r.kw) c * listGet x c 0) a)
      (rshiftRne (e.pkg.biasInt kr.1 r o) rhoW.toNat)

/-- adapt (R231): the adapter's terms added to the sums of a target. -/
def adaptSums (t : Target) (acc x : List Int) : List Int :=
  let n := x.length
  let h := (List.range 8).map fun r =>
    narrow (shiftRne ((List.range n).foldl (fun (a : Int) i => a + listGet t.D (r * n + i) 0 * listGet x i 0) 0) (-t.down)) 16 false
  (List.range acc.length).map fun o =>
    let s := (List.range 8).foldl (fun (a : Int) r => a + listGet t.U (o * 8 + r) 0 * listGet h r 0) 0
    listGet acc o 0 + shiftRne s (-t.up)

/-- The sums of a target record with the current adapter (R231, R232). -/
def Exec.adapted (e : Exec) (kr : Nat × Nat) (r : Rec) (ps : List (Option (List Int × List Int))) (rhoW : Int) (acc : List Int) :
    List Int :=
  match e.adapter with
  | none => acc
  | some a =>
    if kr.1 != 0 then acc
    else
      match a.targets.find? fun t => t.rcd == kr.2 with
      | none => acc
      | some t =>
        let x := match listGet ps ((r.kh - 1) / 2 * r.kw + (r.kw - 1) / 2) none with
          | some q => (List.range r.cIn).map fun c => aligned q c rhoW
          | none => List.replicate r.cIn 0
        adaptSums t acc x

/-- What a position of a record gives: codes, part exponents, clipped elements, vector-unit flags (R57), and whether the codes are a bounded
wide re-run's. -/
structure PosOut where
  q       : List Int
  rho     : List Int
  clipped : Nat
  flags   : FpFlags := {}
  wide    : Bool := false
deriving DecidableEq, Repr

/-- The row stage on the parts of a position (R66, R457). -/
def Pkg.rowParts (p : Pkg) (kr : Nat × Nat) (r : Rec) (acc : List Int) (rhoW : Int) (wide : Bool) : PosOut :=
  let n := r.cOut / r.parts
  let outs := (List.range r.parts).map fun g =>
    let cs := rangeFrom (g * n) n
    rowExact (p.rowCfg r) ((acc.drop (g * n)).take n) (cs.map (p.kappaOf kr.1 r)) (cs.map (p.signOf kr.1 r)) rhoW wide
  { q := outs.flatMap (·.q), rho := outs.map (·.rho), clipped := sumN (outs.map (·.clipped)) }

/-- Codes moved without a row stage, each part aligned to the largest exponent it takes (R64, R113). -/
def moveParts (parts : Nat) (src : List ((List Int × List Int) × Nat)) : PosOut :=
  let n := src.length / parts
  let outs := (List.range parts).map fun g =>
    let es := (src.drop (g * n)).take n
    let rho := es.foldl (fun a e => max a (expOf e.1 e.2)) ((es.head?.map fun e => expOf e.1 e.2).getD 0)
    (es.map fun e => aligned e.1 e.2 rho, rho)
  { q := outs.flatMap (·.1), rho := outs.map (·.2), clipped := 0 }

/-- The inputs of SUBPIX or UNSUBPIX at an output position (R113): position and channel of each output channel. -/
def Exec.subpixSrc (e : Exec) (s : FMap × Option Int) (r : Rec) (x y : Nat) : List ((List Int × List Int) × Nat) :=
  let u := r.ups
  let zero : List Int × List Int := (List.replicate s.1.ch 0, [0])
  (List.range r.cOut).map fun c =>
    if r.op == 2 then ((e.read s (x / u : Nat) (y / u : Nat)).getD zero, c * u * u + y % u * u + x % u)
    else
      let k := c % (u * u)
      ((e.read s (x * u + k % u : Nat) (y * u + k / u : Nat)).getD zero, c / (u * u))

/-- gap_divide (R122). -/
def gapDivide (S : Int) (N : Nat) : Int :=
  let k := ceilLog2 N
  let M := (2 ^ (30 + k) + N / 2) / N
  rshiftRne (S * M) (30 + k)

/-- warp_position (R127): output codes and exponent at (x, y). -/
def warpPosition (ref motion : FMap) (r : Rec) (x y : Nat) : PosOut :=
  let mv := (motion.at (min (x / 2 ^ r.dm) (motion.w - 1)) (min (y / 2 ^ r.dm) (motion.h - 1))).1
  let px : Int := (x : Int) * 16 + rshiftRne (listGet mv 0 0) r.hScale.toNat
  let py : Int := (y : Int) * 16 + rshiftRne (listGet mv 1 0) r.vScale.toNat
  let cl (v : Int) (n : Nat) : Nat := (min (max v 0) ((n : Int) - 1)).toNat
  let ix := px / 16
  let iy := py / 16
  let fx := px % 16
  let fy := py % 16
  let taps := [(cl ix ref.w, cl iy ref.h, (16 - fx) * (16 - fy)), (cl (ix + 1) ref.w, cl iy ref.h, fx * (16 - fy)),
               (cl ix ref.w, cl (iy + 1) ref.h, (16 - fx) * fy), (cl (ix + 1) ref.w, cl (iy + 1) ref.h, fx * fy)]
  let live := (taps.filter fun t => t.2.2 != 0).map fun t => (ref.at t.1 t.2.1, t.2.2)
  let rho := live.foldl (fun a t => t.1.2.foldl max a) 0
  { q := (List.range r.cOut).map fun c => rshiftRne (live.foldl (fun (a : Int) t => a + t.2 * aligned t.1 c rho) 0) 8
    rho := [rho], clipped := 0 }

/-- rim_sample (R126). -/
def rimSample (acc kappa rhoW : Int) (outShift : Nat) (wrap video : Bool) (B : Nat) : Int :=
  let v := shiftRne (narrow (shiftRne acc (-kappa)) 32 wrap) ((outShift : Int) - rhoW)
  if video then min (max v 0) ((2 ^ B : Nat) - 1 : Int)
  else min (max v (-((2 ^ (B - 1) : Nat) : Int))) (((2 ^ (B - 1) : Nat) : Int) - 1)

/-- The positions a GAP record reads (R122): its execution's rows. DEDUCED, log entry 60. -/
def Exec.gapPositions (e : Exec) (s : FMap × Option Int) (r : Rec) : List (List Int × List Int) :=
  (List.range s.1.h).flatMap fun y =>
    if e.rowIn r.vScale y then (List.range s.1.w).filterMap fun (x : Nat) => e.read s x y else []

/-- One position of an exact record: output (x, y), narrow or wide. -/
def Exec.exactPos (e : Exec) (kr : Nat × Nat) (r : Rec) (x y : Nat) (wide : Bool) : PosOut :=
  let a := e.source kr r.inA
  match r.op with
  | 1 =>
    let ps := e.taps a r x y
    let rhoW := windowExp ps
    e.pkg.rowParts kr r (e.adapted kr r ps rhoW (e.convSums kr r ps rhoW)) rhoW wide
  | 4 =>
    let b := e.source kr r.inB
    let ps := [e.read a x y, e.read b x y]
    let rhoW := windowExp ps
    let acc := (List.range r.cOut).map fun o =>
      ps.foldl (fun (t : Int) p => match p with | some q => t + aligned q o rhoW | none => t)
        (rshiftRne (e.pkg.biasInt kr.1 r o) rhoW.toNat)
    e.pkg.rowParts kr r acc rhoW wide
  | 5 =>
    let ps := e.gapPositions a r
    let acc := (List.range r.cOut).map fun c => gapDivide (ps.foldl (fun (t : Int) p => t + exactValue p c) 0) (max 1 ps.length)
    e.pkg.rowParts kr r acc 0 wide
  | 6 => warpPosition a.1 (e.source kr r.inB).1 r x y
  | 8 =>
    let ps := e.taps a r (x / r.ups) (y / r.ups)
    let rhoW := windowExp ps
    let acc := e.convSums kr r ps rhoW
    let u := r.ups
    { q := (List.range (r.cOut / (u * u))).map fun c =>
        let o := c * u * u + y % u * u + x % u
        rimSample (listGet acc o 0) (e.pkg.kappaOf kr.1 r o) rhoW r.outShift r.wrap e.video e.depth
      rho := [0], clipped := 0 }
  | _ => moveParts r.parts (e.subpixSrc a r x y)

/-! Positions of bounded records -/

/-- A RIM_IN channel (R125): taps in order tap row, tap column, packed channel. -/
def Exec.rimAcc (e : Exec) (kr : Nat × Nat) (r : Rec) (ps : List (Option (List Int × List Int))) (o : Nat) : Nat :=
  let f := Fmt.fp32
  let bias := if r.biasOff == noOff then 0 else u32At (e.pkg.wgt kr.1) (r.biasOff + 4 * o)
  (List.range ps.length).foldl (fun a t =>
    (List.range r.cIn).foldl (fun b c =>
      let x := match listGet ps t none with
        | some q => (listGet q.1 c 0).toNat
        | none => 0
      let w := (convert .fp16 .fp32 .rne false (e.pkg.wCode kr.1 r (((o * r.kh + t / r.kw) * r.kw + t % r.kw) * r.cIn + c))).1
      f.flush (f.fma w x b).1) a) bias

/-- A position of a source as a bounded record reads it in format f. -/
def Exec.readB (e : Exec) (f : Fmt) (s : FMap × Option Int) (x y : Int) : Option BPos :=
  (e.read s x y).map fun p =>
    let w := s.1.wideAt x.toNat y.toNat
    { q := p.1, rho := p.2, fmt := if w then .fp16 else f, wide := w }

/-- The taps of a bounded CONV at an output position, in tap order (R109). -/
def Exec.tapsB (e : Exec) (s : FMap × Option Int) (r : Rec) (x y : Nat) : List (Option BPos) :=
  (List.range r.kh).flatMap fun (j : Nat) => (List.range r.kw).map fun (i : Nat) =>
    e.readB r.fmtA s ((x * r.stride : Int) - r.padL + i * r.dil) ((y * r.stride : Int) - r.padT + j * r.dil)

/-- The format of a source's codes: what its producer or its table entry declares. DEDUCED, log entry 150. -/
def Exec.srcFmt (e : Exec) (kr : Nat × Nat) (c : Nat) : Fmt :=
  if srcKind c == 1 then (e.pkg.rcd kr.1 (srcIdx c)).fmtOut else (Fmt.ofCode (e.pkg.tensor kr.1 c).fmt).getD .fp32

/-- The positions that a bounded GAP sums, by sliver, in traversal order (R96, R123). -/
def Exec.gapSlivers (e : Exec) (s : FMap × Option Int) (r : Rec) : List (List BPos) :=
  (List.range (ceilDiv s.1.w r.sliverW)).map fun i =>
    (List.range s.1.h).flatMap fun (y : Nat) =>
      if e.rowIn r.vScale y then
        (rangeFrom (i * r.sliverW) (min r.sliverW (s.1.w - i * r.sliverW))).filterMap fun (x : Nat) => e.readB r.fmtA s x y
      else []

/-- The factor by which a record's map spreads its layer grid: RIM_OUT rearranges its outputs by SUBPIX (R126); its H_SCALE and V_SCALE are
those of the grid of its outputs before that. DEDUCED (log entry 20). -/
def Rec.spread (r : Rec) : Nat := if r.op == 8 then max 1 r.ups else 1

/-- Bands of a record's row (R68): column of a band's first position, and count. -/
def bandWidth (dh : Int) : Nat := if dh ≥ 0 then max 1 (256 / 2 ^ dh.toNat) else 256 * 2 ^ (-dh).toNat

/-- The inputs of a bounded SUBPIX or UNSUBPIX at an output position (R113): position and channel of each output channel. -/
def Exec.subpixSrcB (e : Exec) (s : FMap × Option Int) (r : Rec) (x y : Nat) : List (BPos × Nat) :=
  let u := r.ups
  let zero : BPos := { q := List.replicate s.1.ch 0, rho := [0], fmt := r.fmtA, wide := false }
  (List.range r.cOut).map fun c =>
    if r.op == 2 then ((e.readB r.fmtA s (x / u : Nat) (y / u : Nat)).getD zero, c * u * u + y % u * u + x % u)
    else
      let k := c % (u * u)
      ((e.readB r.fmtA s (x * u + k % u : Nat) (y * u + k / u : Nat)).getD zero, c / (u * u))

/-- Columns of a band of the record's map (R68). -/
def Rec.bandCols (r : Rec) : Nat := bandWidth r.hScale * r.spread

/-- The roundings of part g of a position (R53, R96, R97): the narrow pass draws from the generators of its execution, a wide re-run from
those of its cell. DEDUCED, log entry 154. -/
def Exec.roundings (e : Exec) (kr : Nat × Nat) (r : Rec) (f : Fmt) (x y g : Nat) (wide : Bool) : List Rounding :=
  if !r.draws f wide then []
  else
    let W := ((e.maps.find (recKey kr)).getD (FMap.zero 0 0 0)).w
    let i := x / r.sliverW
    let sw := min r.sliverW (W - i * r.sliverW)
    let row := ((e.rowsOf.get (recKey kr) []).takeWhile (· != y)).length
    let band := x / r.bandCols
    let seed := (r.seed ^^^ e.seedX) ^^^ (if wide then wideKey band y else 0)
    let n := if wide then x - max (i * r.sliverW) (band * r.bandCols) else row * sw + x % r.sliverW
    r.roundings f seed (i * r.parts + g) n (rangeFrom (g * r.partCh) r.partCh)

/-- What the free values of a position hang on: the position, the pass, and the codes and exponents of its inputs. -/
def Exec.freeInputs (e : Exec) (kr : Nat × Nat) (r : Rec) (x y : Nat) (wide : Bool) : List Int :=
  let flat (s : FMap × Option Int) : List Int := s.1.cells.flatMap fun c => (c.1 : Int) :: c.2.1 ++ c.2.2
  (x : Int) :: y :: b2n wide :: e.phase :: e.y0 :: e.seedX :: flat (e.source kr r.inA) ++ flat (e.source kr r.inB)

/-- Free value n of output o at a position. -/
def Exec.free (e : Exec) (kr : Nat × Nat) (r : Rec) (x y : Nat) (wide : Bool) (o n : Nat) : Nat :=
  Config.boundedValue (e.pkg.pkgDigest ++ r) (e.freeInputs kr r x y wide) (o * 65536 + n)

/-- The values that a bounded CONV passes to its pre-operation (R42, R143). -/
def Exec.convVals (e : Exec) (kr : Nat × Nat) (r : Rec) (x y : Nat) (wide : Bool) : List (Nat × FpFlags) :=
  let ps := e.tapsB (e.source kr r.inA) r x y
  let es := e.pkg.vecOf kr.1 r
  (List.range r.cOut).map fun o =>
    let acc := e.pkg.convBounded kr.1 r ps wide (Config.issueOrder (e.pkg.pkgDigest ++ r) [x, y, b2n wide, o]) o
    if es.isEmpty then (acc, {})
    else vecRun r.accFmt (fun c f => if c == 0 && f = r.accFmt then some acc else none) (e.free kr r x y wide o) es

/-- The values that a bounded ADD passes to its pre-operation (R113, R143): the sum, or what its vector list makes of the two elements. -/
def Exec.addVals (e : Exec) (kr : Nat × Nat) (r : Rec) (x y : Nat) (wide : Bool) : List (Nat × FpFlags) :=
  let a := e.readB r.fmtA (e.source kr r.inA) x y
  let b := e.readB (e.srcFmt kr r.inB) (e.source kr r.inB) x y
  let es := e.pkg.vecOf kr.1 r
  (List.range r.cOut).map fun o =>
    let elem (q : Option BPos) (f : Fmt) : Nat × FpFlags := match q with
      | some p => f.ofVal .rne false (p.val o)
      | none => (0, {})
    if !es.isEmpty then
      let v := vecRun r.accFmt (fun c f => some (elem (if c == 9 then b else a) f).1) (e.free kr r x y wide o) es
      let reads : List (Nat × Fmt) := ([(0, .fp32), (0, .fp64), (9, .fp32), (9, .fp64)] : List (Nat × Fmt)).filter fun u => es.any (vecReads u.1 u.2)
      (v.1, reads.foldl (fun fl u => fl.or (elem (if u.1 == 9 then b else a) u.2).2) v.2)
    else if e.pkg.kappaOf kr.1 r o != 0 then (e.free kr r x y wide o 0 % 2 ^ r.accFmt.width, {})
    else (e.pkg.addBounded kr.1 r [a, b] o, {})

/-- The averages that a bounded GAP passes to its pre-operation (R123). -/
def Exec.gapVals (e : Exec) (kr : Nat × Nat) (r : Rec) (x y : Nat) (wide : Bool) : List (Nat × FpFlags) :=
  let ps := e.gapSlivers (e.source kr r.inA) r
  (List.range r.cOut).map fun o =>
    if e.pkg.kappaOf kr.1 r o != 0 || !(e.pkg.vecOf kr.1 r).isEmpty then (e.free kr r x y wide o 0 % 2 ^ 32, {})
    else gapFloat ps o

/-- The values that RIM_IN passes to its pre-operation (R125). -/
def Exec.rimVals (e : Exec) (kr : Nat × Nat) (r : Rec) (x y : Nat) : List (Nat × FpFlags) :=
  let ps := e.taps (e.source kr r.inA) r x y
  (List.range r.cOut).map fun o => (e.rimAcc kr r ps o, {})

/-- The rows of a bounded position from the values of its channels, which have format f (R67, R457). -/
def Exec.rowsB (e : Exec) (kr : Nat × Nat) (r : Rec) (f : Fmt) (x y : Nat) (wide : Bool) (vals : List (Nat × FpFlags)) : PosOut :=
  let outs := (List.range r.parts).map fun g =>
    e.pkg.rowFloat kr r f g (((vals.drop (g * r.partCh)).take r.partCh).map (·.1)) (e.roundings kr r f x y g wide)
      (fun i => e.free kr r x y wide (4096 + g) i) wide
  { q := outs.flatMap fun o => o.q.map fun (c : Nat) => (c : Int)
    rho := outs.map (·.rho), clipped := sumN (outs.map (·.clipped))
    flags := outs.foldl (fun a o => a.or o.flags) (vals.foldl (fun a v => a.or v.2) {}), wide := wide }

/-- One position of a bounded record (R25, R113, R123, R125). The rim engine raises no vector-unit flags (log entry 154). -/
def Exec.boundedPos (e : Exec) (kr : Nat × Nat) (r : Rec) (x y : Nat) (wide : Bool) : PosOut :=
  match r.op with
  | 1 => e.rowsB kr r r.accFmt x y wide (e.convVals kr r x y wide)
  | 4 => e.rowsB kr r r.accFmt x y wide (e.addVals kr r x y wide)
  | 5 => e.rowsB kr r .fp32 x y wide (e.gapVals kr r x y wide)
  | 7 => { e.rowsB kr r .fp32 x y wide (e.rimVals kr r x y) with flags := {} }
  | _ =>
    let (q, rho, w, fl) := r.moveFloat (e.subpixSrcB (e.source kr r.inA) r x y)
    { q := q, rho := rho, clipped := 0, flags := fl, wide := w }

/-- One position of a record. -/
def Exec.pos (e : Exec) (kr : Nat × Nat) (r : Rec) (x y : Nat) (wide : Bool) : PosOut :=
  if r.exact then e.exactPos kr r x y wide else e.boundedPos kr r x y wide

/-! Grids, rows and cells -/

/-- The output grid of a record on an input grid (R109, R113, R122, R126, R127). -/
def Rec.outDims (r : Rec) (w h : Nat) : Nat × Nat :=
  let cw := (w + r.padL + r.padR - ((r.kw - 1) * r.dil + 1)) / r.stride + 1
  let ch := (h + r.padT + r.padB - ((r.kh - 1) * r.dil + 1)) / r.stride + 1
  match r.op with
  | 1 => (cw, ch)
  | 7 => (cw, ch)
  | 8 => (cw * r.ups, ch * r.ups)
  | 2 => (w * r.ups, h * r.ups)
  | 3 => (w / r.ups, h / r.ups)
  | 5 => (1, 1)
  | _ => (w, h)

/-- The output channels of a record's map. -/
def Rec.outCh (r : Rec) : Nat := if r.op == 8 then r.cOut / (r.ups * r.ups) else r.cOut

/-- The grid of a source that a record takes as its input: a GAP row stands on the record's own grid (R122). -/
def Exec.inDims (e : Exec) (kr : Nat × Nat) (r : Rec) : Nat × Nat :=
  let a := (e.source kr r.inA).1
  if a.bcast then
    let b := (e.source kr r.inB).1
    if r.op == 4 && !b.bcast then (b.w, b.h) else (scaleDim e.w r.hScale, scaleDim e.h r.vScale)
  else (a.w, a.h)

/-- Give every record of a list its output map, empty where it has none yet or when it runs again. -/
def Exec.prepare (e : Exec) (fresh : Bool) (kr : Nat × Nat) : Exec :=
  let r := e.pkg.rcd kr.1 kr.2
  let (iw, ih) := e.inDims kr r
  let (w, h) := r.outDims iw ih
  match e.maps.find (recKey kr) with
  | some _ => if fresh || r.op == 5 then { e with maps := e.maps.put (recKey kr) { FMap.zero w h r.outCh with bcast := r.op == 5 } } else e
  | none => { e with maps := e.maps.put (recKey kr) { FMap.zero w h r.outCh with bcast := r.op == 5 } }

/-- Input rows that output row y reads: first and count, before clamping to the grid. -/
def Rec.rowsRead (r : Rec) (y : Nat) : List Int :=
  match r.op with
  | 1 => (List.range r.kh).map fun (j : Nat) => (y * r.stride : Int) - r.padT + j * r.dil
  | 7 => (List.range r.kh).map fun (j : Nat) => (y * r.stride : Int) - r.padT + j
  | 8 => (List.range r.kh).map fun (j : Nat) => ((y / r.ups : Nat) : Int) - r.padT + j
  | 2 => [((y / r.ups : Nat) : Int)]
  | 3 => (List.range r.ups).map fun j => ((y * r.ups + j : Nat) : Int)
  | 5 => []
  | 6 => [((y / 2 ^ r.dm : Nat) : Int)]
  | _ => [(y : Int)]

/-- Record m reads what record j of the same entry writes. -/
def Exec.feeds (e : Exec) (j m : Nat × Nat) : Bool :=
  let q := e.pkg.rcd j.1 j.2
  let r := e.pkg.rcd m.1 m.2
  [r.inA, r.inB].any fun c =>
    match srcKind c with
    | 1 => m.1 == j.1 && srcIdx c == j.2
    | 2 => srcKind q.out == 2 && (e.pkg.tensor m.1 c).same (e.pkg.tensor j.1 q.out) r.vplain q.vplain
    | 3 => e.unitSource m [7] r.vplain == some j
    | 4 => e.unitSource m [6] r.vplain == some j
    | _ => false

/-- The rows that each record of a list computes: its unit's rows, and those that later records read early (R68). -/
def Exec.needs (e : Exec) : List (Nat × Nat) → List ((Nat × Nat) × List Nat)
  | [] => []
  | j :: rest =>
    let later := Exec.needs e rest
    let m := (e.maps.find (recKey j)).getD (FMap.zero 0 0 0)
    let r := e.pkg.rcd j.1 j.2
    let asked := if e.param then [] else later.flatMap fun l =>
      if e.feeds j l.1 then l.2.flatMap fun y => (e.pkg.rcd l.1.1 l.1.2).rowsRead y else []
    let rows := if r.op == 5 then [0]
      else (List.range m.h).filter fun y => (e.rowIn r.vScale (y / r.spread) || asked.contains (y : Int)) && (e.param || !m.hasRow y)
    (j, rows) :: later

/-- A cell (R68): record, row, band, and its h in the order of R70. -/
structure Cell where
  h    : Int
  kr   : Nat × Nat
  row  : Nat
  band : Nat
deriving DecidableEq, Repr

/-- Order of cells (R70). DEDUCED, log entry 61. -/
def Cell.before (a b : Cell) : Bool :=
  decide (a.h < b.h) || (a.h == b.h && (decide (recCode a.kr.1 a.kr.2 < recCode b.kr.1 b.kr.2) ||
    (a.kr == b.kr && (decide (a.band < b.band) || (a.band == b.band && decide (a.row < b.row))))))

/-- Insert a cell in order. -/
def insertCell (c : Cell) : List Cell → List Cell
  | [] => [c]
  | d :: ds => if d.before c then d :: insertCell c ds else c :: d :: ds

/-- The rows of its source that a GAP record reads in its execution (R122). -/
def Exec.gapRows (e : Exec) (kr : Nat × Nat) (r : Rec) : List Nat :=
  (List.range (e.source kr r.inA).1.h).filter fun y => e.rowIn r.vScale y

/-- The least h that reads of GAP outputs allow a record, and h of a GAP's own cell (R70), by record, in entry order. A GAP whose rows have no
cells in the execution takes the h of the last row that it reads. DESIGN CHOICE, log entry 161. -/
def Exec.gapFloors (e : Exec) (ns : List ((Nat × Nat) × List Nat)) : SMap Int :=
  ns.foldl (fun m n =>
    let r := e.pkg.rcd n.1.1 n.1.2
    let from_ := (ns.takeWhile fun x => x.1 != n.1).filter fun x => e.feeds x.1 n.1
    if r.op == 5 then
      let rows := e.gapRows n.1 r
      let hs := from_.flatMap fun x =>
        let q := e.pkg.rcd x.1.1 x.1.2
        (x.2.filter fun y => q.op == 5 || rows.contains y).map fun y =>
          if q.op == 5 then m.get (recKey x.1) 0 else max (q.hOf (y / q.spread)) (m.get (recKey x.1) (-1))
      m.put (recKey n.1) (match hs with
        | h :: t => t.foldl max h
        | [] => r.hOf (rows.getLast?.getD 0))
    else
      let low := from_.foldl (fun a x => max a (m.get (recKey x.1) (-1))) (-1)
      if low ≥ 0 then m.put (recKey n.1) low else m) []

/-- The cells of a phase in order (R68, R70). -/
def Exec.cellsOf (e : Exec) (ns : List ((Nat × Nat) × List Nat)) : List Cell :=
  let fl := e.gapFloors ns
  (ns.flatMap fun n =>
    let r := e.pkg.rcd n.1.1 n.1.2
    let m := (e.maps.find (recKey n.1)).getD (FMap.zero 0 0 0)
    n.2.flatMap fun y =>
      (List.range (ceilDiv m.w r.bandCols)).map fun b =>
        { h := if r.op == 5 then fl.get (recKey n.1) 0 else max (r.hOf (y / r.spread)) (fl.get (recKey n.1) (-1)), kr := n.1, row := y, band := b }).foldr
    insertCell []

def RecStat.zero : RecStat :=
  { total := 0, clipped := 0, fp := {}, excess := false, ran := false, spent := false, tamli := false, reruns := 0 }

/-- Count an event of a virtual plain. -/
def Exec.tally (e : Exec) (v n k : Nat) : Exec := { e with counts := e.counts.put (v * 64 + n) (e.counts.get (v * 64 + n) 0 + k) }

/-- What a position of a record writes to a tensor: INT16 vectors with exponent 0 to MOTION (R213), a bounded record's binary32 values to LATENT
(R165), its rows to any other; with the flags of its converts (R57). DEDUCED, log entry 155. -/
def PosOut.tensorRow (p : PosOut) (r : Rec) (kind : Nat) : List Int × List Int × Bool × FpFlags :=
  let b : BPos := { q := p.q, rho := p.rho, fmt := if p.wide then .fp16 else r.fmtOut, wide := p.wide }
  let all := List.range p.q.length
  let join {α : Type} (vs : List (α × FpFlags)) : FpFlags := vs.foldl (fun a v => a.or v.2) {}
  if r.exact then (if kind == 10 then (all.map fun c => narrow (exactValue (p.q, p.rho) c) 16 false, [0], false, {}) else (p.q, p.rho, false, {}))
  else if kind == 10 then
    let vs := all.map fun c => Fmt.int16.intOfVal .rne (b.val c)
    (vs.map (·.1), [0], false, join vs)
  else if kind == 5 then
    let vs := all.map fun c => Fmt.fp32.ofVal .rne false (b.val c)
    (vs.map fun v => ((v.1 : Nat) : Int), [0], false, join vs)
  else (p.q, p.rho, p.wide, {})

/-- The kind of the tensor that a record writes; 0 with none. -/
def Exec.outKind (e : Exec) (kr : Nat × Nat) (r : Rec) : Nat := if srcKind r.out == 2 then (e.pkg.tensor kr.1 r.out).kind else 0

/-- Write one position's codes: the record's map, and its tensor (R142). -/
def Exec.put (e : Exec) (kr : Nat × Nat) (r : Rec) (x y : Nat) (p : PosOut) : Exec :=
  let m := (e.maps.find (recKey kr)).getD (FMap.zero 0 0 r.outCh)
  let e1 := { e with maps := e.maps.put (recKey kr) ((m.set x y (p.q, p.rho)).mark x y (p.wide && !r.exact)) }
  if srcKind r.out != 2 then e1
  else
    let t := e.pkg.tensor kr.1 r.out
    let key := if t.kind == 6 && e.pkg.latentScale t then paramKey t else tensKey t r.vplain
    let tm := (e1.maps.find key).getD { FMap.zero m.w m.h t.chans with bcast := m.bcast }
    let (q, rho, w, _) := p.tensorRow r t.kind
    if t.kind == 10 then { e1 with maps := e1.maps.put key (tm.set x y (q.take 2 ++ (tm.at x y).1.drop 2, rho)) }
    else { e1 with maps := e1.maps.put key ((tm.set x y (q, rho)).mark x y w) }

/-- One cell: the narrow pass, the decision of R71, the final output and its statistics (R66, R67, R69, R71, R75). Bit 0 of EVENTS is set in
RERUN_MODE 0 too (DEDUCED, log entry 162). -/
def Exec.cell (e : Exec) (c : Cell) : Exec :=
  let r := e.pkg.rcd c.kr.1 c.kr.2
  let m := (e.maps.find (recKey c.kr)).getD (FMap.zero 0 0 0)
  let bw := r.bandCols
  let xs := rangeFrom (c.band * bw) (min bw (m.w - c.band * bw))
  let narrowP := xs.map fun x => e.pos c.kr r x c.row false
  let total := xs.length * r.outCh
  let clipped := sumN (narrowP.map (·.clipped))
  let excess := decide (clipped * 65536 > r.clipThr * total)
  let used := if r.exact then e.usedX else e.usedB
  let rerun := excess && r.rerun == 1 && decide (used < e.allow)
  let spent := excess && r.rerun == 1 && !rerun
  let tamli := excess && r.rerun == 2
  let fin := if rerun then xs.map fun x => e.pos c.kr r x c.row true else narrowP
  let key := e.phase * 65536 + recCode c.kr.1 c.kr.2
  let st := e.stats.get key RecStat.zero
  let finClipped := sumN (fin.map (·.clipped))
  let kind := e.outKind c.kr r
  let fl := fin.foldl (fun a p => a.or (p.tensorRow r kind).2.2.2) ((narrowP ++ fin).foldl (fun a p => a.or p.flags) st.fp)
  let st1 : RecStat :=
    { st with total := st.total + total, clipped := st.clipped + finClipped, fp := fl, excess := st.excess || excess, ran := st.ran || rerun
              spent := st.spent || spent, tamli := st.tamli || tamli, reruns := st.reruns + b2n rerun }
  let e1 : Exec :=
    { e with usedX := e.usedX + b2n (rerun && r.exact), usedB := e.usedB + b2n (rerun && !r.exact), wide := e.wide || rerun
             sat := e.sat || spent || tamli, stats := e.stats.put key st1 }
  let staged := !(r.op == 2 || r.op == 3 || r.op == 6 || r.op == 8)
  let e2 := ((((e1.tally r.vplain 7 (if staged then xs.length * r.parts else 0)).tally r.vplain 8 clipped).tally r.vplain 9
    (b2n rerun)).tally r.vplain 10 (b2n tamli)).tally r.vplain 11 (b2n spent)
  let e3 := if r.op == 6 then e2.tally r.vplain 18 xs.length else e2
  (List.range xs.length).foldl (fun t i => t.put c.kr r (listGet xs i 0) c.row (listGet fin i { q := [], rho := [], clipped := 0 })) e3

/-- Run the records of one phase, or of one pass of the context loop, on the unit (R162, R163); each has a statistics entry, whether or not cells
are left for it (R69). -/
def Exec.runPhase (e : Exec) (phase : Nat) (param : Bool) (rs : List (Nat × Nat)) : Exec :=
  let e0 := { e with phase := phase, param := param }
  let e1 := rs.foldl (fun t kr => t.prepare param kr) e0
  let ns := e1.needs rs
  let due := rs.foldl (fun (m : SMap RecStat) kr => m.put (phase * 65536 + recCode kr.1 kr.2) (m.get (phase * 65536 + recCode kr.1 kr.2) RecStat.zero)) e1.stats
  (e1.cellsOf ns).foldl Exec.cell { e1 with stats := due, rowsOf := ns.foldl (fun m n => m.put (recKey n.1) n.2) [] }

/-- The 16 bytes of a statistics entry (R69). -/
def RecStat.entry (s : RecStat) : Bytes :=
  leBytes 6 s.total ++ leBytes 6 s.clipped ++
    leBytes 2 (if s.total == 0 then 0 else min 65535 (s.clipped * 65536 / s.total)) ++ leBytes 1 s.fp.code ++
    leBytes 1 (eventsByte s.excess s.ran s.spent s.tamli s.reruns)

end Sys2Proof.Machine
end

