-- ==== Sys2Proof/Machine/Zstd.lean ====
section
/-!
DEFINITION. Zstandard frames (RFC 8878) as R315 and R316 accept them.
-/
namespace Sys2Proof.Machine

/-- A bit stream read from its end (RFC 8878 4.1): the number of its bytes, and the bits still unread, negative once read past
the beginning. -/
structure Back where
  v   : Nat
  pos : Int
deriving DecidableEq, Repr

/-- A part of a block that ends before what it declares: the status st in place of LL_TRUNCATED_INPUT, which says that SRC_LEN itself ended (R316). -/
def ranOut {α : Type} (st : Nat) (r : LL α) : LL α :=
  match r with
  | .ok x => .ok x
  | .error e => .error (if e == stTruncated then st else e)

/-- Open a reversed stream: the last byte holds the end mark. -/
def Back.start (b : Bytes) : LL Back :=
  let last := (b.getLast?.getD 0).toNat
  if last == 0 then .error stIllegal
  else .ok { v := leNat b, pos := (8 * (b.length - 1) + Nat.log2 last : Nat) }

/-- Read n bits; bits before the beginning read 0. -/
def Back.read (s : Back) (n : Nat) : Nat × Back :=
  let p := s.pos - n
  let x := if p ≥ 0 then s.v / 2 ^ p.toNat % 2 ^ n
           else if s.pos ≥ 0 then (s.v % 2 ^ s.pos.toNat) * 2 ^ (-p).toNat else 0
  (x, { s with pos := p })

/-- One FSE table: for each state the symbol, the bits and the base of the next state. -/
structure Fse where
  acl   : Nat
  cells : List (Nat × Nat × Nat)
deriving DecidableEq, Repr

def Fse.sym (t : Fse) (s : Nat) : Nat := (listGet t.cells s (0, 0, 0)).1
def Fse.nb (t : Fse) (s : Nat) : Nat := (listGet t.cells s (0, 0, 0)).2.1
def Fse.next (t : Fse) (s x : Nat) : Nat := (listGet t.cells s (0, 0, 0)).2.2 + x

/-- Spread the symbols with positive probability: k steps from position pos. -/
def fseSpread (size high : Nat) : List Nat → Nat → List Nat → List Nat
  | [], _, tbl => tbl
  | s :: ss, pos, tbl =>
    let tbl1 := tbl.set pos s
    let step := size / 2 + size / 8 + 3
    let p := (List.range size).foldl (fun (q : Nat) _ => if q > high then (q + step) % size else q) ((pos + step) % size)
    fseSpread size high ss p tbl1

/-- Give each state its transition, in state order; counts hold the next number of each symbol. -/
def fseCells (acl : Nat) : List Nat → List Nat → List (Nat × Nat × Nat)
  | [], _ => []
  | s :: ss, cnt =>
    let x := listGet cnt s 1
    let nb := acl - Nat.log2 x
    (s, nb, x * 2 ^ nb - 2 ^ acl) :: fseCells acl ss (cnt.set s (x + 1))

/-- The FSE table of a distribution, −1 marking less than one (RFC 8878 4.1.1). -/
def fseBuild (acl : Nat) (probs : List Int) : Fse :=
  let size := 2 ^ acl
  let ix := (List.range probs.length).zip probs
  let low := (ix.filter fun e => e.2 == -1).map (·.1)
  let high := size - 1 - low.length
  let tbl0 := (List.replicate (size - low.length) 0) ++ low.reverse
  let seq := ix.flatMap fun e => if e.2 > 0 then List.replicate e.2.toNat e.1 else []
  let tbl := fseSpread size high seq 0 tbl0
  { acl := acl, cells := fseCells acl tbl (probs.map fun p => if p == -1 then 1 else p.toNat) }

/-- An FSE table of one symbol. -/
def fseRle (s : Nat) : Fse := { acl := 0, cells := [(s, 0, 0)] }

/-- Runs of zero probabilities, two bits at a time. -/
def fseZeros : Nat → Cur → LL (Nat × Cur)
  | 0, _ => .error stIllegal
  | n + 1, c => do
    let (x, c1) ← Cur.take 2 c
    if x == 3 then do let (y, c2) ← fseZeros n c1; .ok (3 + y, c2) else .ok (x, c1)

/-- The probabilities of a table description: `remaining` as in RFC 8878 4.1.1, gathered newest first. -/
def fseProbs (maxSym : Nat) : Nat → Nat → List Int → Cur → LL (List Int × Cur)
  | 0, _, _, _ => .error stIllegal
  | n + 1, remaining, rev, c =>
    if remaining == 0 then .ok (rev.reverse, c)
    else if rev.length > maxSym then .error stIllegal
    else do
      let m := remaining + 1
      let nb := Nat.log2 m + 1
      let thr := 2 ^ nb - 1 - m
      let (lo, c1) ← Cur.take (nb - 1) c
      let (v, c2) ← (if lo < thr then .ok (lo, c1) else do
          let (b, c2) ← c1.bit
          let x := lo + b * 2 ^ (nb - 1)
          .ok (if x ≥ 2 ^ (nb - 1) then x - thr else x, c2) : LL (Nat × Cur))
      let p : Int := (v : Int) - 1
      let used := p.natAbs
      if used > remaining then .error stIllegal
      else if p == 0 then do
        let (z, c3) ← fseZeros 256 c2
        fseProbs maxSym n remaining (List.replicate z 0 ++ (0 :: rev)) c3
      else fseProbs maxSym n (remaining - used) (p :: rev) c2

/-- A table description: the table and the bytes after it. -/
def fseRead (maxAcl maxSym : Nat) (b : Bytes) : LL (Fse × Bytes) := do
  let (a, c) ← Cur.take 4 ⟨b, 0⟩
  let acl := a + 5
  if acl > maxAcl then .error stIllegal
  else do
    let (ps, c1) ← fseProbs maxSym (2 ^ acl + 300) (2 ^ acl) [] c
    if ps.length > maxSym + 1 then .error stIllegal else .ok (fseBuild acl ps, c1.align.bs)

/-! Huffman codes of literals -/

/-- Table of 2^maxBits entries: symbol and bits. -/
structure ZHuf where
  maxBits : Nat
  cells   : List (Nat × Nat)
deriving DecidableEq, Repr

/-- The table of a list of weights, the last weight implied (RFC 8878 4.2.1). -/
def zhufOf (ws : List Nat) : LL ZHuf :=
  let sum := sumN (ws.map fun w => if w == 0 then 0 else 2 ^ (w - 1))
  if sum == 0 then .error stIllegal
  else
    let mb := Nat.log2 sum + 1
    let left := 2 ^ mb - sum
    if mb > 11 || !isPow2 left then .error stIllegal
    else
      let all := ws ++ [Nat.log2 left + 1]
      let ix := (List.range all.length).zip all
      .ok { maxBits := mb
            cells := (rangeFrom 1 mb).flatMap fun w => (ix.filter fun e => e.2 == w).flatMap fun e =>
              List.replicate (2 ^ (w - 1)) (e.1, mb + 1 - w) }

/-- The weights of an FSE-compressed description, two states in turn. -/
def zhufWeights (t : Fse) : Nat → Nat → Nat → Back → LL (List Nat)
  | 0, _, _, _ => .error stIllegal
  | n + 1, s1, s2, b =>
    let w := t.sym s1
    if b.pos < (t.nb s1 : Int) then .ok [w, t.sym s2]
    else do
      let (x, b1) := b.read (t.nb s1)
      let r ← zhufWeights t n s2 (t.next s1 x) b1
      .ok (w :: r)

/-- A Huffman tree description: the table and the bytes after it. -/
def zhufRead (b : Bytes) : LL (ZHuf × Bytes) := do
  let (h, c) ← Cur.bytes ⟨b, 0⟩ 1
  let hb := u8At h 0
  if hb ≥ 128 then do
    let n := hb - 127
    let (d, c1) ← c.bytes (ceilDiv n 2)
    let ws := (List.range n).map fun i => let x := u8At d (i / 2); if i % 2 == 0 then x / 16 else x % 16
    let t ← zhufOf ws
    .ok (t, c1.bs)
  else do
    let (d, c1) ← c.bytes hb
    let (t, r) ← fseRead 6 255 d
    let st ← Back.start r
    let (s1, st1) := st.read t.acl
    let (s2, st2) := st1.read t.acl
    if st2.pos < 0 then .error stIllegal
    else do
      let ws ← zhufWeights t 256 s1 s2 st2
      if ws.length > 255 then .error stIllegal
      else do
        let z ← zhufOf ws
        .ok (z, c1.bs)

/-- n literals of one stream. -/
def zhufStream (t : ZHuf) : Nat → Back → LL Bytes
  | 0, b => if b.pos == 0 then .ok [] else .error stOverrun
  | n + 1, b =>
    let (x, _) := b.read t.maxBits
    let (s, nb) := listGet t.cells x (0, 0)
    if b.pos < (nb : Int) then .error stOverrun
    else do
      let r ← zhufStream t n (b.read nb).2
      .ok (BitVec.ofNat 8 s :: r)

def zhufOne (t : ZHuf) (b : Bytes) (n : Nat) : LL Bytes := do
  let s ← Back.start b
  zhufStream t n s

/-! Blocks -/

/-- What a frame carries from block to block. -/
structure ZState where
  huf  : Option ZHuf
  ll   : Option Fse
  off  : Option Fse
  ml   : Option Fse
  reps : List Nat
deriving DecidableEq, Repr

/-- The literals section: literals, Huffman table, the bytes after it. st is the status where the block's bytes end inside the section. -/
def zLiterals (st : Nat) (z : ZState) (b : Bytes) : LL (Bytes × Option ZHuf × Bytes) := do
  let (h1, _) ← ranOut st (Cur.bytes ⟨b, 0⟩ 1)
  let b0 := u8At h1 0
  let typ := b0 % 4
  let sf := b0 / 4 % 4
  if typ < 2 then do
    let hl := if sf == 1 then 2 else if sf == 3 then 3 else 1
    let (h, c) ← ranOut st (Cur.bytes ⟨b, 0⟩ hl)
    let n := leNat h / 2 ^ (if sf == 0 || sf == 2 then 3 else 4)
    if n > 131072 then .error stOverrun
    else if typ == 0 then do
      let (d, c1) ← ranOut st (c.bytes n)
      .ok (d, z.huf, c1.bs)
    else do
      let (d, c1) ← ranOut st (c.bytes 1)
      .ok (List.replicate n (d.headD 0), z.huf, c1.bs)
  else do
    let hl := if sf == 2 then 4 else if sf == 3 then 5 else 3
    let w := if sf == 2 then 14 else if sf == 3 then 18 else 10
    let (h, c) ← ranOut st (Cur.bytes ⟨b, 0⟩ hl)
    let v := leNat h / 16
    let regen := v % 2 ^ w
    let csize := v / 2 ^ w % 2 ^ w
    if regen > 131072 then .error stOverrun
    else do
      let (d, c1) ← ranOut st (c.bytes csize)
      let (t, r) ← (if typ == 2 then ranOut stIllegal (zhufRead d) else match z.huf with
        | some t => .ok (t, d)
        | none => .error stIllegal : LL (ZHuf × Bytes))
      if sf == 0 then do
        let x ← zhufOne t r regen
        .ok (x, some t, c1.bs)
      else do
        let (j, c2) ← ranOut stOverrun (Cur.bytes ⟨r, 0⟩ 6)
        let n1 := u16At j 0
        let n2 := u16At j 2
        let n3 := u16At j 4
        let q := ceilDiv regen 4
        if n1 + n2 + n3 > c2.bs.length || 3 * q > regen then .error stOverrun
        else do
          let x1 ← zhufOne t (c2.bs.take n1) q
          let x2 ← zhufOne t ((c2.bs.drop n1).take n2) q
          let x3 ← zhufOne t ((c2.bs.drop (n1 + n2)).take n3) q
          let x4 ← zhufOne t (c2.bs.drop (n1 + n2 + n3)) (regen - 3 * q)
          .ok (x1 ++ x2 ++ x3 ++ x4, some t, c1.bs)

def zLLDefault : List Int :=
  [4, 3, 2, 2, 2, 2, 2, 2, 2, 2, 2, 2, 2, 1, 1, 1, 2, 2, 2, 2, 2, 2, 2, 2, 2, 3, 2, 1, 1, 1, 1, 1, -1, -1, -1, -1]
def zMLDefault : List Int :=
  [1, 4, 3, 2, 2, 2, 2, 2, 2] ++ List.replicate 37 1 ++ List.replicate 7 (-1)
def zOFDefault : List Int := List.replicate 6 1 ++ [2, 2, 2] ++ List.replicate 15 1 ++ List.replicate 5 (-1)

/-- Base and bits of literal length codes from 16 (RFC 8878 3.1.1.3.2.1.1). -/
def zLLBase : List (Nat × Nat) :=
  [(16, 1), (18, 1), (20, 1), (22, 1), (24, 2), (28, 2), (32, 3), (40, 3), (48, 4), (64, 6), (128, 7), (256, 8), (512, 9),
   (1024, 10), (2048, 11), (4096, 12), (8192, 13), (16384, 14), (32768, 15), (65536, 16)]
/-- Base and bits of match length codes from 32. -/
def zMLBase : List (Nat × Nat) :=
  [(35, 1), (37, 1), (39, 1), (41, 1), (43, 2), (47, 2), (51, 3), (59, 3), (67, 4), (83, 4), (99, 5), (131, 7), (259, 8),
   (515, 9), (1027, 10), (2051, 11), (4099, 12), (8195, 13), (16387, 14), (32771, 15), (65539, 16)]

def zLL (c : Nat) : Nat × Nat := if c < 16 then (c, 0) else listGet zLLBase (c - 16) (0, 0)
def zML (c : Nat) : Nat × Nat := if c < 32 then (c + 3, 0) else listGet zMLBase (c - 32) (0, 0)

/-- One symbol table by its mode. -/
def zTable (mode maxAcl maxSym dAcl : Nat) (dflt : List Int) (prev : Option Fse) (b : Bytes) : LL (Fse × Bytes) :=
  match mode with
  | 0 => .ok (fseBuild dAcl dflt, b)
  | 1 => match b with
    | [] => .error stTruncated
    | x :: r => if x.toNat > maxSym then .error stIllegal else .ok (fseRle x.toNat, r)
  | 2 => fseRead maxAcl maxSym b
  | _ => match prev with
    | some t => .ok (t, b)
    | none => .error stIllegal

/-- The offset of a sequence and the repeated offsets after it (RFC 8878 3.1.1.5). -/
def zOffset (reps : List Nat) (value ll : Nat) : Nat × List Nat :=
  let r (i : Nat) : Nat := listGet reps i 1
  if value > 3 then (value - 3, [value - 3, r 0, r 1])
  else
    let k := if ll == 0 then value else value - 1
    if k == 0 then (r 0, reps)
    else if k == 1 then (r 1, [r 1, r 0, r 2])
    else if k == 2 then (r 2, [r 2, r 0, r 1])
    else (r 0 - 1, [r 0 - 1, r 0, r 1])

/-- Sequences carried out (R316): at most n, then the literals left. -/
def zSeqs (tl tof tm : Fse) (window blockMax start : Nat) : Nat → Nat → Nat → Nat → Back → List Nat → Bytes → Sink →
    LL (Sink × List Nat)
  | 0, _, _, _, b, reps, lits, o => do
    if b.pos != 0 then .error stOverrun
    else do
      let o1 ← Sink.putAll lits o
      if o1.n - start > blockMax then .error stOverrun else .ok (o1, reps)
  | n + 1, sl, so, sm, b, reps, lits, o => do
    let oc := tof.sym so
    let (ox, b1) := b.read oc
    let (mb, me) := zML (tm.sym sm)
    let (mx, b2) := b1.read me
    let (lb, le) := zLL (tl.sym sl)
    let (lx, b3) := b2.read le
    if b3.pos < 0 then .error stOverrun
    else do
      let ll := lb + lx
      let ml := mb + mx
      let (off, reps1) := zOffset reps (2 ^ oc + ox) ll
      if off == 0 then .error stIllegal
      else if off > (o.n + ll) - o.base || off > window then .error stTooFar
      else if ll > lits.length || o.n + ll + ml - start > blockMax then .error stOverrun
      else do
        let o1 ← Sink.putAll (lits.take ll) o
        let o2 ← Sink.copy off ml o1
        if n == 0 then zSeqs tl tof tm window blockMax start n sl so sm b3 reps1 (lits.drop ll) o2
        else do
          let (x, b4) := b3.read (tl.nb sl)
          let (y, b5) := b4.read (tm.nb sm)
          let (w, b6) := b5.read (tof.nb so)
          if b6.pos < 0 then .error stOverrun
          else zSeqs tl tof tm window blockMax start n (tl.next sl x) (tof.next so w) (tm.next sm y) b6 reps1 (lits.drop ll) o2

/-- A compressed block, read in order from the bytes b of it that SRC_LEN holds; cut says that SRC_LEN ends before the block does. Inside a whole block
a section that runs past the block's end is LL_LENGTH_OVERRUN, and a table description that does is invalid (R316). DEDUCED, log entry 160. -/
def zBlock (z : ZState) (window blockMax : Nat) (cut : Bool) (b : Bytes) (o : Sink) : LL (ZState × Sink) := do
  let end_ := if cut then stTruncated else stOverrun
  let tableEnd := if cut then stTruncated else stIllegal
  let (lits, huf, r) ← zLiterals end_ z b
  let (h, c) ← ranOut end_ (Cur.bytes ⟨r, 0⟩ 1)
  let b0 := u8At h 0
  if b0 == 0 then
    if cut || !c.bs.isEmpty then .error stOverrun
    else do
      let o1 ← Sink.putAll lits o
      if o1.n - o.n > blockMax then .error stOverrun else .ok ({ z with huf := huf }, o1)
  else do
    let (n, c1) ← ranOut end_ (if b0 < 128 then .ok (b0, c) else if b0 < 255 then do
        let (x, c1) ← c.bytes 1
        .ok ((b0 - 128) * 256 + leNat x, c1)
      else do
        let (x, c1) ← c.bytes 2
        .ok (leNat x + 0x7F00, c1) : LL (Nat × Cur))
    let (m, c2) ← ranOut end_ (c1.bytes 1)
    let md := u8At m 0
    if md % 4 != 0 then .error stIllegal
    else do
      let (tl, r1) ← ranOut tableEnd (zTable (md / 64) 9 35 6 zLLDefault z.ll c2.bs)
      let (tof, r2) ← ranOut tableEnd (zTable (md / 16 % 4) 8 31 5 zOFDefault z.off r1)
      let (tm, r3) ← ranOut tableEnd (zTable (md / 4 % 4) 9 52 6 zMLDefault z.ml r2)
      if cut then .error stTruncated
      else do
        let st ← Back.start r3
        let (sl, s1) := st.read tl.acl
        let (so, s2) := s1.read tof.acl
        let (sm, s3) := s2.read tm.acl
        if s3.pos < 0 then .error stOverrun
        else do
          let (o1, reps) ← zSeqs tl tof tm window blockMax o.n n sl so sm s3 z.reps lits o
          .ok ({ huf := huf, ll := some tl, off := some tof, ml := some tm, reps := reps }, o1)

/-- The blocks of a frame, at most n. -/
def zBlocks (window : Nat) : Nat → ZState → Bytes → Sink → LL (Bytes × Sink)
  | 0, _, _, _ => .error stTruncated
  | n + 1, z, b, o => do
    let (_, _) ← Cur.byteThat ⟨b, 0⟩ fun x => x / 2 % 4 != 3
    let (h, c) ← Cur.bytes ⟨b, 0⟩ 3
    let v := leNat h
    let typ := v / 2 % 4
    let size := v / 8
    let mx := min window 131072
    if size > mx then .error stOverrun
    else do
      let (z1, r, o1) ← (match typ with
        | 0 => do
          let o1 ← Sink.putAll (c.bs.take size) o
          if c.bs.length < size then .error stTruncated else .ok (z, c.bs.drop size, o1)
        | 1 => do
          let (x, c1) ← c.bytes 1
          let o1 ← Sink.putAll (List.replicate size (x.headD 0)) o
          .ok (z, c1.bs, o1)
        | _ => do
          let (z1, o1) ← zBlock z window mx (decide (c.bs.length < size)) (c.bs.take size) o
          .ok (z1, c.bs.drop size, o1) : LL (ZState × Bytes × Sink))
      if v % 2 == 1 then .ok (r, o1) else zBlocks window n z1 r o1

/-- One frame after its magic number. -/
def zFrame (b : Bytes) (o : Sink) : LL (Bytes × Sink) := do
  let (d, c) ← Cur.byteThat ⟨b, 0⟩ fun x => !bitAt x 3
  let single := bitAt d 5
  let size (x : Nat) : Nat := 2 ^ (10 + x / 8) + 2 ^ (10 + x / 8) / 8 * (x % 8)
  let (w, c1) ← (if single then .ok (0, c) else c.byteThat fun x => decide (size x ≤ 2 ^ 27) : LL (Nat × Cur))
  let (di, c2) ← c1.bytes (listGet [0, 1, 2, 4] (d % 4) 0)
  if leNat di != 0 then .error stIllegal
  else do
    let fl := d / 64
    let (fc, c3) ← c2.bytes (if fl == 0 then (if single then 1 else 0) else listGet [1, 2, 4, 8] fl 0)
    let fcs := leNat fc + (if fl == 1 then 256 else 0)
    let window := if single then fcs else size w
    if window > 2 ^ 27 then .error stIllegal
    else do
      let z : ZState := { huf := none, ll := none, off := none, ml := none, reps := [1, 4, 8] }
      let (r, o1) ← zBlocks window (c3.bs.length + 1) z c3.bs { o with base := o.n }
      if !fc.isEmpty && o1.n - o1.base != fcs then .error stOverrun
      else if bitAt d 2 then do
        let (t, c4) ← Cur.bytes ⟨r, 0⟩ 4
        if leNat t != xxh64 o1.stream % 2 ^ 32 then .error stCheck else .ok (c4.bs, o1)
      else .ok (r, o1)

/-- Frames and skippable frames in sequence, at most n. -/
def zFrames : Nat → Bytes → Sink → LL Bytes
  | 0, _, _ => .error stTruncated
  | n + 1, b, o => do
    let (m, c) ← Cur.bytes ⟨b, 0⟩ 4
    let magic := leNat m
    let (r, o1) ← (if magic == 0xFD2FB528 then zFrame c.bs o
      else if magic / 16 == 0x184D2A5 then do
        let (l, c1) ← c.bytes 4
        let (_, c2) ← c1.bytes (leNat l)
        .ok (c2.bs, o)
      else .error stIllegal : LL (Bytes × Sink))
    if r.isEmpty then .ok o1.rev.reverse else zFrames n r o1

/-- FORMAT 3 (R315), with the ranges of the output that cannot be read back. -/
def inflateZstd (b : Bytes) (cap : Nat) (holes : List (Nat × Nat)) : LL Bytes := zFrames (b.length + 1) b { sink0 cap with holes := holes }

/-- LL_DECOMP by FORMAT (R311). -/
def decompress (format : Nat) (b : Bytes) (cap : Nat) (holes : List (Nat × Nat)) : LL Bytes :=
  match format with
  | 0 => inflateRaw b cap
  | 1 => inflateZlib b cap
  | 2 => inflateGzip b cap
  | _ => inflateZstd b cap holes

end Sys2Proof.Machine
end

