-- ==== Sys2Proof/Machine/Copies.lean ====
section
/-!
DEFINITION. COPY2D (R303 to R306), LL_COMP and LL_DECOMP (R311 to R319), the suspension of host LL jobs, and the ring
commands (R287 to R302) as commands of the block.
-/
namespace Sys2Proof.Machine

/-! Ring commands -/

def execNop (d : Desc) (s : State) : Out := .next (s.onDev fun v => v.runDesc d 0x01 Dev.nopOp)
def execFence (d : Desc) (s : State) : Out := .next (s.onDev fun v => v.runDesc d 0x02 Dev.fenceOp)
def execLoad (f : Fin 64) (s : State) : Out := .next (s.disarm.onDev fun v => v.loadOp f)
def execModTime (f : Fin 64) (c : Fin 64) (s : State) : Out := .next (s.onDev fun v => v.modTimeOp f c)
def execMsixPendingSend (f : Fin 64) (v : Fin 32) (s : State) : Out := .next (s.onDev fun d => d.msixPendingOp f v)

/-! Free bytes -/

/-- n bytes that the spec leaves undefined, each free (log entry 2). -/
def Dev.freeBytes (s : Dev) (n : Nat) : Bytes × Dev :=
  ((List.range n).map (Config.freeByte s.sys.free), { s with sys := { s.sys with free := s.sys.free + 1 } })

/-- Store bytes in either space without a fault. -/
def Dev.putSpace (s : Dev) (space : Bool) (a : Nat) (b : Bytes) : Dev := if space then s.putDev a b else s.putHost a b

/-! COPY2D -/

/-- The operands of COPY2D (R303). -/
structure Copy where
  spS   : Bool
  spD   : Bool
  src   : Int
  dst   : Int
  width : Nat
  rows  : Nat
  sS    : Int
  sD    : Int
deriving DecidableEq, Repr

def copyOf (b : Bytes) : Copy :=
  { spS := bitAt (spacesOf b) 0, spD := bitAt (spacesOf b) 1, src := u64At b 16, dst := u64At b 24, width := u32At b 32
    rows := u32At b 36, sS := sext 32 (u32At b 40), sD := sext 32 (u32At b 44) }


/-- Whether every byte of a rectangle may be named (R285, R303). -/
def Dev.rectOk (s : Dev) (f : Nat) (space : Bool) (a st : Int) (width rows : Nat) : Bool :=
  let (lo, hi) := extent a st width rows
  decide (0 ≤ lo) &&
    (if space then (List.range rows).all fun r => s.permitted f (a + (r : Int) * st).toNat width
     else decide (hi ≤ (2 ^ 64 : Nat)))

/-- Read the rows of a rectangle; none where a read fails. -/
def Dev.readRows (s : Dev) (space : Bool) (a st : Int) (width : Nat) : Nat → Nat → Option (List Bytes)
  | 0, _ => some []
  | n + 1, r =>
    match s.readSpace space (a + (r : Int) * st).toNat width with
    | none => none
    | some x => (Dev.readRows s space a st width n (r + 1)).map (x :: ·)

/-- Store rows of bytes at their addresses, lowest row first, without a fault (R304). -/
def Dev.putRows (s : Dev) (space : Bool) (a st : Int) : List Bytes → Nat → Dev
  | [], _ => s
  | x :: xs, r => Dev.putRows (s.putSpace space (a + (r : Int) * st).toNat x) space a st xs (r + 1)


/-- The source stride of R305: that of the destination where there is one row. -/
def Copy.stride (c : Copy) : Int := if c.rows == 1 then c.sD else c.sS

/-- The extents of a copy's rectangles lie in one space and overlap (R305). -/
def Copy.overlapping (c : Copy) : Bool :=
  let (a, b) := extent c.src c.sS c.width c.rows
  let (x, y) := extent c.dst c.sD c.width c.rows
  c.spS == c.spD && decide (a < y) && decide (x < b)

/-- A copy is staged (R305). -/
def Copy.staged (c : Copy) : Bool := c.overlapping && c.stride != c.sD

/-- The traversal of R305, with overlap and S = D where Δ is positive: bytes descending. -/
def Copy.bytesDown (c : Copy) : Bool := c.overlapping && !c.staged && decide (c.dst > c.src)

/-- The traversal of R305: rows descending, where bytes descend and S is positive, or where bytes ascend with overlap and S is negative. -/
def Copy.rowsDown (c : Copy) : Bool :=
  if c.bytesDown then decide (c.stride > 0) else c.overlapping && !c.staged && decide (c.stride < 0)

/-- The numbers below n in rising or falling order. -/
def upOrDown (down : Bool) (n : Nat) : List Nat := if down then (List.range n).reverse else List.range n

/-- Addresses of element (r, i) at the source and at the destination (R303). -/
def Copy.srcAt (c : Copy) (r i : Nat) : Nat := (c.src + (r : Int) * c.sS + (i : Int)).toNat
def Copy.dstAt (c : Copy) (r i : Nat) : Nat := (c.dst + (r : Int) * c.sD + (i : Int)).toNat

/-- The read or the write of n bytes of a row from element (r, i) fails (R301). -/
def Dev.elemFails (s : Dev) (c : Copy) (r i n : Nat) : Bool :=
  (!c.spS && s.hostFails false (c.srcAt r i) n) || (!c.spD && s.hostFails true (c.dstAt r i) n)

/-- One row of a copy that is not staged, in the order of R305, with the source as it stood before the copy (R304): each element is read and written
in turn, up to the first whose access fails; the answer says whether the copy goes on (R306). -/
def Dev.copyRow (c : Copy) (src0 : Mem) (x : Dev × Bool) (r : Nat) : Dev × Bool :=
  if !x.2 then x
  else if !x.1.elemFails c r 0 c.width then (x.1.putSpace c.spD (c.dstAt r 0) (src0.readN (c.srcAt r 0) c.width), true)
  else
    (((upOrDown c.bytesDown c.width).takeWhile fun i => !x.1.elemFails c r i 1).foldl
      (fun t i => t.putSpace c.spD (c.dstAt r i) [src0.read (c.srcAt r i)]) x.1, false)

/-- The copy that is not staged, row by row in the order of R305, and whether every access succeeded. -/
def Dev.copyRows (s : Dev) (c : Copy) : Dev × Bool :=
  (upOrDown c.rowsDown c.rows).foldl (Dev.copyRow c (if c.spS then s.dmem else s.hmem)) (s, true)

/-- A staged copy whose write fails: R305 gives the order of its writes no rule, so each byte whose own write does not fail holds its old or its new
value, as free values decide (R306; log entry 2). -/
def Dev.stagedPart (c : Copy) (s : Dev) : List Bytes → Nat → Dev
  | [], _ => s
  | x :: xs, r =>
    let (ch, t) := s.freeBytes x.length
    let new (i : Nat) : Bool := (listGet ch i 0).toNat % 2 == 1 && (c.spD || !s.hostFails true (c.dstAt r i) 1)
    Dev.stagedPart c ((List.range x.length).foldl (fun u i => if new i then u.putSpace c.spD (c.dstAt r i) [listGet x i 0] else u) t) xs (r + 1)

/-- The staged copy, given the rows that were read: all written, or in part where a write fails. -/
def Dev.writeStaged (s : Dev) (c : Copy) (rows : List Bytes) : Dev × Bool :=
  if !c.spD && (List.range c.rows).any (fun r => s.hostFails true (c.dstAt r 0) c.width) then (Dev.stagedPart c s rows 0, false)
  else (s.putRows c.spD c.dst c.sD rows 0, true)

/-- TX_BYTES of a copy into host memory that came to its end (R418). -/
def Dev.copySent (s : Dev) (c : Copy) : Dev := if c.spD then s else s.count (ev 11 1) (c.width * c.rows)

/-- COPY2D given the granules that streams reserve and those free to a staged copy (R303 to R306). DEDUCED, log entry 142. -/
def Dev.copyOp (s : Dev) (a : Acc) (reserved free : Nat) : Dev :=
  let c := copyOf a.raw
  if c.width == 0 || c.rows == 0 || c.width * c.rows > 2 ^ 26 || (c.rows > 1 && decide (c.sD.natAbs < c.width)) ||
      !(s.rectOk a.func c.spS c.src c.sS c.width c.rows && s.rectOk a.func c.spD c.dst c.sD c.width c.rows) then
    s.complete a stBAD 0 0 none
  else
    let g := ceilDiv (c.width * c.rows) 65536
    if c.staged && decide (g + reserved > s.poolGranules) then s.complete a stADMISSION 0 0 none
    else if c.staged && decide (g > free) then s
    else
      let out : Dev × Bool :=
        if c.staged then
          let s1 := s.count (ev 11 9) 1
          match s1.readRows c.spS c.src c.sS c.width c.rows 0 with
          | none => (s1, false)
          | some rows => s1.writeStaged c rows
        else s.copyRows c
      if out.2 then (out.1.copySent c).complete a stDONE 0 0 none else (out.1.dataFault a.func a.ring).complete a stCOPY 0 0 none

/-! Lossless jobs -/

def Dev.lle (s : Dev) (e : Nat) : Lle := listGet s.units.lles e Lle.reset
def Dev.setLle (s : Dev) (e : Nat) (x : Lle) : Dev := { s with units := { s.units with lles := s.units.lles.set e x } }

/-- Count up a saturating register. -/
def Dev.bump (s : Dev) (a n : Nat) : Dev := s.setRegN a (min (s.regN a + n) 0xFFFFFFFF)

/-- The operands of an LL job are in range (R294, R311, R318). -/
def Dev.llOk (s : Dev) (a : Acc) (comp : Bool) : Bool :=
  let b := a.raw
  let sp := spacesOf b
  let (src, n, dst, cap) := (u64At b 16, u64At b 24, u64At b 32, u64At b 40)
  let fmt := u8At b 48
  let lvl := u8At b 49
  let ok (x : Nat) : Bool := decide (1 ≤ x) && decide (x < 2 ^ 32)
  ok n && ok cap && (if comp then decide (fmt ≤ 2) && decide (lvl ≤ 9) else decide (fmt ≤ 3) && lvl == 0) &&
    s.addrOk a.func (bitAt sp 0) src n && s.addrOk a.func (bitAt sp 1) dst cap &&
    !(bitAt sp 0 == bitAt sp 1 && overlaps src n dst cap)

/-- An LL job ends without its output: RESULT 0, its destination undefined (R317). -/
def Dev.llFail (s : Dev) (a : Acc) (status : Nat) : Dev :=
  let (f, s1) := s.freeBytes (u64At a.raw 40)
  let s2 := s1.putSpace (bitAt (spacesOf a.raw) 1) (u64At a.raw 32) f
  let s3 := if status == stABORTED then s2 else s2.bump (LLE + 0x14) 1
  ((s3.bump (LLE + 0x10) 1).count (ev 13 2) 1).complete a status 0 0 none

/-- The bytes of a destination of cap bytes at dst that the device cannot read back (R301, R315), as first byte and length. -/
def Dev.unreadable (s : Dev) (space : Bool) (dst cap : Nat) : List (Nat × Nat) :=
  if space then []
  else (s.sys.hostFaults.filter fun h => !h.write && overlaps dst cap h.addr h.len).map
    fun h => (h.addr - dst, h.addr + h.len - max h.addr dst)

/-- An LL job runs to its end (R313 to R317). -/
def Dev.llRun (s : Dev) (a : Acc) : Dev :=
  let b := a.raw
  let sp := spacesOf b
  let n := u64At b 24
  let cap := u64At b 40
  match s.readSpace (bitAt sp 0) (u64At b 16) n with
  | none => (s.dataFault a.func a.ring).llFail a stABORTED
  | some src =>
    let out : LL Bytes :=
      if opcodeOf b == 0x70 then
        let c := compress (u8At b 48) (u8At b 49) src
        if c.length ≤ cap then .ok c else .error stFull
      else decompress (u8At b 48) src cap (s.unreadable (bitAt sp 1) (u64At b 32) cap)
    let s1 := s.count (ev 13 0) n
    match out with
    | .error st => (if st == stABORTED then s1.dataFault a.func a.ring else s1).llFail a st
    | .ok o =>
      match s1.writeSpace (bitAt sp 1) (u64At b 32) o with
      | none => (s1.dataFault a.func a.ring).llFail a stABORTED
      | some t => (((t.count (ev 13 1) o.length).bump (LLE + 0x10) 1).count (ev 13 2) 1).complete a stDONE o.length 0 none

/-- The first engine that a predicate admits. -/
def Dev.findLle (s : Dev) (p : Lle → Bool) : Option Nat := (List.range 4).find? fun e => !(s.lle e).failed && p (s.lle e)

/-- Descriptor a goes before b among best-effort work that waits (R277): the earlier release, which is its acceptance, then the lower function, then
the lower ring. -/
def Acc.before (a b : Acc) : Bool :=
  decide (a.time < b.time) || (a.time == b.time && (decide (a.func < b.func) || (a.func == b.func && (decide (a.ring < b.ring) ||
    (a.ring == b.ring && decide (a.seq < b.seq))))))

/-- The host jobs that wait for an engine and go before descriptor a (R277, R319). -/
def Dev.llAhead (s : Dev) (a : Acc) : Nat :=
  (s.host.accepted.filter fun b => llOpcode (opcodeOf b.raw) && b.stage == .waiting && b.before a && !s.fenced b && !s.serialised b).length

/-- The engines that no host job holds. -/
def Dev.llFree (s : Dev) : Nat := ((List.range 4).filter fun e => !(s.lle e).failed && (s.lle e).job.isNone).length

/-- LL_COMP and LL_DECOMP (R277, R318, R319): on a free engine at once; on one that runs a booked segment, suspended in it; where those that
go before it take every engine that is free, the job waits. DESIGN CHOICE, log entry 50. -/
def Dev.llOp (comp : Bool) (a : Acc) (s : Dev) : Dev :=
  if !s.llOk a comp then s.complete a stBAD 0 0 none
  else if s.llAhead a ≥ s.llFree then s
  else
    match s.findLle fun l => l.job.isNone && !l.segment with
    | some _ => s.llRun a
    | none =>
      match s.findLle fun l => l.job.isNone with
      | some e => ((s.setLle e { s.lle e with job := some a.seq, suspended := true }).setStage a.seq .begun).count (ev 13 3) 1
      | none => s

def execLlComp (d : Desc) (s : State) : Out := .next (s.onDev fun v => v.runDesc d 0x70 (Dev.llOp true))
def execLlDecomp (d : Desc) (s : State) : Out := .next (s.onDev fun v => v.runDesc d 0x71 (Dev.llOp false))

/-- LL_SUSPEND (R319): a booked segment reaches the engine. -/
def Dev.llSuspendOp (s : Dev) (e : Nat) : Dev :=
  let l := s.lle e
  if !s.working || l.failed then s
  else
    let s1 := s.setLle e { l with segment := true, suspended := l.job.isSome }
    if l.job.isSome && !l.suspended then s1.count (ev 13 3) 1 else s1

def execLlSuspend (e : Fin 4) (s : State) : Out := .next (s.onDev fun v => v.llSuspendOp e)

/-- LL_RESUME (R319): the engine is free of booked segments again, and its host job runs to its end. -/
def Dev.llResumeOp (s : Dev) (e : Nat) : Dev :=
  let l := s.lle e
  if !s.working || l.failed then s
  else
    let s1 := s.setLle e { l with segment := false, suspended := false, job := none }
    match l.job with
    | none => s1
    | some q =>
      match s1.accOf q with
      | some a => s1.llRun a
      | none => s1

def execLlResume (e : Fin 4) (s : State) : Out := .next (s.onDev fun v => v.llResumeOp e)

end Sys2Proof.Machine
end

