-- ==== Sys2Proof/Machine/Pool.lean ====
section
/-!
DEFINITION. The frame pool (R214 to R219): buffer records, reservations, POOL_MARK, and COPY2D's use of the pool (R305).
-/
namespace Sys2Proof.Machine

/-- State numbers of a buffer report (R218). -/
def BufState.code : BufState → Nat
  | .free => 0 | .writing => 1 | .refShort => 2 | .refLong => 3 | .outputPending => 4 | .hostHeld => 5

def Buf.none : Buf :=
  { state := .free, owner := 0, gen := 0, base := 0, granules := 0, pins := 0, releaseDue := false, stream := Option.none, output := false }

/-- Buffer record i. -/
def Dev.buf (s : Dev) (i : Nat) : Buf := s.media.pool.get i Buf.none

def Dev.setBuf (s : Dev) (i : Nat) (b : Buf) : Dev := { s with media := { s.media with pool := s.media.pool.put i b } }

/-- The handle of buffer record i (R215). -/
def Dev.bufHandle (s : Dev) (i : Nat) : Nat := i + 4096 * (s.buf i).gen

/-- Buffer record i returns to FREE: its generation goes up (R215). -/
def Dev.freeBuf (s : Dev) (i : Nat) : Dev :=
  let b := s.buf i
  let t := s.setBuf i { Buf.none with gen := (b.gen + 1) % 2 ^ 20 }
  { t with media := { t.media with feats := t.media.feats.del i } }

/-- Runs of granules that are taken: base address and granules (allocated buffers, and the reservations of open streams,
R217). -/
def Dev.poolTaken (s : Dev) : List (Nat × Nat) :=
  (s.media.pool.filter fun e => e.2.state != .free && (e.2.stream.isNone)).map (fun e => (e.2.base, e.2.granules)) ++
    s.media.streams.flatMap fun e =>
      e.2.featSpans.map (fun b => (b, e.2.featGran)) ++ e.2.outSpans.map fun b => (b, e.2.outGran)

/-- Granules neither allocated nor reserved (HBM_POOL_FREE, R214). -/
def Dev.poolFree (s : Dev) : Nat := s.poolGranules - sumN (s.poolTaken.map (·.2))

/-- Granules that streams reserve (R217, R305). -/
def Dev.poolReserved (s : Dev) : Nat :=
  sumN (s.media.streams.map fun e => e.2.featSpans.length * e.2.featGran + e.2.outSpans.length * e.2.outGran)

/-- Buffer records not FREE (INUSE, R214). -/
def Dev.poolInUse (s : Dev) : Nat := (s.media.pool.filter fun e => e.2.state != .free).length

/-- Buffer records that stream i reserves and does not use. -/
def Dev.streamUnused (s : Dev) (i : Nat) (x : Stream) : Nat :=
  x.featSpans.length + x.outSpans.length - (s.media.pool.filter fun e => e.2.stream == some i && e.2.state != .free).length

/-- Buffer records reserved and not in use (RSV, R214). -/
def Dev.poolRsv (s : Dev) : Nat := sumN (s.media.streams.map fun e => s.streamUnused e.1 e.2)

/-- Records neither in use nor reserved. -/
def Dev.recordsFree (s : Dev) : Nat := 4096 - s.poolInUse - s.poolRsv

/-- The lowest FREE buffer record. -/
def Dev.freeRecord (s : Dev) : Option Nat := findFrom (fun i => (s.buf i).state == .free) 4096 0

/-- The lowest run of n granules of the pool that meets none of the runs given. DESIGN CHOICE, log entry 53. -/
def Dev.freeRun (s : Dev) (taken : List (Nat × Nat)) (n : Nat) : Option Nat :=
  let base := s.regN (HBM + 0x100) * granule
  let top := base + s.poolGranules * granule
  let starts := base :: taken.map fun e => e.1 + e.2 * granule
  let ok (a : Nat) : Bool := decide (base ≤ a) && decide (a + n * granule ≤ top) &&
    taken.all fun e => e.2 == 0 || n == 0 || decide (a + n * granule ≤ e.1) || decide (e.1 + e.2 * granule ≤ a)
  (starts.filter ok).foldl (fun m a => match m with
    | some b => some (min a b)
    | none => some a) none

/-- Runs for k buffers of n granules each, reserved one after another. -/
def Dev.freeRuns (s : Dev) (n : Nat) : Nat → List (Nat × Nat) → Option (List Nat)
  | 0, _ => some []
  | k + 1, taken =>
    match s.freeRun taken n with
    | none => none
    | some a => (Dev.freeRuns s n k ((a, n) :: taken)).map (a :: ·)

/-- A buffer of stream i enters WRITING in its reservation (R216, R217): the record's number, none where all are in use. -/
def Dev.takeBuf (s : Dev) (i : Nat) (x : Stream) (output : Bool) : Option (Nat × Dev) :=
  let mine := (s.media.pool.filter fun e => e.2.stream == some i && e.2.state != .free && e.2.output == output)
  let spans := if output then x.outSpans else x.featSpans
  if mine.length ≥ spans.length then none
  else
    let gran := if output then x.outGran else x.featGran
    let base := if gran == 0 then spans.headD 0 else (spans.find? fun b => !(mine.any fun e => e.2.base == b)).getD 0
    s.freeRecord.map fun n =>
      let b := s.buf n
      (n, s.setBuf n { b with state := .writing, owner := x.func, base := base, granules := gran, pins := 0, releaseDue := false
                              stream := some i, output := output })

/-- A buffer that a descriptor of function f may name by handle, in one of the states given (R215, R219). -/
def Dev.bufNamed (s : Dev) (f h : Nat) (states : List BufState) : Option Nat :=
  let i := h % 4096
  let b := s.buf i
  if h < 2 ^ 32 && b.gen == h / 4096 && b.owner == f && states.contains b.state && !b.releaseDue then some i else none

/-- Remove one pin; a deferred RELEASE takes effect with the last (R219). -/
def Dev.unpin (s : Dev) (i : Nat) : Dev :=
  let b := s.buf i
  let n := b.pins - 1
  if n == 0 && b.releaseDue then s.freeBuf i else s.setBuf i { b with pins := n }

/-- RELEASE of a HOST_HELD buffer, deferred while it is pinned (R216, R219). -/
def Dev.releaseBuf (s : Dev) (i : Nat) : Dev :=
  let b := s.buf i
  if b.pins == 0 then s.freeBuf i else s.setBuf i { b with releaseDue := true }

/-! POOL_MARK -/

/-- The buffer report and the completion (R218). -/
def Dev.poolDone (s : Dev) (a : Acc) (handle : Nat) (state : BufState) (base : Nat) : Dev :=
  let addr := u64At a.raw 32
  if addr == 0 then s.complete a stDONE handle 0 none
  else
    match s.hostWrite addr (leBytes 4 handle ++ leBytes 1 state.code ++ leBytes 3 0 ++ leBytes 8 base) with
    | some t => t.complete a stDONE handle 0 none
    | none => (s.dataFault a.func a.ring).complete a stABORTED 0 0 none

/-- The operands of a POOL_MARK other than its buffer are in range (R218, R294). -/
def poolArgsOk (alloc : Bool) (b : Bytes) : Bool :=
  decide (u64At b 32 + 16 ≤ 2 ^ 64) &&
    (if alloc then handleOf b == 0 && decide (1 ≤ u64At b 24) && decide (u64At b 24 ≤ 2 ^ 26) else zeroAt b 24 8)

/-- ALLOC (R218). -/
def Dev.poolAllocOp (a : Acc) (s : Dev) : Dev :=
  if !poolArgsOk true a.raw then s.complete a stBAD 0 0 none
  else
    let n := ceilDiv (u64At a.raw 24) granule
    match s.freeRecord, s.freeRun s.poolTaken n with
    | some i, some base =>
      if s.recordsFree == 0 || n > s.poolFree then s.complete a stADMISSION 0 0 none
      else
        let b := s.buf i
        let t := s.setBuf i { b with state := .hostHeld, owner := a.func, base := base, granules := n, pins := 0, releaseDue := false
                                     stream := none, output := false }
        t.poolDone a (t.bufHandle i) .hostHeld base
    | _, _ => s.complete a stADMISSION 0 0 none

/-- A buffer that TAKE and DISCARD accept (R218): OUTPUT_PENDING of a stream of the function without AUTO_COPY. -/
def Dev.takable (s : Dev) (a : Acc) : Option Nat :=
  match s.bufNamed a.func (handleOf a.raw) [.outputPending] with
  | none => none
  | some i =>
    match (s.buf i).stream.bind fun n => s.media.streams.find n with
    | some x => if bitAt (u8At x.param 25) 3 then none else some i
    | none => none

/-- TAKE (R218). -/
def Dev.poolTakeOp (a : Acc) (s : Dev) : Dev :=
  match s.takable a with
  | some i =>
    if poolArgsOk false a.raw then
      let t := s.setBuf i { s.buf i with state := .hostHeld }
      t.poolDone a (handleOf a.raw) .hostHeld (t.buf i).base
    else s.complete a stBAD 0 0 none
  | none => s.complete a stBAD 0 0 none

/-- DISCARD (R218). -/
def Dev.poolDiscardOp (a : Acc) (s : Dev) : Dev :=
  match s.takable a with
  | some i => if poolArgsOk false a.raw then (s.freeBuf i).poolDone a (handleOf a.raw) .free (s.buf i).base else s.complete a stBAD 0 0 none
  | none => s.complete a stBAD 0 0 none

/-- RELEASE (R218, R219). -/
def Dev.poolReleaseOp (a : Acc) (s : Dev) : Dev :=
  match s.bufNamed a.func (handleOf a.raw) [.hostHeld] with
  | some i =>
    if poolArgsOk false a.raw then
      let t := s.releaseBuf i
      t.poolDone a (handleOf a.raw) (t.buf i).state (s.buf i).base
    else s.complete a stBAD 0 0 none
  | none => s.complete a stBAD 0 0 none

/-- COPY2D (R303 to R306). -/
def execCopy2d (d : Desc) (s : State) : Out :=
  .next (s.onDev fun v => v.runDesc d 0x78 fun a t => t.copyOp a t.poolReserved t.poolFree)

end Sys2Proof.Machine
end

