-- ==== Sys2Proof/Machine/Streams.lean ====
section
/-!
DEFINITION. Streams as a whole (R217, R221, R244, R251, R262, R279, R293): STREAM_OPEN with its parameter blocks and
geometry checks, jobs and their completion, delivery, suspension of a stream's guarantee, hallmark records (R332 to R335).
-/
namespace Sys2Proof.Machine

/-! Access -/

def Dev.stream (s : Dev) (n : Nat) : Option Stream := s.media.streams.find n

def Dev.setStream (s : Dev) (n : Nat) (x : Stream) : Dev := { s with media := { s.media with streams := s.media.streams.put n x } }

def Dev.modStream (s : Dev) (n : Nat) (f : Stream → Stream) : Dev :=
  match s.stream n with
  | some x => s.setStream n (f x)
  | none => s

/-- The stream that a descriptor of function f names with a handle (R293, R294, R300). -/
def Dev.streamNamed (s : Dev) (f h : Nat) : Option (Nat × Stream) :=
  match s.stream (h % 65536) with
  | some x => if x.func == f && x.gen == h / 65536 && x.closing.isNone then some (h % 65536, x) else none
  | none => none

/-- The package of a stream. -/
def Dev.pkgOf (s : Dev) (x : Stream) : Pkg := s.media.pkgs.get x.pkg Pkg.empty

/-- Bytes of the parameter block by medium. -/
def paramLen (medium : Nat) : Nat := if medium == 0 then 128 else 64

/-- The geometry W × H and SLICE_K of a stream (R159, R221, R241, R250). -/
def paramGeo (medium : Nat) (p : Bytes) : Nat × Nat × Nat :=
  match medium with
  | 0 => (u16At p 0, u16At p 2, u8At p 22)
  | 1 => (u32At p 0 / 100, 1, 1)
  | _ => let e := if u8At p 2 == 0 then 64 else 256; (e, e, 1)

def Stream.geo (x : Stream) : Nat × Nat × Nat := paramGeo x.medium x.param

/-- RERUN_A of a parameter block. -/
def paramA (medium : Nat) (p : Bytes) : Nat := u8At p (if medium == 0 then 23 else if medium == 1 then 7 else 28)

/-- F of R241. -/
def Stream.frameLen (x : Stream) : Nat := u32At x.param 0 / 100
def Stream.channels (x : Stream) : Nat := u8At x.param 4
/-- Bytes of a PCM sample of a SAMPLE_FMT (R124, R182). -/
def pcmBytes (fmt : Nat) : Nat := listGet [2, 3, 4] fmt 2

/-- Ring, its size code and its counters, by medium (R221, R244, R251). -/
def Stream.ring (x : Stream) : Nat := u64At x.param (if x.medium == 0 then 64 else if x.medium == 1 then 16 else 32)
def Stream.ringLog2 (x : Stream) : Nat := u8At x.param (if x.medium == 0 then 72 else if x.medium == 1 then 24 else 29)
def Stream.ptr (x : Stream) : Nat := u64At x.param (if x.medium == 0 then 80 else if x.medium == 1 then 32 else 40)
def Stream.autoCopy (x : Stream) : Bool := x.medium == 0 && !x.enc && bitAt (u8At x.param 25) 3
def Stream.adapters (x : Stream) : Bool := x.medium == 0 && x.enc && bitAt (u8At x.param 25) 0
def Stream.region (x : Stream) : Bool := x.medium == 0 && x.enc && bitAt (u8At x.param 25) 1

/-- The stream's contract gives a guarantee (CLASS 0). -/
def Dev.guaranteed (s : Dev) (x : Stream) : Bool := ((s.media.contracts.find x.contract).map Contract.guaranteed).getD false

/-! Pool picture layout (R220) -/

/-- Planes of a picture: samples per row, and rows. -/
def planeDims (chroma layout w h : Nat) : List (Nat × Nat) :=
  match chroma with
  | 0 => if layout == 0 then [(w, h), (w / 2, h / 2), (w / 2, h / 2)] else [(w, h), (w, h / 2)]
  | 1 => if layout == 0 then [(w, h), (w / 2, h), (w / 2, h)] else [(w, h), (w, h)]
  | _ => [(w, h), (w, h), (w, h)]

/-- Bytes of a sample in memory. -/
def sampleBytes (depth : Nat) : Nat := if depth == 8 then 1 else 2

/-- Offsets of planes laid out with the pitches given, each plane on a 4 KiB boundary; and the end of the last. -/
def planeOffsets : List ((Nat × Nat) × Nat) → Nat → List Nat × Nat
  | [], o => ([], o)
  | ((_, rows), pitch) :: rest, o =>
    let a := alignUp o 4096
    let (os, e) := planeOffsets rest (a + rows * pitch)
    (a :: os, e)

/-- Pitches of R220. -/
def poolPitches (dims : List (Nat × Nat)) (depth : Nat) : List Nat := dims.map fun d => alignUp (d.1 * sampleBytes depth) 256

/-- Planes, pitches, offsets and size of a picture of a stream in pool picture layout. -/
structure PicLayout where
  dims    : List (Nat × Nat)
  pitches : List Nat
  offs    : List Nat
  size    : Nat
deriving DecidableEq, Repr

def layoutOf (p : Bytes) : PicLayout :=
  let dims := planeDims (u8At p 4) (u8At p 7) (u16At p 0) (u16At p 2)
  let ps := poolPitches dims (u8At p 5)
  let (os, e) := planeOffsets (dims.zip ps) 0
  { dims := dims, pitches := ps, offs := os, size := e }

/-- Column, row and channel of the packed grid that hold sample (c, r) of a plane (R124). -/
def packedAt (chroma layout plane c r : Nat) : Nat × Nat × Nat :=
  match chroma with
  | 0 =>
    if plane == 0 then (c / 2, r / 2, c % 2 + 2 * (r % 2))
    else if layout == 1 then (c / 2, r, 4 + c % 2)
    else (c, r, 3 + plane)
  | 1 =>
    if plane == 0 then (c / 2, r, c % 2)
    else if layout == 1 then (c / 2, r, 2 + c % 2)
    else (c, r, 1 + plane)
  | _ => (c, r, plane)

/-- Plane, column and row of the channels of packed position (X, Y) (R124). -/
def unpackedAt (chroma layout X Y : Nat) : List (Nat × Nat × Nat) :=
  let sub (y : Nat) : List (Nat × Nat × Nat) := if layout == 1 then [(1, 2 * X, y), (1, 2 * X + 1, y)] else [(1, X, y), (2, X, y)]
  match chroma with
  | 0 => [(0, 2 * X, 2 * Y), (0, 2 * X + 1, 2 * Y), (0, 2 * X, 2 * Y + 1), (0, 2 * X + 1, 2 * Y + 1)] ++ sub Y
  | 1 => [(0, 2 * X, Y), (0, 2 * X + 1, Y)] ++ sub Y
  | _ => [(0, X, Y), (1, X, Y), (2, X, Y)]

/-- The packed grid of a picture (R124). -/
def packedDims (chroma w h : Nat) : Nat × Nat :=
  match chroma with
  | 0 => (w / 2, h / 2)
  | 1 => (w / 2, h)
  | _ => (w, h)

/-- Packed channels (R124). -/
def packedCh (chroma : Nat) : Nat := listGet [6, 4, 3, 3] chroma 3

/-- A stored sample of a depth as a number, and a number as a stored sample (R124). -/
def sampleIn (depth v : Nat) : Nat := if depth == 8 then v else v / 2 ^ (16 - depth)
def sampleOut (depth v : Nat) : Bytes := if depth == 8 then leBytes 1 v else leBytes 2 (v * 2 ^ (16 - depth))

/-! Parameter blocks -/

/-- The VPB's ranges and reserved bytes, and its agreement with the package (R221, R240, R270). DEDUCED, log entries 64 and 66. -/
def vpbOk (b : Bytes) (enc : Bool) (p : Pkg) (gopMin : Nat) : Bool :=
  let fl := u8At b 25
  let auto := bitAt fl 3
  let adapters := bitAt fl 0
  let profile := u8At b 24
  let gop := u16At b 40
  let host64 (o n : Nat) : Bool := decide (u64At b o + n ≤ 2 ^ 64)
  videoFields (u16At b 0) (u16At b 2) (u8At b 4) (u8At b 5) (u8At b 6) (slice b 8 8) (slice b 16 6) && decide (u8At b 7 ≤ 1) &&
    (u8At b 7 == 0 || decide (u8At b 4 ≤ 1)) && decide (1 ≤ u8At b 22) && decide (u8At b 22 ≤ 8) && decide (u8At b 23 ≤ 7) &&
    decide (profile ≤ 2) && profileOk profile (u16At b 0) (u16At b 2) && zeroAt b 45 1 && zeroAt b 47 1 && zeroAt b 73 7 &&
    zeroAt b 102 26 && host64 80 16 && p.media == 0 &&
    (if enc then
      decide (fl < 8) && decide (u8At b 26 ≤ 1) && decide (u8At b 28 ≤ u8At b 27) && decide (u8At b 27 ≤ u8At b 29) &&
        decide (u8At b 29 ≤ 63) && decide (16 ≤ u8At b 30) && decide (u8At b 31 ≤ 64) &&
        (u8At b 26 == 0 || (decide (1000 ≤ u32At b 32) && decide (1000 ≤ u32At b 36))) && zeroAt b 44 1 &&
        decide (16 ≤ u8At b 72) && decide (u8At b 72 ≤ 30) && host64 64 (2 ^ u8At b 72) && zeroAt b 88 14 && profile == p.profile &&
        (p.entry 1).isSome && (p.entry 2).isSome && (!bitAt fl 1 || (p.entry 10).isSome) &&
        (!adapters || ((p.entry 5).isSome && u8At (p.prog 0) 21 != 0 && profile != 0)) && (gop == 0 || decide (gopMin ≤ gop))
    else
      (fl == 0 || fl == 8) && allZero (slice b 26 18) && decide (1 ≤ u8At b 44) && decide (u8At b 44 ≤ 16) && allZero (slice b 46 18) &&
        decide (6 ≤ u8At b 72) && decide (u8At b 72 ≤ 16) && host64 64 (32 * 2 ^ u8At b 72) && (p.entry 3).isSome && (p.entry 4).isSome &&
        (if auto then
          decide ((layoutOf b).size ≤ u32At b 96) && decide (1 ≤ u16At b 100) && decide (u16At b 100 ≤ 4096) &&
            host64 88 (u32At b 96 * u16At b 100)
         else zeroAt b 88 14))

/-- The APB (R244). -/
def apbOk (b : Bytes) (enc : Bool) (p : Pkg) : Bool :=
  audioFields (u32At b 0) (u8At b 4) (u8At b 5) && decide (u8At b 7 ≤ 7) && zeroAt b 12 4 && decide (16 ≤ u8At b 24) && decide (u8At b 24 ≤ 30) &&
    zeroAt b 25 7 && zeroAt b 40 24 && decide (u64At b 16 + 2 ^ u8At b 24 ≤ 2 ^ 64) && decide (u64At b 32 + 16 ≤ 2 ^ 64) && p.media == 1 &&
    (p.entry (if enc then 6 else 7)).isSome &&
    (if enc then decide (u8At b 6 ≤ 1) && decide (6000 ≤ u32At b 8) && decide (u32At b 8 ≤ 256000) else zeroAt b 6 1 && zeroAt b 8 4)

/-- Elements of a field array. -/
def fieldCount (extent : List Nat) : Nat := mulN extent

/-- The FPB (R251). -/
def fpbOk (b : Bytes) (enc : Bool) (p : Pkg) : Bool :=
  let ext := (List.range 4).map fun d => u32At b (4 + 4 * d)
  let size := (if u8At b 0 == 0 then 4 else 8) * fieldCount ext
  fieldFields (u8At b 0) (u8At b 1) (u8At b 2) (slice b 4 16) && decide (u8At b 28 ≤ 7) && zeroAt b 30 2 && zeroAt b 56 8 && p.media == 2 &&
    (p.entry (if enc then 8 else 9)).isSome && decide (u64At b 40 + 16 ≤ 2 ^ 64) &&
    (if enc then
      decide (u8At b 3 ≤ 1) && boundOk (u64At b 20) && decide (16 ≤ u8At b 29) && decide (u8At b 29 ≤ 30) &&
        decide (u64At b 32 + 2 ^ u8At b 29 ≤ 2 ^ 64) && zeroAt b 48 8
    else
      zeroAt b 3 1 && zeroAt b 20 8 && decide (6 ≤ u8At b 29) && decide (u8At b 29 ≤ 16) && decide (u64At b 32 + 16 * 2 ^ u8At b 29 ≤ 2 ^ 64) &&
        decide (u64At b 48 + size ≤ 2 ^ 64))

/-! Geometry (R108, R109, R113 to R115, R118, R122, R124, R172, R250) -/

/-- A tensor entry of a kind at location 0. -/
def mkTensor (kind ch : Nat) (dh dv : Int) : Tensor :=
  leBytes 1 kind ++ leBytes 1 0 ++ leBytes 2 ch ++ leBytes 1 (toCode 8 dh) ++ leBytes 1 (toCode 8 dv) ++ leBytes 10 0

/-- An execution that has run nothing. -/
def Exec.start (p : Pkg) (recs : List (Nat × Nat)) (w h : Nat) : Exec :=
  { pkg := p, recs := recs, w := w, h := h, y0 := 0, rows := h, maps := [], refS := none, refL := none, adapter := none, allow := 0
    usedX := 0, usedB := 0, wide := false, sat := false, stats := [], counts := [], param := false, phase := 0, video := true, depth := 8 }

/-- The halos of a record's slivers at a stream's width: from slivers i - 1 and i + 1 alone, of at most 12 columns, no wider than what the
neighbour produces (R108, R115). DEDUCED, log entry 65. -/
def haloFits (r q : Rec) (wOut wProd : Nat) : Bool :=
  (List.range (ceilDiv wOut r.sliverW)).all fun i =>
    let (a, b) := r.colsRead ((i * r.sliverW : Nat) : Int) ((min ((i + 1) * r.sliverW) wOut : Nat) - 1 : Int)
    let lo : Int := max a 0
    let hi : Int := min b ((wProd : Int) - 1)
    let own0 : Int := ((i * q.sliverW : Nat) : Int)
    let own1 : Int := ((min ((i + 1) * q.sliverW) wProd : Nat) : Int)
    decide (hi < lo) || (decide (lo ≥ own0 - q.sliverW) && decide (min (hi + 1) own0 - lo ≤ 12) &&
      decide (hi < ((i + 2) * q.sliverW : Nat)) && decide (hi + 1 - max lo own1 ≤ 12))

/-- One record on its input and output grids (R108, R109, R113, R114, R122, R124). W_out of RIM_OUT is that of its grid before SUBPIX, and N of GAP is
the positions of a full slice. DEDUCED, log entry 20. -/
def Exec.recordFits (e : Exec) (kr : Nat × Nat) (mapping sliceH tiles : Nat) (video : Bool) (rowBytes : Nat → Nat) : Bool :=
  let r := e.pkg.rcd kr.1 kr.2
  let g := e.pkg.prog kr.1
  let (iw, ih) := e.inDims kr r
  let (w, h) := r.outDims iw ih
  let conv := r.op == 1 || r.op == 7 || r.op == 8
  let list := tileListOf g r mapping
  let n := ceilDiv (w / r.spread) (max 1 r.sliverW)
  let last := w / r.spread - (n - 1) * r.sliverW
  let gapN := iw * ((List.range ih).filter fun y => !video || decide (lumaRow y r.vScale < sliceH)).length
  let halos := [r.inA, r.inB].all fun c =>
    srcKind c != 1 || (let q := e.pkg.rcd kr.1 (srcIdx c); let m := (e.source kr c).1; m.bcast || r.op == 5 || r.op == 8 || haloFits r q w m.w)
  (!conv || (decide ((r.kw - 1) * r.dil + 1 ≤ iw + r.padL + r.padR) && decide ((r.kh - 1) * r.dil + 1 ≤ ih + r.padT + r.padB))) &&
    decide (1 ≤ w) && decide (1 ≤ h) && (r.op != 3 || (iw % r.ups == 0 && ih % r.ups == 0)) &&
    decide (r.parts * n ≤ list.length) && list.all (fun t => decide (t < tiles) && (list.filter fun u => u == t).length == 1) &&
    (n == 1 || decide (16 ≤ last)) &&
    halos && (!video || r.fuse || decide (stackReach g kr.2 sliceH ≤ sliceH)) && (r.op != 5 || decide (gapN ≤ 2 ^ 24)) &&
    (r.op != 7 || decide ((r.kh + r.stride) * rowBytes iw ≤ 2 ^ 20)) && (r.op != 8 || decide ((r.kh + r.stride) * rowBytes w ≤ 2 ^ 20))

/-- The records of an entry, in order. -/
def Exec.allFit (mapping sliceH : Nat) (tiles : Nat → Nat) (video : Bool) (rowBytes : Nat → Nat) : List (Nat × Nat) → Exec → Bool
  | [], _ => true
  | kr :: rest, e =>
    e.recordFits kr mapping sliceH (tiles (e.pkg.rcd kr.1 kr.2).vplain) video rowBytes &&
      Exec.allFit mapping sliceH tiles video rowBytes rest (e.prepare true kr)

/-- The geometry checks of STREAM_OPEN on the package (R108, R124, R172, R250). A packed row takes the bytes of its samples' containers in the rim
buffer. DESIGN CHOICE, log entry 172. -/
def geometryOk (c : Contract) (medium : Nat) (b : Bytes) (p : Pkg) : Bool :=
  let (w, h, k) := paramGeo medium b
  let d := mapAt p.budget c.mapping
  let kinds := jobKinds c.job ++ (if medium == 0 && c.job == 0 && bitAt (u8At b 25) 0 then [5] else []) ++
    if medium == 0 && c.job == 0 && bitAt (u8At b 25) 1 then [10] else []
  let bytes (n : Nat) : Nat :=
    if medium == 0 then n * packedCh (u8At b 4) * sampleBytes (u8At b 5) else if medium == 1 then n * u8At b 4 * pcmBytes (u8At b 5) else 0
  let dst := (p.refs.filter fun e => e.2.2.2 && e.2.2.1.kind == 4).map fun e => e.2.2.1.chans
  kinds.all (fun kind => match p.entry kind with
    | none => true
    | some e => Exec.allFit c.mapping (64 * k) (mapTiles d) (medium == 0) bytes e.recs (Exec.start p e.recs w h)) &&
    unitFits (unitElements p.cdf w (if medium == 0 then min h (64 * k) else h)) (cdfEscMax p.cdf) &&
    (medium != 2 || dst.all fun n => n == if u8At b 2 == 0 then 64 else 1)

/-! Buffers of a stream (R217) -/

/-- Bytes of a feature buffer: the REF_OUT tensor's codes, and an exponent byte for each position; 0 without one. DEDUCED, log entry 52. -/
def Pkg.featBytes (p : Pkg) (w h : Nat) : Nat :=
  match p.refs.find? fun e => e.2.2.1.kind == 7 with
  | none => 0
  | some e => let t := e.2.2.1; let n := scaleDim w t.dh * scaleDim h t.dv; ceilDiv (n * t.chans * fmtBits t.fmt) 8 + n

/-! STREAM_OPEN -/

def RateCtl.start (bufBits : Nat) : RateCtl := { F := bufBits / 2, lastBits := [], lastQ := [], next := 0, log := [] }

/-- P of R334: the parameter block without addresses and RING_LOG2. -/
def Stream.digestParam (medium : Nat) (enc : Bool) (b : Bytes) : Bytes :=
  let z (l : Bytes) (o n : Nat) : Bytes := l.take o ++ List.replicate n 0 ++ l.drop (o + n)
  if !enc then List.replicate (paramLen medium) 0
  else
    match medium with
    | 0 => z (z b 64 9) 80 16
    | 1 => z (z b 16 9) 32 8
    | _ => z (z b 29 1) 32 24

/-- A stream just opened (R211, R232, R233, R242, R334). -/
def Stream.fresh (func contract seat gen medium : Nat) (enc : Bool) (b : Bytes) (pkg : Nat) (p : Pkg) : Stream :=
  let header := if enc then headerFor medium b p.modelDigest else []
  { func := func, contract := contract, seat := seat, gen := gen, medium := medium, enc := enc, param := b, pkg := pkg, bound := enc
    header := header, accepted := enc, model := [], failed := none, ended := false, short := none, long := none, last := none
    adapter := none, held := none, heldUnit := [], pic := none, pics := 0, lastId := none, lastFrame := none, doneFrame := none, lastSliceIdx := none
    sticky := false
    derived := false, rc := RateCtl.start (u32At b 36), sinceI := 0, sinceLong := 0, boxes := [], regionDue := false, pcm := [], frames := 0
    lastOut := [], scratch := [], emitted := 0, consumed := 0, records := 0
    emits := if enc then [⟨unitOf 1 0 header, none, none⟩, ⟨unitOf 2 0 (modelFor p), none, none⟩] else []
    recs := [], units := [], jobs := [], nextUnit := 0
    chain := if enc then sha256 (Stream.digestParam medium enc b ++ header) else [], lastAu := none, featSpans := []
    outSpans := [], featGran := 0, outGran := 0, closing := none, closeCorrupt := false, endSent := false, gopLeft := 0, waiting := .no, nextEmit := 0
    ran := false, aus := 0, marks := [], delivered := 0, takeAt := none, mirror := .none }

/-- The seat that STREAM_OPEN takes: the contract's lowest free one, not lost (R262, R383). -/
def Contract.freeSeat (c : Contract) : Option Nat := c.seats.findIdx? fun x => x.stream.isNone && !x.lost

/-- Change seat k of contract n. -/
def Dev.modSeat (s : Dev) (n k : Nat) (f : Seat → Seat) : Dev :=
  { s with media := { s.media with contracts := s.media.contracts.upd n fun c => { c with seats := listMod c.seats k f } } }

/-- Reserve the stream's buffers (R217): the stream with its runs; none where the pool lacks them. -/
def Dev.reserve (s : Dev) (x : Stream) (p : Pkg) : Option Stream :=
  if x.medium != 0 then some x
  else
    let (w, h, _) := x.geo
    let fg := ceilDiv (p.featBytes w h) granule
    let og := if x.enc then 0 else ceilDiv (layoutOf x.param).size granule
    let no := if x.enc then 0 else u8At x.param 44
    if s.recordsFree < 4 + no || s.poolFree < 4 * fg + no * og then none
    else
      match s.freeRuns fg 4 s.poolTaken with
      | none => none
      | some fs =>
        match s.freeRuns og no (fs.map (fun b => (b, fg)) ++ s.poolTaken) with
        | none => none
        | some os => some { x with featSpans := fs, outSpans := os, featGran := fg, outGran := og }

/-- The stream's geometry is within the contract's (R262). -/
def Contract.fitsStream (c : Contract) (medium : Nat) (b : Bytes) : Bool :=
  let w := u16At c.cpb 20
  let h := u16At c.cpb 22
  match medium with
  | 0 => decide (u16At b 0 ≤ w) && decide (u16At b 2 ≤ h) && decide (u8At b 22 ≤ u8At c.cpb 24)
  | 1 => decide (u8At b 4 ≤ w) && decide (u32At b 0 / 100 ≤ h)
  | _ => (if u8At b 2 == 0 then 64 else 256) == w

/-- STREAM_OPEN (R108, R172, R200, R217, R221, R244, R251, R262). DEDUCED, log entries 63 and 67. -/
def Dev.streamOpenOp (a : Acc) (s : Dev) : Dev :=
  let cn := handleOf a.raw
  match s.media.contracts.find cn with
  | none => s.complete a stBAD 0 0 none
  | some c =>
    let enc := c.job % 2 == 0
    let medium := c.job / 2
    let addr := u64At a.raw 16
    let n := paramLen medium
    if c.func != a.func || addr + n > 2 ^ 64 || (!enc && u8At a.raw 24 != 0) then s.complete a stBAD 0 0 none
    else
      match s.hostRead addr n with
      | none => (s.dataFault a.func a.ring).complete a stABORTED 0 0 none
      | some b =>
        let s1 := s.count (ev 11 0) n
        let p := s1.media.pkgs.get c.pkg Pkg.empty
        let ok := match medium with
          | 0 => vpbOk b enc p c.gopMin
          | 1 => apbOk b enc p
          | _ => fpbOk b enc p
        if (enc && u8At a.raw 24 != 3) || !ok then s1.complete a stFORMAT 0 0 none
        else if !c.fitsStream medium b || paramA medium b > c.rerunA then s1.complete a stADMISSION 0 0 none
        else if !geometryOk c medium b p then s1.complete a stFORMAT 0 0 none
        else
          match c.freeSeat with
          | none => s1.complete a stADMISSION 0 0 none
          | some k =>
            let i := lowestFree s1.media.streams 1025
            let gen := s1.media.gens.get i 0
            match s1.reserve (Stream.fresh a.func cn k gen medium enc b c.pkg p) p with
            | none => s1.complete a stADMISSION 0 0 none
            | some x =>
              let s2 := s1.setStream i x
              let s3 := s2.modSeat cn k fun t =>
                { t with stream := some i, tokens := c.burst, tokenAt := s2.nowNs, redos := 0, redoMark := 0, uncovered := false, link := false }
              s3.complete a stDONE (i + 65536 * gen) 0 none

def execStreamOpen (d : Desc) (s : State) : Out := .next (s.onDev fun v => v.runDesc d 0x30 Dev.streamOpenOp)

/-! Suspension of a stream's guarantee (R278) -/

/-- OUTPUT, FAULT, GOP and TAKEOVER as they stand (R278, R362). -/
def Dev.refreshStreams (s : Dev) : Dev :=
  let g (p : Stream → Bool) : Bool := s.media.streams.any fun e => p e.2 && s.guaranteed e.2
  let s1 := s.cause 4 (g fun x => x.waiting != .no)
  let s2 := s1.cause 5 (s.media.allSeats.any fun e => e.2.uncovered)
  (s2.cause 6 (g fun x => decide (x.gopLeft > 0))).cause 7 (g fun x => x.takeAt.isSome)

/-- An event of R278 affects stream n's units now. -/
def Dev.affected (s : Dev) (x : Stream) : Bool :=
  bitAt s.media.suspNow 1 || bitAt s.media.suspNow 2 || x.waiting != .no || decide (x.gopLeft > 0) ||
    match s.seatOf x with
    | some (c, t) => s.seatSlow c t || t.uncovered || t.link
    | none => false

/-- Change job q of stream n. -/
def Stream.modJob (x : Stream) (q : Nat) (f : Job → Job) : Stream := { x with jobs := x.jobs.map fun j => if j.seq == q then f j else j }

/-- The stream waits for room in its output (R217, R224, R236, R246, R257): its guarantee is suspended, and the job is late. -/
def Dev.waitRoom (s : Dev) (n q : Nat) : Dev :=
  let s1 := s.modStream n fun x => { x.modJob q (fun j => { j with late := true }) with waiting := .room }
  (s1.uncover fun k _ => k == n).refreshStreams

/-- Room was found. -/
def Dev.gotRoom (s : Dev) (n : Nat) : Dev := s.modStream n fun x => if x.waiting = Wait.room then { x with waiting := .drain } else x

/-! Jobs -/

/-- A job just accepted. -/
def Job.new (seq op : Nat) (rest : Bytes) : Job :=
  { seq := seq, op := op, rest := rest, fetched := false, read := false, touched := false, lost := false, malformed := 0, skipped := 0, ended := false
    concealed := false, corrupt := false, late := false, delayed := false, wide := false, sat := false, status := none, aborted := false
    cancelled := false, result := 0, hallmark := none, hmUnit := false, stats := 0, unitsDue := 0 }

/-- Accept a descriptor of stream n as a job. -/
def Dev.addJob (s : Dev) (n : Nat) (x : Stream) (a : Acc) : Dev :=
  (s.setStream n { x with jobs := x.jobs ++ [Job.new a.seq (opcodeOf a.raw) []], ran := true }).setStage a.seq .begun

/-- A descriptor of stream n that does not run ends with a status in its turn (R299). DEDUCED, log entry 83. -/
def Dev.rejectJob (s : Dev) (n : Nat) (x : Stream) (a : Acc) (st : Nat) : Dev :=
  let j := { Job.new a.seq (opcodeOf a.raw) [] with fetched := true, read := true, touched := true, status := some st }
  (s.setStream n { x with jobs := x.jobs ++ [j] }).setStage a.seq .begun

/-- The mirror slot of stream n. -/
def Dev.slotOf (s : Dev) (n : Nat) : Option (Nat × Slot) := s.pair.slots.find? fun e => e.2.stream == n && e.2.role != .free

/-- The status with which every job of stream n ends at once: standby, held, in conflict or switching (R353, R364, R366), or
evicted (R383). -/
def Dev.refusal (s : Dev) (n : Nat) (x : Stream) : Option Nat :=
  match s.slotOf n with
  | some (_, t) =>
    if t.role == .standby || t.role == .held || t.state == .conflict || t.switchSeq.isSome then some stADMISSION
    else if x.failed == some stABORTED then some stABORTED else none
  | none => if x.mirror = MirrorEnd.standby then some stADMISSION else if x.failed == some stABORTED then some stABORTED else none

/-- Act on the stream that a descriptor names (R293, R294, R300): one that is closing is waited for. -/
def Dev.withStream (s : Dev) (a : Acc) (f : Nat → Stream → Dev) : Dev :=
  let h := handleOf a.raw
  let n := h % 65536
  match s.stream n with
  | none => s.complete a stBAD 0 0 none
  | some x =>
    if x.func != a.func || x.gen != h / 65536 then s.complete a stBAD 0 0 none
    else if x.closing.isSome then s
    else f n x

/-- Run a descriptor that names a stream. -/
def Dev.onStream (s : Dev) (a : Acc) (f : Nat → Stream → Dev) : Dev :=
  s.withStream a fun n x =>
    match s.refusal n x with
    | some st => s.rejectJob n x a st
    | none => f n x

/-- A decode job's opcode. -/
def decOp (op : Nat) : Bool := op == 0x41 || op == 0x51 || op == 0x61

/-- The status of a job that ends (R209, R279, R301). -/
def Job.ending (j : Job) (guaranteed : Bool) : Nat :=
  if j.aborted then stABORTED
  else if j.cancelled then stCANCELLED
  else
    match j.status with
    | some st => st
    | none =>
      if j.malformed != 0 || j.corrupt then stCORRUPT
      else if j.late && guaranteed then stLATE
      else if j.concealed then stCONCEALED
      else stDONE

/-- The result field of a job that ends (R209, R225, R226, R295). DEDUCED, log entry 78. -/
def Job.resultField (j : Job) (status : Nat) : Nat :=
  if decOp j.op then min j.malformed 0xFFFF + 65536 * min j.skipped 0x7FFF + 2 ^ 31 * b2n j.ended
  else if status ≥ 0x10 then 0
  else min j.result 0xFFFFFFFF

/-- Complete job j of stream n with the flags of R297. -/
def Dev.endJob (s : Dev) (n : Nat) (j : Job) (flags : Nat) : Dev :=
  match s.stream n, s.accOf j.seq with
  | some x, some a =>
    let st := j.ending (s.guaranteed x)
    let s1 := s.setStream n { x with jobs := x.jobs.filter fun k => k.seq != j.seq }
    s1.complete a st (j.resultField st) (2 * b2n j.hmUnit ||| 4 * b2n j.wide ||| 8 * b2n j.sat ||| 16 * b2n j.delayed ||| flags) j.hallmark
  | some x, none => s.setStream n { x with jobs := x.jobs.filter fun k => k.seq != j.seq }
  | none, _ => s

/-- Where a job's statistics go: the space bit, and the address (R69, R295). -/
def statOperand (raw : Bytes) : Bool × Nat :=
  match opcodeOf raw with
  | 0x40 => (bitAt (spacesOf raw) 3, u64At raw 48)
  | 0x60 => (bitAt (spacesOf raw) 1, u64At raw 40)
  | _ => (bitAt (spacesOf raw) 1, u64At raw 32)

/-- The STAT_ADDR of a descriptor is one it may name (R285, R294). -/
def Dev.statOk (s : Dev) (a : Acc) : Bool :=
  let (sp, ad) := statOperand a.raw
  ad == 0 || s.addrOk a.func sp ad 16

/-- Write a unit's statistics entries for job q, in order (R69). DEDUCED, log entries 59 and 77. -/
def Dev.writeStats (s : Dev) (n q : Nat) (st : SMap RecStat) : Dev :=
  match s.stream n, s.accOf q with
  | some x, some a =>
    match x.jobs.find? fun j => j.seq == q with
    | none => s
    | some j =>
      let (sp, ad) := statOperand a.raw
      if ad == 0 then s
      else
        let b := st.flatMap fun e => e.2.entry
        let at_ := ad + 16 * j.stats
        let room := if sp then s.permitted a.func at_ b.length else decide (at_ + b.length ≤ 2 ^ 64)
        let s1 := s.modStream n fun y => y.modJob q fun k => { k with stats := k.stats + st.length }
        if !room then s1
        else
          match s1.writeSpace sp at_ b with
          | some t => t
          | none => (s1.dataFault a.func a.ring).modStream n fun y => y.modJob q fun k => { k with aborted := true }
  | _, _ => s

/-- A data access of job q of stream n failed (R301). -/
def Dev.jobFault (s : Dev) (n q : Nat) : Dev :=
  let s1 := match s.accOf q with
    | some a => s.dataFault a.func a.ring
    | none => s
  s1.modStream n fun x => x.modJob q fun k => { k with aborted := true }

/-! Units -/

/-- Change unit number k of stream n. -/
def Dev.modUnit (s : Dev) (n k : Nat) (f : MUnit → MUnit) : Dev :=
  s.modStream n fun x => { x with units := x.units.map fun u => if u.number == k then f u else u }

/-- Payload of a RELEASE or DELIVERED record (R427). -/
def unitTrace (n k func flags : Nat) : Bytes := leBytes 2 0 ++ leBytes 2 n ++ leBytes 8 k ++ leBytes 1 func ++ leBytes 1 flags

/-- A unit is delivered (R273, R279): its trace record, and the lateness of its job. -/
def Dev.deliver (s : Dev) (n k : Nat) : Dev :=
  match s.stream n with
  | none => s
  | some x =>
    match x.units.find? fun u => u.number == k with
    | none => s
    | some u =>
      let late := s.guaranteed x && decide (u.due < s.nowNs)
      let s1 := s.trace 4 38 0 none (unitTrace n k x.func (b2n u.covered + 2 * b2n late))
      s1.setStream n { x.modJob u.job (fun j => { j with late := j.late || late || !u.covered, delayed := j.delayed || u.redone
                                                         result := if j.op == 0x50 then j.result + 1 else j.result }) with
                       units := x.units.map fun v => if v.number == k then { v with stage := .done } else v }

/-- A unit of nothing. -/
def MUnit.blank : MUnit :=
  { number := 0, idx := 0, subject := 0, job := 0, coded := [], motion := [], roi := [], quality := 0, missing := false, pos := [], resid := []
    excs := [], src := [], raw := [], ic := 0, rel := 0, due := 0, stage := .queued, passes := 0, segs := 0, engine := none, dec := none
    entries := [], esc := 0, corrupt := false, usedX := 0, usedB := 0, wide := false, sat := false, covered := true, redone := false
    fin := false, stats := [], maps := [], ckpt := [], wrote := [], dep := 0 }

/-- Add a unit whose input is complete now, with the next unit number. -/
def Dev.addUnit (s : Dev) (n : Nat) (u : MUnit) : Dev :=
  s.modStream n fun x => { x with units := x.units ++ [{ u with number := x.nextUnit, ic := s.nowNs }], nextUnit := x.nextUnit + 1 }

/-- k more access units are closed (R354): delivered once every unit below u is, and r records are written. -/
def Stream.closeAccess (x : Stream) (k u r : Nat) : Stream :=
  { x with aus := x.aus + k, marks := x.marks ++ [(x.aus + k, u, r)] }

/-! Hallmarks (R332 to R335) -/

/-- ADAPT of R332. -/
def adaptDigest (a : Option Adapter) : Bytes :=
  match a with
  | some d => sha256 d.bytes
  | none => List.replicate 32 0

/-- A hallmark record (R332, R333). -/
def hallmarkRecord (p : Pkg) (job scope version : Nat) (bounded : Bool) (adapter : Option Adapter) (inputs : Bytes) : Bytes :=
  let z := List.replicate 32 (0 : Byte)
  let d (t : Nat) : Bytes := p.digests.get t z
  let b (t : Nat) : Bytes := if bounded then d t else z
  let program := sha256 (d 2 ++ b 3 ++ d 10)
  let weights := sha256 (d 4 ++ d 6 ++ d 8 ++ b 5 ++ b 7 ++ b 9 ++ adaptDigest adapter)
  let config := [1, BitVec.ofNat 8 job, BitVec.ofNat 8 scope, BitVec.ofNat 8 (b2n bounded)] ++
    leBytes 4 (if bounded then 0xB1 else 0) ++ leBytes 4 (if bounded then version else 0) ++ leBytes 20 0
  program ++ weights ++ inputs ++ sha256 (program ++ weights ++ inputs ++ config)

/-- A job that runs entries of the KINDs given runs a PROG_B record (R332, R333). -/
def Dev.bounded (s : Dev) (x : Stream) (kinds : List Nat) : Bool :=
  x.enc && kinds.any fun k => ((s.pkgOf x).entry k).any fun e => e.recs.any fun kr => kr.1 == 1

/-- KINDs of the entries that a picture's job runs beside its own (R229, R233): TRAIN at an I picture with an adapter, REGION. -/
def Stream.pictureExtra (x : Stream) (intra : Bool) : List Nat := (if x.adapters && intra then [5] else []) ++ if x.region then [10] else []

/-- The hallmark record of an access unit of stream x with its digest, of a job that runs the entries of kinds (R335). -/
def Dev.hallmarkOf (s : Dev) (x : Stream) (scope : Nat) (inputs : Bytes) (kinds : List Nat) : Bytes :=
  let job := 2 * x.medium + (if x.enc then 0 else 1)
  hallmarkRecord (s.pkgOf x) job scope (s.regN (GLB + 0x10)) (s.bounded x kinds) x.adapter inputs

/-- Job q asks for a completion hallmark (R297). DEDUCED, log entry 72. -/
def Dev.wantsHallmark (s : Dev) (q : Nat) : Bool := ((s.accOf q).map fun a => bitAt (dflagsOf a.raw) 1).getD false

end Sys2Proof.Machine
end

