-- ==== Sys2Proof/Machine/Units.lean ====
section
/-!
DEFINITION. Units of a stream (R155, R159 to R173, R212, R213, R243, R266, R272 to R274): release, departure, passes of the
context loop, segments, encoding, and phase 10.
-/
namespace Sys2Proof.Machine

/-! Geometry of a unit -/

/-- KIND of the entry that a unit runs (R210). -/
def Stream.entryKind (x : Stream) (intra : Bool) : Nat :=
  match x.medium with
  | 0 => (if x.enc then 1 else 3) + b2n (!intra)
  | 1 => if x.enc then 6 else 7
  | _ => if x.enc then 8 else 9

/-- The open picture is an I picture. -/
def Stream.intra (x : Stream) : Bool := (x.pic.map (·.intra)).getD true

/-- The luma rows of a unit: first, and count (R159, R241, R250). -/
def Stream.unitRows (x : Stream) (u : MUnit) : Nat × Nat :=
  let (_, h, k) := x.geo
  if x.medium == 0 then sliceRows h k u.idx else (0, h)

/-- Slices of a picture of the stream (R159). -/
def Stream.slices (x : Stream) : Nat := let (_, h, k) := x.geo; sliceCount h k

/-- Bits of a sample (R124, R126, R247). -/
def Stream.depth (x : Stream) : Nat := if x.medium == 0 then u8At x.param 5 else if u8At x.param 5 == 0 then 16 else 24

/-- The positions of a grid of scales dh, dv in a unit (R159). -/
def gridPos (w y0 n : Nat) (dh dv : Int) : List Pos :=
  let (a, b) := gridRows y0 n dv
  (rangeFrom a (b - a)).flatMap fun r => (List.range (gridW w dh)).map fun c => { row := r, col := c, anchor := (r + c) % 2 == 0 }

/-- The elements of a unit, in element order (R160). -/
def Pkg.elements (p : Pkg) (w y0 n : Nat) : List Elem :=
  let c := p.cdf
  elemsOf (cdfHypCh c) (cdfLatCh c) (gridPos w y0 n (cdfHypDh c) (cdfHypDv c)) (gridPos w y0 n (cdfLatDh c) (cdfLatDv c))

def Stream.elements (x : Stream) (p : Pkg) (u : MUnit) : List Elem :=
  let (y0, n) := x.unitRows u
  p.elements x.geo.1 y0 n

/-- Keys of ŷ or ẑ, of the LATENT tensors, and of the parameter tensor. -/
def Pkg.symKey (p : Pkg) (hyper : Bool) : Nat :=
  let c := p.cdf
  tensKey (if hyper then mkTensor 6 0 (cdfHypDh c) (cdfHypDv c) else mkTensor 6 0 (cdfLatDh c) (cdfLatDv c)) 0
def Pkg.latKey (p : Pkg) (hyper : Bool) : Nat :=
  let c := p.cdf
  tensKey (if hyper then mkTensor 5 0 (cdfHypDh c) (cdfHypDv c) else mkTensor 5 0 (cdfLatDh c) (cdfLatDv c)) 0
/-- DEDUCED, log entry 38. -/
def Pkg.parKey (p : Pkg) : Nat := paramKey (mkTensor 6 0 (cdfLatDh p.cdf) (cdfLatDv p.cdf))

/-- Scale code of an element (R164, R172, R458): 0 for a hyper element. -/
def Pkg.elemScale (p : Pkg) (maps : SMap FMap) (e : Elem) : Nat :=
  if e.hyper then 0
  else
    match maps.find p.parKey with
    | none => 0
    | some m => (min (max (exactValue (m.at e.col e.row) (2 * e.ch)) 0) 63).toNat

/-- Table and mean of an element (R164, R458). -/
def Pkg.elemPar (p : Pkg) (maps : SMap FMap) (e : Elem) : List Nat × Int :=
  let c := p.cdf
  if e.hyper then (cdfTable c (u8At c (64 + e.ch)), 0)
  else
    (cdfTable c (p.elemScale maps e), match maps.find p.parKey with
      | none => 0
      | some m => narrow (exactValue (m.at e.col e.row) (2 * e.ch + 1)) 16 false)

/-- Write a decoded code of an element (R166). -/
def Pkg.putSym (p : Pkg) (w h : Nat) (maps : SMap FMap) (e : Elem) (code : Int) : SMap FMap :=
  let c := p.cdf
  let key := p.symKey e.hyper
  let ch := if e.hyper then cdfHypCh c else cdfLatCh c
  let z := if e.hyper then FMap.zero (scaleDim w (cdfHypDh c)) (scaleDim h (cdfHypDv c)) ch
    else FMap.zero (scaleDim w (cdfLatDh c)) (scaleDim h (cdfLatDv c)) ch
  let m := (maps.find key).getD z
  let old := (m.at e.col e.row).1
  maps.put key (m.set e.col e.row (old.set e.ch code, [0]))

/-! Running records -/

/-- Maps of a on top of those of b, key by key. -/
def overlay (a b : SMap FMap) : SMap FMap := a.foldl (fun m e => m.put e.1 e.2) b

/-- The cells of a map put over those of another. -/
def FMap.overlay (a b : FMap) : FMap :=
  { a with cells := a.cells.foldl (fun m e => m.put e.1 e.2) b.cells
           wides := a.wides.foldl (fun m e => m.put e.1 e.2) (b.wides.filter fun e => !a.cells.has e.1) }

/-- A unit's maps merged cell by cell into the picture's. -/
def mergeMaps (a b : SMap FMap) : SMap FMap :=
  a.foldl (fun m e => match m.find e.1 with
    | some o => m.put e.1 (e.2.overlay o)
    | none => m.put e.1 e.2) b

/-- Keys that a record writes. -/
def Pkg.outKeys (p : Pkg) (kr : Nat × Nat) : List Nat :=
  let r := p.rcd kr.1 kr.2
  recKey kr :: if srcKind r.out == 2 then
    let t := p.tensor kr.1 r.out
    [if t.kind == 6 && p.latentScale t then paramKey t else tensKey t r.vplain] else []

/-- The phases of a unit's entry. -/
def Dev.unitPhases (s : Dev) (x : Stream) : Phases :=
  let p := s.pkgOf x
  match p.entry (x.entryKind x.intra) with
  | some e => p.phases e
  | none => { ph0 := [], ph1 := [], loop := [], ph10 := [], param := false }

/-- The execution of a unit's entry on maps. -/
def Dev.unitExec (s : Dev) (x : Stream) (u : MUnit) (maps : SMap FMap) : Exec :=
  let p := s.pkgOf x
  let (w, h, _) := x.geo
  let (y0, n) := x.unitRows u
  let recs := ((p.entry (x.entryKind x.intra)).map (·.recs)).getD []
  let ref (f : Pic → Option Nat) : Option FMap := if x.intra then none else (x.pic.bind f).bind fun i => s.media.feats.find i
  { Exec.start p recs w h with
    y0 := y0, rows := n, maps := maps, refS := ref (·.refS), refL := ref (·.refL), adapter := x.adapter, allow := hdrA x.header
    usedX := u.usedX, usedB := u.usedB, wide := u.wide, sat := u.sat, stats := u.stats, video := x.medium == 0, depth := x.depth }

/-- What an execution leaves in the unit. -/
def MUnit.absorb (u : MUnit) (e : Exec) : MUnit :=
  { u with usedX := e.usedX, usedB := e.usedB, wide := e.wide, sat := e.sat, stats := e.stats }

/-- Count an execution's events on the physical plains of the stream's seat (R418). -/
def Dev.tallyExec (s : Dev) (x : Stream) (e : Exec) : Dev :=
  let plains := ((s.seatOf x).map fun t => t.2.plains).getD []
  e.counts.foldl (fun t c => t.count (ev (listGet plains (c.1 / 64) 0) (c.1 % 64)) c.2) s

/-- The maps that a unit's records outside the parameter part work on: the picture's, or the unit's own. -/
def Stream.baseMaps (x : Stream) (u : MUnit) : SMap FMap :=
  match x.pic with
  | some p => p.maps
  | none => u.maps

/-- Change the open picture of a stream. -/
def Stream.modPic (x : Stream) (f : Pic → Pic) : Stream := { x with pic := x.pic.map f }

/-- Store the maps of records outside the parameter part; SCRATCH tensors pass on to later units (R460). -/
def Stream.setBase (x : Stream) (u : MUnit) (maps : SMap FMap) : Stream × MUnit :=
  let x1 := { x with scratch := overlay (maps.filter fun e => isScratch e.1) x.scratch }
  match x.pic with
  | some _ => (x1.modPic fun p => { p with maps := maps }, u)
  | none => (x1, { u with maps := maps })

/-- Put unit u back into stream n. -/
def Dev.putUnit (s : Dev) (n : Nat) (x : Stream) (u : MUnit) : Dev :=
  s.setStream n { x with units := x.units.map fun v => if v.number == u.number then u else v }

/-- The rows that an execution of records wrote, by map key. -/
def Exec.wroteRows (e : Exec) (rs : List (Nat × Nat)) : List (Nat × Nat) :=
  rs.flatMap fun kr => (e.pkg.outKeys kr).flatMap fun k => (e.rowsOf.get (recKey kr) []).map fun y => (k, y)

/-- Run records outside the parameter part on unit u. -/
def Dev.runBase (s : Dev) (n : Nat) (x : Stream) (u : MUnit) (phase : Nat) (rs : List (Nat × Nat)) : Dev :=
  let e := (s.unitExec x u (x.baseMaps u)).runPhase phase false rs
  let (x1, u1) := x.setBase { u.absorb e with wrote := if phase == 0 then e.wroteRows rs else u.wrote } e.maps
  (s.putUnit n x1 u1).tallyExec x e

/-- The maps that the parameter part of a unit works on (R163): symbols and parameters are the unit's own. -/
def Stream.paramMaps (x : Stream) (p : Pkg) (u : MUnit) : SMap FMap :=
  overlay u.maps ((x.baseMaps u).filter fun m => !([p.symKey true, p.symKey false, p.parKey].contains m.1))

/-- Run records of the parameter part on unit u (R163): its outputs stay the unit's own. -/
def Dev.runParam (s : Dev) (n : Nat) (x : Stream) (u : MUnit) (phase : Nat) (rs : List (Nat × Nat)) : Dev :=
  let p := s.pkgOf x
  let e := (s.unitExec x u (x.paramMaps p u)).runPhase phase true rs
  let keys := rs.flatMap p.outKeys
  let own := e.maps.filter fun m => keys.contains m.1
  (s.putUnit n x { u.absorb e with maps := overlay own u.maps }).tallyExec x e

/-! What the device writes before phase 0 -/

/-- Effective quality of the block that holds luma sample (X, Y) of a unit (R190, R213). -/
def MUnit.qualityAt (u : MUnit) (w y0 rows X Y : Nat) : Int :=
  let bx := min X (w - 1) / 64
  let by_ := (min Y (y0 + rows - 1) - y0) / 64
  effQuality u.quality (if u.roi.isEmpty then 0 else listGet u.roi (by_ * ceilDiv w 64 + bx) 0)

/-- The MOTION tensor of a unit (R191, R213, R243) on top of a map: vectors and quality, or the side tensor. -/
def Dev.motionMap (s : Dev) (x : Stream) (u : MUnit) (old : Option FMap) : Option (Nat × FMap) :=
  (s.pkgOf x).motion.map fun t =>
    let (w, h, _) := x.geo
    let (y0, n) := x.unitRows u
    let (a, b) := gridRows y0 n t.dv
    let gw := gridW w t.dh
    let side : Int := if x.medium == 1 then lg8 ((u32At x.header 56 / 100 : Nat) : Int) - 47 else ((u64At x.header 68 / 2 ^ 52 : Nat) : Int) - 1023
    let cell (r c : Nat) : List Int :=
      if x.medium != 0 then [side, 0]
      else
        let i := (r - a) * gw + c
        let mv := [listGet u.motion (2 * i) 0, listGet u.motion (2 * i + 1) 0]
        if t.chans == 3 then mv ++ [u.qualityAt w y0 n (c * 2 ^ t.dh.toNat) (r * 2 ^ t.dv.toNat)] else mv
    let cells : SMap (List Int × List Int) :=
      (rangeFrom a (b - a)).flatMap fun r => (List.range gw).map fun c => (r * 65536 + c, (cell r c, [0]))
    let base := FMap.zero gw (gridH h t.dv) t.chans
    (tensKey t 0, { base with cells := cells.foldl (fun m e => m.put e.1 e.2) ((old.map (·.cells)).getD []) })

/-- Binary32 of an integer sample (R125). -/
def sampleCode (v : Int) : Int := ((Fmt.fp32.round false (decide (v < 0)) v.natAbs 0).1 : Nat)

/-- Sample (c, r) of a plane of fetched rows. -/
def planeSample (planes : List (List Bytes)) (depth plane c r : Nat) : Nat :=
  let b := sampleBytes depth
  sampleIn depth (fieldAt (listGet (listGet planes plane []) r []) (c * b) b)

/-- The SRC tensor of a video picture: the packed grid rows whose samples are fetched (R124, R125). -/
def Stream.pictureSrc (x : Stream) (p : Pic) : FMap :=
  let chroma := u8At x.param 4
  let depth := u8At x.param 5
  let (w, h) := packedDims chroma (u16At x.param 0) (u16At x.param 2)
  let rows := if chroma == 0 then p.rows / 2 else p.rows
  { FMap.zero w h (packedCh chroma) with
    cells := (List.range (min rows h)).flatMap fun Y => (List.range w).map fun X =>
      (Y * 65536 + X, ((unpackedAt chroma (u8At x.param 7) X Y).map fun (e : Nat × Nat × Nat) =>
        sampleCode (planeSample p.planes depth e.1 e.2.1 e.2.2), [0])) }

/-- The SRC tensor of an audio frame: the frame's row and the lookahead row (R242). -/
def Stream.frameSrc (x : Stream) (u : MUnit) : FMap :=
  let F := x.frameLen
  let ch := x.channels
  let code (v : Int) : Int := if u8At x.param 5 == 2 then (Fmt.fp32.flush v.toNat : Nat) else sampleCode v
  { FMap.zero F 2 ch with
    cells := (List.range 2).flatMap fun y => (List.range F).map fun t =>
      (y * 65536 + t, ((List.range ch).map fun c => if y == 0 || decide (t < F / 2) then code (listGet u.src ((y * F + t) * ch + c) 0) else 0, [0])) }

/-- Elements of a field block within EXTENT in element order: column, row and channel on the grid (R250). -/
def fieldGrid (dims block : Nat) (extent p : List Nat) : List (Nat × Nat × Nat) :=
  let n := blockSizes dims block extent p
  let d (i : Nat) : Nat := listGet n i 1
  (List.range (d 2)).flatMap fun i2 => (List.range (d 1)).flatMap fun i1 => (List.range (d 0)).map fun i0 =>
    if block == 1 && dims == 1 then (i0 % 256, i0 / 256, 0) else (i0, i1, i2)

/-- DIMS, BLOCK and EXTENT of a field stream. -/
def Stream.fieldShape (x : Stream) : Nat × Nat × List Nat :=
  (u8At x.param 1, u8At x.param 2, (List.range 4).map fun d => u32At x.param (4 + 4 * d))

/-- The SRC tensor of a field block (R250): +0 outside EXTENT. -/
def Stream.blockSrc (x : Stream) (u : MUnit) : FMap :=
  let (dims, block, ext) := x.fieldShape
  let (w, h, _) := x.geo
  let ch := if block == 0 then 64 else 1
  let ps := fieldGrid dims block ext u.pos
  (List.range ps.length).foldl (fun (m : FMap) i =>
    let e := listGet ps i (0, 0, 0)
    let old := m.at e.1 e.2.1
    m.set e.1 e.2.1 (old.1.set e.2.2 (listGet u.src i 0), [0])) (FMap.zero w h ch)

/-- The maps of a unit as phase 0 finds them. -/
def Dev.phaseZeroMaps (s : Dev) (x : Stream) (u : MUnit) : SMap FMap :=
  let base := match x.pic with
    | some p => p.maps
    | none => x.scratch
  let src := if !x.enc then none
    else match x.medium, x.pic with
      | 0, some p => some (x.pictureSrc p)
      | 0, none => none
      | 1, _ => some (x.frameSrc u)
      | _, _ => some (x.blockSrc u)
  let m1 := match src with
    | some m => base.put (tensKey (mkTensor 3 0 0 0) 0) m
    | none => base
  match (s.pkgOf x).motion with
  | none => m1
  | some t =>
    match s.motionMap x u (m1.find (tensKey t 0)) with
    | some (k, m) => m1.put k m
    | none => m1

/-! Engines -/

/-- A departure in use holds unit instance res now (R266, R277). -/
def Dev.inUse (s : Dev) (res : Nat) : Bool :=
  s.media.allSeats.any fun e => e.1.guaranteed && match e.2.stream.bind s.stream with
    | some x => x.units.any fun u => u.stage == .flying && e.2.bookings.any fun b => b.res == res && b.within e.1.rTrain u.dep s.slotNow
    | none => false

/-- No booked segment of instance res begins in the next ns nanoseconds (R277). -/
def Dev.roomFor (s : Dev) (res : Nat) (ns : Rat) : Bool :=
  s.media.allBookings.all fun b => b.res != res ||
    decide (s.nowNs + ns ≤ (slotTick (s.slotNow + 1 + (b.slot + 2047 - s.slotNow % 1024) % 1024) : Rat) * 5 / 6)

/-- The physical engine that works as logical engine r (R155). -/
def Dev.engineOf (s : Dev) (r : Nat) : Option Nat := s.units.engines.findIdx? fun e => e.role == some r && !e.failed && !e.withdrawn

/-- The engine of a best-effort unit: one that is free, in no segment in use, and that the longest holding time leaves in time (R173, R277). -/
def Dev.freeEngine (s : Dev) (x : Stream) : Option Nat :=
  let hold : Rat := match s.seatOf x with
    | some (c, t) => c.holdNs (s.pkgOf x) (maxN (t.plains.map fun p => (s.plain p).div))
    | none => 0
  s.units.engines.findIdx? fun e => !e.failed && !e.withdrawn && e.held.isNone && match e.role with
    | some r => !s.inUse r && s.roomFor r hold
    | none => false

/-- Unit u of stream x goes before unit v of stream y among best-effort units (R277): release, function, ring. -/
def Dev.goesFirst (s : Dev) (x : Stream) (u : MUnit) (y : Stream) (v : MUnit) : Bool :=
  let ring (w : MUnit) : Nat := ((s.accOf w.job).map (·.ring)).getD 0
  decide (u.rel < v.rel) || (u.rel == v.rel && (decide (x.func < y.func) || (x.func == y.func && decide (ring u < ring v))))

/-- No other best-effort unit that an engine could take now goes before this one (R277). -/
def Dev.isNext (s : Dev) (x : Stream) (u : MUnit) : Bool :=
  s.media.streams.all fun e => s.guaranteed e.2 || e.2.units.all fun v =>
    !(v.stage == .flying && v.engine.isNone && s.goesFirst e.2 v x u && (s.freeEngine e.2).isSome)

/-- The physical engine that works on a unit now (R155, R173, R266, R277): a guaranteed unit's in its own segment only, but while the device runs
started units to their end (R404), which takes milliseconds (log entry 30). DEDUCED, log entry 177. -/
def Dev.engineNow (s : Dev) (x : Stream) (u : MUnit) : Option Nat :=
  let free (i : Nat) : Option Nat := if (s.units.engines[i]?.bind (·.held)).isNone then some i else none
  match s.seatOf x with
  | none => none
  | some (c, t) =>
    if s.sys.mode = .quiesced then match u.engine with
      | some j => some j
      | none => s.units.engines.findIdx? fun e => !e.failed && !e.withdrawn && e.role.isSome && e.held.isNone
    else if c.guaranteed then
      match (s.segmentNow c t u.dep fun r => decide (r < 16)).bind s.engineOf with
      | none => none
      | some i => match u.engine with
        | some j => some j
        | none => free i
    else match u.engine with
      | some j => some j
      | none => if s.isNext x u then s.freeEngine x else none

/-- Engine i holds unit k of stream n, or none (R173). -/
def Dev.holdEngine (s : Dev) (i : Nat) (u : Option UnitRef) : Dev :=
  { s with units := { s.units with engines := listMod s.units.engines i fun e => { e with held := u } } }

/-- The engine of a unit is free again. -/
def Dev.releaseEngine (s : Dev) (n k : Nat) : Dev :=
  match (s.stream n).bind fun x => x.units.find? fun u => u.number == k with
  | none => s
  | some u =>
    match u.engine with
    | none => s
    | some i => ((s.holdEngine i none).modUnit n k fun v => { v with engine := none }).engineIdle i

/-! Encoding: residuals -/

/-- Form the residuals of a segment, in element order: the unit with its entries and codes, and the elements clamped
(R164 to R167). -/
def Dev.formSegment (s : Dev) (x : Stream) (u : MUnit) (seg : Nat) : MUnit × Nat :=
  let p := s.pkgOf x
  let c := p.cdf
  let (w, h, _) := x.geo
  let all := x.paramMaps p u
  ((x.elements p u).filter fun e => e.seg == seg).foldl (fun (t : MUnit × Nat) e =>
    let lat := (all.find (p.latKey e.hyper)).getD (FMap.zero 0 0 (if e.hyper then cdfHypCh c else cdfLatCh c))
    let y := (listGet (lat.at e.col e.row).1 e.ch 0).toNat
    let (tab, mu) := p.elemPar all e
    let (r, esc, clamped) := formResidual y mu (cdfFrac c) t.1.esc (cdfEscMax c)
    ({ t.1 with entries := t.1.entries ++ [⟨tab, r, esc, p.elemScale all e⟩], esc := t.1.esc + b2n esc
                maps := p.putSym w h t.1.maps e (symbolCode r mu (cdfFrac c)) }, t.2 + b2n clamped)) (u, 0)

/-- Form a segment's residuals and store the unit; ENT_ESCCLAMP counts clamped elements (R165). -/
def Dev.formAndPut (s : Dev) (n k seg : Nat) : Dev :=
  match s.stream n with
  | none => s
  | some x =>
    match x.units.find? fun u => u.number == k with
    | none => s
    | some u =>
      let (v, cl) := s.formSegment x u seg
      ((s.putUnit n x v).bump (ENT + 0x34) cl).count (ev 8 7) cl

/-- Form the residuals of several segments. -/
def Dev.formAll (s : Dev) (n k : Nat) (segs : List Nat) : Dev := segs.foldl (fun t g => t.formAndPut n k g) s

/-! Release (R272, R273) -/

/-- Phase 10 of the entry reads rows below the unit that the slice below codes, or computes before its phase 10 (R22, R23, R118). DEDUCED, log entry
57. -/
def Dev.reachesDown (s : Dev) (x : Stream) (u : MUnit) : Bool :=
  let p := s.pkgOf x
  let ph := s.unitPhases x
  let e := s.unitExec x u (x.baseMaps u)
  let e1 := (ph.ph0 ++ ph.ph1 ++ ph.loop ++ ph.ph10).foldl (fun t kr => t.prepare true kr) e
  let (y0, n) := x.unitRows u
  x.medium == 0 && (e1.needs ph.ph10).any fun d =>
    let r := p.rcd d.1.1 d.1.2
    let below (dv : Int) (h : Nat) : Bool :=
      d.2.any fun y => (r.rowsRead y).any fun v => decide (0 ≤ v) && decide (y0 + n ≤ lumaRow v.toNat dv) && decide (v < h)
    ([r.inA, r.inB].any fun c => srcKind c == 2 && (p.tensor d.1.1 c).kind == 6 &&
      below (p.tensor d.1.1 c).dv (e1.tensorMap (p.tensor d.1.1 c) 0).h) ||
    (ph.ph0 ++ ph.ph1 ++ ph.loop).any fun j => e1.feeds j d.1 &&
      below (p.rcd j.1 j.2).vScale ((e1.maps.find (recKey j)).getD (FMap.zero 0 0 0)).h

/-- A slice that no other slice of its picture follows. -/
def Stream.lastSlice (x : Stream) (u : MUnit) : Bool :=
  let (_, h, k) := x.geo
  x.medium != 0 || u.idx + 1 == sliceCount h k

/-- The next unit of the picture, once there is one. -/
def Stream.nextSlice (x : Stream) (u : MUnit) : Option MUnit := x.units.find? fun v => v.subject == u.subject && v.idx == u.idx + 1

/-- The input-complete moment of a unit, with that of the slice below where its halo reaches there (R23, R273). -/
def Dev.inputComplete (s : Dev) (x : Stream) (u : MUnit) : Option Rat :=
  if x.enc || x.lastSlice u || !s.reachesDown x u then some u.ic
  else (x.nextSlice u).map fun v => max u.ic v.ic

/-- A slice of an adapter I picture releases at its ic and takes no token (R272). -/
def Stream.tokenFree (x : Stream) : Bool := x.adapters && x.intra

/-- The first unit of a stream that is not released. -/
def Stream.firstQueued (x : Stream) : Option MUnit := x.units.find? fun u => u.stage == .queued

/-- L of a unit, longer by PERIOD_NS for the first unit after a takeover (R362). -/
def Stream.latencyOf (x : Stream) (c : Contract) (u : MUnit) : Nat :=
  let au := if x.medium == 1 && x.enc then u.subject else x.aus
  c.latency + if x.takeAt == some au then c.period else 0

/-- RELEASE (R263, R272). -/
def Dev.releaseOp (s : Dev) (r : UnitRef) : Dev :=
  let n := r.stream.val
  match s.stream n with
  | none => s
  | some x =>
    match x.firstQueued, s.seatOf x with
    | some u, some (c, t) =>
      match s.inputComplete x u with
      | none => s
      | some ic =>
        if u.number != r.number then s
        else
          let put (rel due : Rat) (v : Dev) : Dev :=
            (v.modUnit n u.number fun w => { w with stage := .released, rel := rel, due := due, covered := !v.affected x }).trace 3 38 0 none
              ((unitTrace n u.number x.func 0).take 13)
          if !c.guaranteed then put ic (ic + 4000000000000000000) s
          else if x.tokenFree then put ic (ic + x.latencyOf c u) s
          else
            let delta : Rat := (c.period : Rat) / (c.units : Rat)
            let r0 := max ic t.tokenAt
            let tok := min (c.burst : Rat) (t.tokens + (r0 - t.tokenAt) / delta)
            let rel := if tok < 1 then r0 + (1 - tok) * delta else r0
            if decide (s.nowNs < rel) then s
            else put rel (rel + x.latencyOf c u) (s.modSeat x.contract x.seat fun y => { y with tokens := max tok 1 - 1, tokenAt := rel })
    | _, _ => s

def execRelease (u : UnitRef) (s : State) : Out := .next (s.onDev fun v => if v.serving then v.releaseOp u else v)

/-! Departure (R266) -/

/-- The first released unit of a stream that may depart: audio frames carry state from one to the next (R242). -/
def Stream.firstReleased (x : Stream) : Option MUnit :=
  if x.medium == 1 && x.units.any (fun u => u.stage == .flying) then none else x.units.find? fun u => u.stage == .released

/-- Run on unit k of stream n with the state as it now stands. -/
def Dev.withUnit (s : Dev) (n k : Nat) (f : Dev → Stream → MUnit → Dev) : Dev :=
  match s.stream n with
  | none => s
  | some x =>
    match x.units.find? fun u => u.number == k with
    | none => s
    | some u => f s x u

/-- Begin a unit: phase 0 (R162, R458). -/
def Dev.beginUnit (s : Dev) (n : Nat) (x : Stream) (u : MUnit) : Dev :=
  let ckpt := match x.pic with
    | some q => q.maps
    | none => x.scratch
  let (x1, u1) := x.setBase { u with stage := .flying, ckpt := ckpt, dep := s.slotNow } (s.phaseZeroMaps x u)
  (s.putUnit n x1 u1).withUnit n u.number fun t y v => t.runBase n y v 0 (s.unitPhases x).ph0

/-- The unit's engine is taken: a decoder's table load, an encoder's hyper segment (R165, R170, R173), or all of its segments where no pass follows. -/
def Dev.beginCoding (s : Dev) (n : Nat) (x : Stream) (u : MUnit) (i : Nat) : Dev :=
  let p := s.pkgOf x
  let dec := if x.enc then none else some (decodeBegin u.coded (x.elements p u).length (cdfEscMax p.cdf))
  let s1 := (s.modUnit n u.number fun v => { v with engine := some i, dec := dec, corrupt := (dec.map (·.bad)).getD false }).holdEngine i
    (some { stream := Fin.ofNat 1025 n, number := u.number })
  if !x.enc then s1
  else if (s.unitPhases x).param then s1.formAndPut n u.number 0
  else (s1.formAll n u.number (List.range 9)).modUnit n u.number fun v => { v with passes := 8 }

/-- An engine's work on unit u of stream n, once an engine works on it (R173, R266, R277). -/
def Dev.onEngine (s : Dev) (n : Nat) (x : Stream) (u : MUnit) (f : Dev → Stream → MUnit → Dev) : Dev :=
  match s.engineNow x u with
  | none => s
  | some i => (if u.engine.isSome then s else s.beginCoding n x u i).withUnit n u.number f

/-- Seat k of contract cn departs with no released slice waiting (R266, R274, R278, R376): the seat is covered again, an output
wait that found room is over, and a planned withdrawal of one of its tiles is made. DEDUCED, log entry 102. -/
def Dev.idleDeparture (s : Dev) (cn k : Nat) : Dev :=
  let s0 := match (s.media.contracts.find cn).bind fun c => c.seats[k]? with
    | some t => s.withdrawFor t.tiles
    | none => s
  let s1 := (s0.modSeat cn k fun t =>
    { t with uncovered := false, moving := false, link := t.link && (s0.linkLow || s0.sys.hostSlow.contains (cn, k)) }).count (ev 14 1) 1
  let s2 := match (s1.media.contracts.find cn).bind fun c => (c.seats[k]?).bind (·.stream) with
    | some n => s1.modStream n fun x => if x.waiting = Wait.drain then { x with waiting := .no } else x
    | none => s1
  s2.refreshSusp.refreshStreams

/-- The host does not serve seat k's bookings while the seat has traffic (R278). DESIGN CHOICE, log entry 178. -/
def Dev.hostService (s : Dev) (cn k : Nat) : Dev :=
  if s.sys.hostSlow.contains (cn, k) then (s.modSeat cn k fun t => { t with link := true }).refreshSusp else s

/-- The open picture of a guaranteed stream takes departures that carry no released slice (R233, R270): once all slices of an adapter I picture are
coded, M for training, then one for phase 10 of each slice. -/
def Stream.adapterTurn (x : Stream) : Bool :=
  match x.pic with
  | none => false
  | some p =>
    let mine := x.units.filter fun u => u.subject == p.picId
    x.tokenFree && mine.length == x.slices && mine.all (fun u => u.stage == .coded || u.stage == .done) && decide (p.finDeps < x.slices)

/-- A departure of the open picture for training, or for phase 10 of a slice (R270). -/
def Pic.turn (p : Pic) : Pic := if p.trained then { p with finDeps := p.finDeps + 1 } else { p with trainDeps := p.trainDeps + 1 }

/-- The seat departs now (R266): at the start slots of its train, once in each; a best-effort seat has no train. -/
def Dev.departs (s : Dev) (c : Contract) (t : Seat) : Bool :=
  !c.guaranteed || ((trainStarts c.k t.offset).contains (s.slotNow % 1024) && t.departed != some s.slotNow)

/-- DEPARTURE (R155, R264, R266, R270). A seat that was relocated moves in its next departure, which carries no slice (R383). DEDUCED, log entry 46. -/
def Dev.departureOp (s0 : Dev) (cn k : Nat) : Dev :=
  match (s0.media.contracts.find cn).bind fun c => c.seats[k]?.map fun t => (c, t) with
  | none => s0
  | some (c, t) =>
    if t.lost || !s0.departs c t then s0
    else
      let s := s0.modSeat cn k fun y => { y with departed := some s0.slotNow }
      if t.moving then (s.modSeat cn k fun y => { y with moving := false }).count (ev 14 1) 1
      else
        match t.stream.bind fun n => (s.stream n).map fun x => (n, x) with
        | none => s.idleDeparture cn k
        | some (n, x) =>
          if c.guaranteed && x.adapterTurn then ((s.setStream n (x.modPic Pic.turn)).hostService cn k).count (ev 14 0) 1
          else
            match x.firstReleased with
            | none => if x.units.any (fun u => u.stage == .released) then s else s.idleDeparture cn k
            | some u => ((s.beginUnit n x u).hostService cn k).count (ev 14 0) 1

/-! Passes and segments -/

/-- A unit that is in flight. -/
def Dev.flying (s : Dev) (r : UnitRef) : Option (Stream × MUnit) :=
  (s.stream r.stream.val).bind fun x => (x.units.find? fun u => u.number == r.number && u.stage == .flying).map fun u => (x, u)

/-- Pass s of a unit, phase 1 before pass 0 (R162 to R166). -/
def Dev.contextPass (n : Nat) (s : Dev) (x : Stream) (u : MUnit) : Dev :=
  let ph := s.unitPhases x
  let s1 := if u.passes == 0 then s.runParam n x u 1 ph.ph1 else s
  let s2 := s1.withUnit n u.number fun t y v => t.runParam n y v (2 + u.passes) ph.loop
  let s3 := s2.modUnit n u.number fun v => { v with passes := u.passes + 1 }
  if x.enc then s3.formAndPut n u.number (u.passes + 1) else s3

/-- CONTEXT_PASS (R162 to R166, R173, R266). -/
def Dev.contextPassOp (s : Dev) (r : UnitRef) : Dev :=
  match s.flying r with
  | none => s
  | some (x, u) =>
    if !((s.unitPhases x).param && decide (u.passes < 8) && (x.enc || u.segs == u.passes + 1)) then s
    else s.onEngine r.stream.val x u (Dev.contextPass r.stream.val)

/-- Decode one segment of a unit (R166, R170). -/
def Dev.decodeSegmentOf (s : Dev) (x : Stream) (u : MUnit) : MUnit × Nat :=
  let p := s.pkgOf x
  let c := p.cdf
  let (w, h, _) := x.geo
  let all := x.paramMaps p u
  let es := x.elements p u
  let seg := es.filter fun e => e.seg == u.segs
  let first := (es.takeWhile fun e => decide (e.seg < u.segs)).length
  let pars := seg.map (p.elemPar all)
  match u.dec with
  | none => (u, 0)
  | some d =>
    let (rs, d1) := RansDec.segment (cdfEscMax c) d first (pars.map (·.1))
    let maps := (List.range seg.length).foldl (fun m i =>
      p.putSym w h m (listGet seg i ⟨true, 0, 0, 0, 0⟩) (symbolCode (listGet rs i (0, false)).1 (listGet pars i ([], 0)).2 (cdfFrac c))) u.maps
    let es := ((seg.zip pars).zip rs).map fun e => (⟨e.1.2.1, e.2.1, e.2.2, p.elemScale all e.1.1⟩ : Coded)
    ({ u with dec := some d1, segs := u.segs + 1, maps := maps, entries := u.entries ++ es }, seg.length + 2 * (d1.esc - d.esc))

/-- What the slice buffer of physical engine i holds of its unit (R172, R173); nothing is stated of a buffer that holds none. -/
def Dev.engineBuffer (s : Dev) (i : Nat) : List (Nat × Bytes) :=
  match (listGet s.units.engines i (Engine.reset i)).held.bind fun h => (s.stream h.stream.val).bind fun x =>
      (x.units.find? fun u => u.number == h.number).map fun u => (x, u) with
  | none => []
  | some (x, u) => let c := (s.pkgOf x).cdf; sliceBuffer (c.drop (64 + cdfHp c)) (x.elements (s.pkgOf x) u).length u.entries (cdfEscMax c) u.coded

/-- After the ninth segment (R170, R171, R173): corrupt or not, the engine is free, the symbols are complete. -/
def Dev.endDecode (s : Dev) (n : Nat) (u : MUnit) : Dev :=
  let bad := match u.dec with
    | some d => d.corrupt
    | none => true
  let d := u.dec.getD { x := [], rest := [], W := 0, next := 0, bad := true, excess := false, esc := 0 }
  let s1 := s.modUnit n u.number fun v => { v with corrupt := bad, stage := .coded, dec := none }
  let s2 := (((s1.releaseEngine n u.number).count (ev 8 2) d.esc).count (ev 8 3) d.next).count (ev 8 5) 1
  let s3 := if bad then (s2.bump (ENT + 0x30) 1).count (ev 8 6) 1 else s2
  s3.modStream n fun x => { x.modJob u.job (fun j => { j with corrupt := j.corrupt || bad }) with
                            pic := x.pic.map fun p => { p with damaged := p.damaged || bad || u.missing } }

/-- The next segment of a unit, and what follows the ninth (R170 to R173). -/
def Dev.decodeSegment (n : Nat) (s : Dev) (x : Stream) (u : MUnit) : Dev :=
  let (v, ops) := s.decodeSegmentOf x u
  let s1 := (s.putUnit n x v).count (ev 8 1) ops
  if v.segs == 9 then s1.endDecode n v else s1

/-- DECODE_SEGMENT (R170 to R173, R266): the hyper segment, then step s after pass s. -/
def Dev.decodeSegmentOp (s : Dev) (r : UnitRef) : Dev :=
  match s.flying r with
  | none => s
  | some (x, u) =>
    if !(!x.enc && decide (u.segs < 9) && (u.segs == 0 || !(s.unitPhases x).param || u.passes == u.segs)) then s
    else s.onEngine r.stream.val x u (Dev.decodeSegment r.stream.val)

/-- The coded slices of an adapter I picture go to HBM in unit order, and their buffers are free (R173, R233). -/
def Dev.writeCoded (s : Dev) (n : Nat) : Dev :=
  match s.stream n with
  | none => s
  | some x =>
    if !x.tokenFree then s
    else
      (x.units.takeWhile fun u => u.stage == .done || (u.stage == .coded && some u.subject == x.pic.map (·.picId))).foldl
        (fun (t : Dev) u => t.releaseEngine n u.number) s

/-- The coded slice of a unit (R168, R169, R173). -/
def Dev.encodeCoded (n : Nat) (s : Dev) (_ : Stream) (u : MUnit) : Dev :=
  let coded := encodeUnit u.entries
  let s1 := s.modUnit n u.number fun v => { v with coded := coded, stage := .coded }
  let s2 := ((((s1.count (ev 8 0) (u.entries.length + 2 * escapes u.entries)).count (ev 8 2) (escapes u.entries)).count (ev 8 3)
    ((coded.length - 128) / 2)).count (ev 8 4) 1)
  s2.writeCoded n

/-- ENCODE_UNIT (R168, R169, R173, R266): after the last pass, or where the entry has none. -/
def Dev.encodeUnitOp (s : Dev) (r : UnitRef) : Dev :=
  match s.flying r with
  | none => s
  | some (x, u) =>
    if !x.enc || (u.passes < 8 && (s.unitPhases x).param) then s
    else s.onEngine r.stream.val x u (Dev.encodeCoded r.stream.val)

/-! Phase 10 -/

/-- Symbols of a unit are complete. -/
def MUnit.symbolsDone (u : MUnit) : Bool := u.stage == .coded || u.stage == .done

/-- The unit of stream x whose phase 10 runs next, once it can (R118, R162): units in order, with the symbols of the slice
below where phase 10 reads them, and where an adapter is due, that adapter trained and a departure for the slice (R233, R270). -/
def Dev.nextFin (s : Dev) (x : Stream) : Option MUnit :=
  match x.units.find? fun u => !u.fin with
  | none => none
  | some u =>
    let below := match x.nextSlice u with
      | some v => v.symbolsDone
      | none => false
    let trained := !x.tokenFree || match x.pic with
      | some p => p.trained && (!s.guaranteed x || decide ((x.units.filter fun v => v.subject == p.picId && v.fin).length < p.finDeps))
      | none => true
    if u.symbolsDone && trained && (x.lastSlice u || below || !s.reachesDown x u) then some u else none

/-- The DST tensor's key. -/
def dstKey : Nat := tensKey (mkTensor 4 0 0 0) 0

/-- The samples of a row of a plane of a decoded picture (R124), FALLBACK where it stands for the synthesis (R239). -/
def Stream.outRow (x : Stream) (dst : FMap) (fallback : Bool) (plane width r : Nat) : Bytes :=
  let depth := u8At x.param 5
  (List.range width).flatMap fun c =>
    let (X, Y, ch) := packedAt (u8At x.param 4) (u8At x.param 7) plane c r
    let comp := if plane == 0 then 0 else if u8At x.param 7 == 1 then 1 + c % 2 else plane
    sampleOut depth (if fallback then u16At x.header (64 + 2 * comp) / 2 ^ (16 - depth) else (listGet (dst.at X Y).1 ch 0).toNat)

/-- Write the rows of a slice to the output buffer (R220, R235, R239). -/
def Dev.writeOutput (s : Dev) (x : Stream) (u : MUnit) : Dev :=
  match x.pic with
  | none => s
  | some p =>
    match p.out with
    | none => s
    | some b =>
      let l := layoutOf x.param
      let (y0, n) := x.unitRows u
      let h := u16At x.param 2
      let dst := (p.maps.find dstKey).getD (FMap.zero 0 0 1)
      let base := (s.buf b).base
      (List.range l.dims.length).foldl (fun (t : Dev) i =>
        let (pw, ph) := listGet l.dims i (0, 0)
        let r0 := y0 * ph / h
        let r1 := ceilDiv ((y0 + n) * ph) h
        (rangeFrom r0 (r1 - r0)).foldl (fun (t : Dev) r =>
          t.putDev (base + listGet l.offs i 0 + r * listGet l.pitches i 0) (x.outRow dst (bitAt p.flags 3) i pw r)) t) s

/-- The flags that a unit's cells set on its job (R73). -/
def Stream.noteCells (x : Stream) (u : MUnit) : Stream :=
  x.modJob u.job fun j => { j with wide := j.wide || u.wide, sat := j.sat || u.sat }

/-- Phase 10 of a unit (R162, R166): the symbols join the picture's maps, the records run, the statistics are written. -/
def Dev.phaseTen (s : Dev) (n : Nat) (x : Stream) (u : MUnit) : Dev :=
  let ph := s.unitPhases x
  let below := match x.nextSlice u with
    | some v => if v.symbolsDone then v.maps else []
    | none => []
  let base := match x.pic with
    | some p => mergeMaps below (mergeMaps u.maps p.maps)
    | none => u.maps
  let (x1, u1) := x.setBase u base
  let s1 := (s.putUnit n x1 u1).withUnit n u.number fun t y v => t.runBase n y v 10 ph.ph10
  let s2 := s1.withUnit n u.number fun t y v => (t.setStream n (y.noteCells v)).writeStats n v.job v.stats
  let s3 := s2.modUnit n u.number fun v => { v with fin := true }
  s3.withUnit n u.number fun t y v => if y.enc then t else t.writeOutput y v

end Sys2Proof.Machine
end

