-- ==== Sys2Proof/Machine/Video.lean ====
section
/-!
DEFINITION. Video (R211, R212, R222 to R239): pictures at the encoder, source rows, rate control, regions, adapters, emission,
the closing of pictures, picture records and AUTO_COPY.
-/
namespace Sys2Proof.Machine

/-! Opening a picture at the encoder -/

/-- Buffers that an unacknowledged epoch still sends (R211, R357). -/
def Dev.epochHolds (s : Dev) (i : Nat) : Bool := s.pair.slots.any fun e => e.2.sent.any fun t => t.bufs.contains i

def none32 : Nat := 0xFFFFFFFF

/-- EFLAGS of an ENC_PICTURE (R222, R295). -/
def eflags (raw : Bytes) : Nat := u8At raw 63

/-- Type, references and marks of the next picture (R222, R223), with its PIC_ID. DEDUCED, log entry 71. -/
def Stream.nextPic (x : Stream) (job : Nat) (raw : Bytes) (buf : Nat) (roi : List Int) : Pic :=
  let ef := eflags raw
  let id := x.pics % none32
  let gop := u16At x.param 40
  let long := u8At x.param 24 != 0
  let intra := id == 0 || bitAt ef 0 || (gop != 0 && decide (gop ≤ x.sinceI))
  let li := u16At x.param 42
  let refL := if intra || !long then none
    else match x.long, x.short with
      | some l, some t => if l.picId == t.picId then none else some l
      | some l, none => some l
      | none, _ => none
  let refS := if intra then none else x.short
  let mark := if intra then 1 + 2 * b2n long
    else b2n (!bitAt ef 2) + 2 * b2n (long && (bitAt ef 1 || (li != 0 && decide (li ≤ x.sinceLong))))
  { picId := id, intra := intra, quality := 0, mark := mark, refShort := (refS.map (·.picId)).getD none32
    refLong := (refL.map (·.picId)).getD none32, pts := u64At raw 40, refS := refS.map (·.buf), refL := refL.map (·.buf), flags := 0, buf := buf
    out := none, maps := x.scratch, lastIdx := none, job := job, damaged := false, bytes := 0, rows := 0
    planes := (layoutOf x.param).dims.map fun _ => [], roi := roi
    hallmark := bitAt (u8At x.param 25) 2 || bitAt ef 4, qOper := u8At raw 62, trained := false, region := false, asked := false, unitsIn := [], begun := false
    trainDeps := 0, finDeps := 0 }

/-- Blocks of a picture. -/
def Stream.roiSize (x : Stream) : Nat := ceilDiv (u16At x.param 0) 64 * ceilDiv (u16At x.param 2) 64

/-- An I picture comes fewer than GOP_MIN pictures after the one before (R278). -/
def Dev.gopEarly (s : Dev) (x : Stream) (p : Pic) : Nat :=
  match s.seatOf x with
  | some (c, _) => if p.intra && c.adapters && decide (x.pics > 0) && decide (x.sinceI < c.gopMin) then c.gopMin else 0
  | none => 0

/-- Open the picture of the first ENC_PICTURE job that has none (R222), once no picture is open and a buffer is there. DEDUCED, log entry 56. -/
def Dev.beginPicture (s : Dev) (n : Nat) (x : Stream) : Dev :=
  if x.pic.isSome then s
  else
    match x.jobs.find? fun j => j.op == 0x40 && !j.touched && !j.cancelled with
    | none => s
    | some j =>
      match s.accOf j.seq, s.takeBuf n x false with
      | some a, some (b, s1) =>
        let ra := u64At a.raw 32
        let (roi, bad) := if ra == 0 then ([], false)
          else match s1.hostRead ra x.roiSize with
            | some m => (m.map fun v => sext 8 v.toNat, false)
            | none => ([], true)
        let p := x.nextPic j.seq a.raw b roi
        let gop := s1.gopEarly x p
        let y := { x.modJob j.seq (fun k => { k with touched := true }) with
                   pic := some p, gopLeft := if gop > 0 then gop else x.gopLeft, adapter := if p.intra then none else x.adapter }
        let s2 := (s1.setStream n y).refreshStreams
        if bad then s2.jobFault n j.seq else s2
      | _, _ => s

/-! Source rows -/

/-- The source of an ENC_PICTURE: address of plane 0, whether it lies in a pool buffer, and its pitches (R222, R295). DEDUCED, log entry 73. -/
def Dev.source (s : Dev) (raw : Bytes) : Nat × Bool × List Nat :=
  let pool := bitAt (spacesOf raw) 0
  (if pool then (s.buf (u32At raw 16 % 4096)).base else u64At raw 16, pool, (List.range 3).map fun k => 256 * u16At raw (56 + 2 * k))

/-- Read rows r0 to r1 - 1 of a plane; none where an access fails. -/
def Dev.readPlane (s : Dev) (space : Bool) (base pitch len : Nat) : Nat → Nat → Option (List Bytes)
  | 0, _ => some []
  | n + 1, r =>
    match s.readSpace space (base + r * pitch) len with
    | none => none
    | some b => (Dev.readPlane s space base pitch len n (r + 1)).map (b :: ·)

/-- A row of FALLBACK samples of a plane (R226). -/
def Stream.fallbackRow (x : Stream) (plane width : Nat) : Bytes :=
  let depth := u8At x.param 5
  (List.range width).flatMap fun c =>
    let comp := if plane == 0 then 0 else if u8At x.param 7 == 1 then 1 + c % 2 else plane
    sampleOut depth (u16At x.param (16 + 2 * comp) / 2 ^ (16 - depth))

/-- Rows of a plane that n ready luma rows complete. -/
def planeRows (h ph n : Nat) : Nat := n * ph / h

/-- Fill the rows that are missing with FALLBACK (R226). -/
def Stream.fillFallback (x : Stream) (p : Pic) : Pic :=
  let l := layoutOf x.param
  { p with
    rows := u16At x.param 2
    planes := (List.range l.dims.length).map fun i =>
      let (pw, ph) := listGet l.dims i (0, 0)
      let have_ := listGet p.planes i []
      have_ ++ List.replicate (ph - have_.length) (x.fallbackRow i pw) }

/-- Fetch planes i on, up to the luma rows given; none where an access fails. -/
def Dev.fetchPlanes (s : Dev) (x : Stream) (p : Pic) (base : Nat) (space : Bool) (pitches : List Nat) (rows : Nat) : Option (List (List Bytes)) :=
  let l := layoutOf x.param
  let depth := u8At x.param 5
  let (os, _) := planeOffsets (l.dims.zip pitches) 0
  (List.range l.dims.length).foldr (fun i (acc : Option (List (List Bytes))) =>
    match acc with
    | none => none
    | some rest =>
      let (pw, ph) := listGet l.dims i (0, 0)
      let have_ := listGet p.planes i []
      let want := planeRows (u16At x.param 2) ph rows
      (s.readPlane space (base + listGet os i 0) (listGet pitches i 0) (pw * sampleBytes depth) (want - have_.length) have_.length).map
        fun b => (have_ ++ b) :: rest) (some [])

/-- Fetch the rows that are ready (R222, R226); look: this is a doorbell poll, which reads the ROWS_ADDR counter. -/
def Dev.fetchRows (s : Dev) (n : Nat) (x : Stream) (look : Bool) : Dev :=
  match x.pic with
  | none => s
  | some p =>
    match s.accOf p.job with
    | none => s
    | some a =>
      if !x.enc || x.medium != 0 || p.rows ≥ u16At x.param 2 then s
      else
        let h := u16At x.param 2
        let ra := u64At a.raw 24
        let fail (t : Dev) : Dev := (t.jobFault n p.job).modStream n fun y => y.modPic y.fillFallback
        let ready : Option Nat := if ra == 0 then some h else if !look then some p.rows else (s.hostRead ra 4).map fun b => min (leNat b) h
        match ready with
        | none => fail s
        | some r =>
          if r ≤ p.rows then s
          else
            let (base, space, pitches) := s.source a.raw
            match s.fetchPlanes x p base space pitches r with
            | none => fail s
            | some ps => s.modStream n fun y => y.modPic fun q => { q with planes := ps, rows := r }

/-! Rate control (R227) -/


/-- b of R227. -/
def Stream.bitsPerSlice (x : Stream) : Int :=
  ((u32At x.param 32 * u32At x.param 12 / (u32At x.param 8 * x.slices) : Nat) : Int)

/-- apply_update (R227). -/
def RateCtl.apply (c : RateCtl) (bufBits b : Int) (u : Nat × Nat × Nat × Nat) : RateCtl :=
  let (t, k, bits_, q) := u
  { c with F := min (max (c.F + bits_ - b) 0) bufBits, lastBits := c.lastBits.put (t * 65536 + k) bits_
           lastQ := c.lastQ.put (t * 65536 + k) q, next := c.next + 1 }

/-- Apply the updates of the coded slices with index below n, in order. -/
def RateCtl.applyTo (bufBits b : Int) (n : Nat) : Nat → RateCtl → RateCtl
  | 0, c => c
  | f + 1, c =>
    if c.next ≥ n then c
    else
      match c.log.find c.next with
      | none => c
      | some u => RateCtl.applyTo bufBits b n f { (c.apply bufBits b u) with log := c.log.del c.next }

/-- rc_slice (R227): the quality of slice k of a picture, and the state with the updates applied. -/
def Stream.rcSlice (x : Stream) (p : Pic) (k : Nat) : Nat × RateCtl :=
  let S := x.slices
  let j := x.pics * S + k
  let buf : Int := (u32At x.param 36 : Nat)
  let b := x.bitsPerSlice
  let c := RateCtl.applyTo buf b (j + 1 - S) (S + 1) x.rc
  let q : Nat :=
    if p.qOper != 0xFF then p.qOper
    else if u8At x.param 26 == 0 then u8At x.param 27
    else
      let w : Int := if p.intra then (u8At x.param 30 : Nat) else 16
      let tgt := max (b * w / 16 + (buf / 2 - c.F).tdiv (2 * (S : Int))) (max (b / 4) 1)
      let key := b2n (!p.intra) * 65536 + k
      let qb : Int := (u8At x.param 27 : Nat)
      let q0 : Int := match c.lastBits.find key with
        | none => qb
        | some lb => ((c.lastQ.get key 0 : Nat) : Int) - min (max (lg8 (lb : Nat) - lg8 tgt) (-4)) 4
      (min (max q0 ((u8At x.param 28 : Nat) : Int)) ((u8At x.param 29 : Nat) : Int)).toNat
  (q, c)

/-! Regions (R229) -/

/-- The ROI offset of 64 × 64 block (bx, by) of the open picture. -/
def Stream.blockOffset (x : Stream) (p : Pic) (bx by_ : Nat) : Int :=
  let hits := (chunks 16 (u32At x.boxes 0) (x.boxes.drop 4)).filter fun b =>
    decide (u16At b 4 > 64 * bx) && decide (u16At b 0 < 64 * bx + 64) && decide (u16At b 6 > 64 * by_) && decide (u16At b 2 < 64 * by_ + 64)
  let region : Int :=
    if !x.region || x.pics == 0 then 0
    else match hits.map fun b => sext 8 (u8At x.param (48 + min (u8At b 14) 15)) with
      | [] => sext 8 (u8At x.param 46)
      | o :: os => os.foldl max o
  min (max (region + listGet p.roi (by_ * ceilDiv (u16At x.param 0) 64 + bx) 0) (-64)) 63

/-- The offsets of slice k, empty where all are zero (R190, R229). -/
def Stream.sliceRoi (x : Stream) (p : Pic) (k : Nat) : List Int :=
  let (w, h, K) := x.geo
  let (y0, n) := sliceRows h K k
  let os := (List.range (ceilDiv n 64)).flatMap fun j => (List.range (ceilDiv w 64)).map fun i => x.blockOffset p i (y0 / 64 + j)
  if os.all (· == 0) then [] else os

/-- exp2_r of R129 on binary32 codes. The table T holds 2^(j/64) rounded to binary32. -/
def exp2Table (j : Nat) : Nat :=
  -- floor of 2^(j/64) × 2^128 by the 64-fold root of 2^(j + 64·128), then one rounding
  let target := 2 ^ (j + 64 * 128)
  let m := (List.range 130).foldl (fun a i => let b := a + 2 ^ (129 - i); if b ^ 64 ≤ target then b else a) 0
  (Fmt.fp32.round false false m (-128)).1

/-- The f32 operations of a region unit: round to nearest even, subnormal results flushed to zero. "Region units ... flush subnormals" does not say
whether subnormal inputs count as zero: they do not. DESIGN CHOICE, log entry 175. -/
def f32Add (a b : Nat) : Nat := Fmt.fp32.flush (Fmt.fp32.add a b).1
def f32Sub (a b : Nat) : Nat := Fmt.fp32.flush (Fmt.fp32.sub a b).1
def f32Mul (a b : Nat) : Nat := Fmt.fp32.flush (Fmt.fp32.mul a b).1
def f32Fma (a b c : Nat) : Nat := Fmt.fp32.flush (Fmt.fp32.fma a b c).1
def f32Max (a b : Nat) : Nat := (Fmt.fp32.maxNum a b).1
def f32Min (a b : Nat) : Nat := (Fmt.fp32.minNum a b).1

/-- a > b on binary32 codes. -/
def f32Gt (a b : Nat) : Bool := FVal.lt false (Fmt.fp32.decode b) (Fmt.fp32.decode a)

/-- floor of a finite binary32 value. -/
def f32Floor (a : Nat) : Int :=
  match Fmt.fp32.decode a with
  | .fin s m e => let v : Int := if s then -(m : Int) else m; if e ≥ 0 then v * 2 ^ e.toNat else v / ((2 ^ (-e).toNat : Nat) : Int)
  | _ => 0

def exp2R (t : Nat) : Nat :=
  let lo := (sampleCode (-8)).toNat
  let hi := (sampleCode 8).toNat
  let c := f32Min (f32Max t lo) hi
  let n := f32Floor c
  let f := f32Sub c (sampleCode n).toNat
  let g := f32Mul (sampleCode 64).toNat f
  let i := f32Floor g
  let r := f32Sub g (sampleCode i).toNat
  let t0 := exp2Table i.toNat
  Fmt.fp32.flush (Fmt.fp32.scaleB (f32Add t0 (f32Mul (f32Sub (exp2Table (i.toNat + 1)) t0) r)) n)

/-- A candidate (R128): anchor, class, and binary32 score, dx, dy, dw, dh. -/
structure Cand where
  anchor : Nat
  cls    : Nat
  score  : Nat
  d      : List Nat
deriving DecidableEq, Repr

/-- A decoded box: corners, score, anchor, class. -/
structure Box where
  x0     : Nat
  y0     : Nat
  x1     : Nat
  y1     : Nat
  score  : Nat
  anchor : Nat
  cls    : Nat
deriving DecidableEq, Repr

def f32Finite (a : Nat) : Bool :=
  match Fmt.fp32.decode a with
  | .fin _ _ _ => true
  | _ => false

/-- R129: a candidate with its anchor (cx, cy, w, h), none where it is discarded. -/
def decodeCand (W H thr : Nat) (anc : List Nat) (c : Cand) : Option Box :=
  if !((c.score :: c.d ++ anc).all f32Finite) || f32Gt thr c.score then none
  else
    let a (i : Nat) : Nat := listGet anc i 0
    let d (i : Nat) : Nat := listGet c.d i 0
    let cx := f32Fma (d 0) (a 2) (a 0)
    let cy := f32Fma (d 1) (a 3) (a 1)
    let w := f32Mul (a 2) (exp2R (d 2))
    let h := f32Mul (a 3) (exp2R (d 3))
    let half := Fmt.fp32.scaleB (sampleCode 1).toNat (-1)
    let cl (v lim : Nat) : Nat := f32Min (f32Max v 0) (sampleCode lim).toNat
    let (hw, hh) := (f32Mul half w, f32Mul half h)
    some { x0 := cl (f32Sub cx hw) W, y0 := cl (f32Sub cy hh) H, x1 := cl (f32Add cx hw) W, y1 := cl (f32Add cy hh) H
           score := c.score, anchor := c.anchor, cls := c.cls }

/-- Order of R130: score descending, anchor index ascending, class ascending. -/
def Box.before (a b : Box) : Bool :=
  f32Gt a.score b.score || (!f32Gt b.score a.score && (decide (a.anchor < b.anchor) || (a.anchor == b.anchor && decide (a.cls < b.cls))))

def insertBox (b : Box) : List Box → List Box
  | [] => [b]
  | c :: cs => if b.before c then b :: c :: cs else c :: insertBox b cs

/-- Box b is suppressed by kept box k (R130). -/
def suppresses (aware : Bool) (iou : Nat) (k b : Box) : Bool :=
  if aware && k.cls != b.cls then false
  else
    let iw := f32Max 0 (f32Sub (f32Min k.x1 b.x1) (f32Max k.x0 b.x0))
    let ih := f32Max 0 (f32Sub (f32Min k.y1 b.y1) (f32Max k.y0 b.y0))
    let inter := f32Mul iw ih
    let area (q : Box) : Nat := f32Mul (f32Sub q.x1 q.x0) (f32Sub q.y1 q.y0)
    f32Gt inter (f32Mul iou (f32Sub (f32Add (area k) (area b)) inter))

/-- Suppression (R130) over boxes in order. -/
def suppress (aware : Bool) (iou keepMax : Nat) (bs : List Box) : List Box :=
  bs.foldl (fun kept b => if kept.length ≥ keepMax || kept.any fun k => suppresses aware iou k b then kept else kept ++ [b]) []

/-- A coordinate as a u16: nearest, ties to even, saturating (R131). -/
def coord16 (v : Nat) : Nat :=
  match Fmt.fp32.decode v with
  | .fin s m e => if s then 0 else min (roundInt .rne false m e).1.toNat 65535
  | .inf s => if s then 0 else 65535
  | .nan _ => 0

/-- The record of a kept box (R131). -/
def Box.record (b : Box) : Bytes :=
  leBytes 2 (coord16 b.x0) ++ leBytes 2 (coord16 b.y0) ++ leBytes 2 (coord16 b.x1) ++ leBytes 2 (coord16 b.y1) ++ leBytes 4 b.score ++
    leBytes 2 b.anchor ++ leBytes 1 b.cls ++ leBytes 1 0

/-- Anchor i of a package (R134); none beyond its table. -/
def Pkg.anchor (p : Pkg) (i : Nat) : Option (List Nat) :=
  if i < u32At (p.sec 12) 0 then some ((List.range 4).map fun j => u32At (p.sec 12) (4 + 16 * i + 4 * j)) else none

/-- A binary32 number that the spec leaves open. -/
def freeF32 (bs : Bytes) (i : Nat) : Nat := u32At bs (4 * i)

/-- X_n of a picture at the encoder (R334). -/
def Stream.pictureDigestInput (x : Stream) (p : Pic) (ef : Nat) : Bytes :=
  let roi : Bytes := (List.range x.roiSize).map fun i => BitVec.ofNat 8 (toCode 8 (listGet p.roi i 0))
  p.planes.flatMap (fun rows => rows.flatMap id) ++ leBytes 8 p.pts ++ leBytes 1 p.qOper ++ leBytes 1 ef ++ roi

/-- The digest of the open picture's access unit (R334). -/
def Dev.pictureDigest (s : Dev) (x : Stream) (p : Pic) : Bytes :=
  if x.enc then
    let ef := match s.accOf p.job with
      | some a => eflags a.raw
      | none => 0
    sha256 (x.chain ++ x.pictureDigestInput p ef)
  else sha256 (x.chain ++ p.unitsIn)

/-- n bytes that a job of the open picture computes and the spec does not state (R48, R336; log entries 16, 17). -/
def Dev.jobBytes (s : Dev) (x : Stream) (p : Pic) (tag n : Nat) : Bytes :=
  (List.range n).map (Config.jobByte ((s.pkgOf x).pkgDigest ++ s.pictureDigest x p ++ leBytes 4 tag))

/-- A region unit is the stream's now (R266, R277): in a guaranteed stream's own segment of the departure of the picture's slice 0, or of a later one
where the picture's input was not complete by then (R229); otherwise any that works. DEDUCED, log entry 177. -/
def Dev.regionNow (s : Dev) (x : Stream) : Bool :=
  let up (r : Nat) : Bool := !(listGet s.units.regionDown (r - 32) true)
  match s.seatOf x with
  | some (c, t) =>
    if !c.guaranteed then up 32 || up 33
    else
      let gone := x.units.any fun u => some u.subject == x.pic.map (·.picId) && u.idx == 0 && u.stage != .queued && u.stage != .released
      gone && (t.departed.bind fun d => (s.segmentNow c t d fun r => r == 32 || r == 33).map up).getD false
  | none => false

/-- REGION_JOB (R129 to R131, R229): the REGION entry runs on the picture, its candidates are decoded with the package's anchors and suppressed. Where
the candidates and the thresholds stand is not in the spec: they are free, as is an anchor beyond the table (log entry 16). -/
def Dev.regionOp (s : Dev) (n : Nat) : Dev :=
  match s.stream n with
  | none => s
  | some x =>
    if !x.regionDue || !s.regionNow x then s
    else
      let p := s.pkgOf x
      let (w, h, _) := x.geo
      let s1 := match p.entry 10, x.pic with
        | some e, some q =>
          let ex := (Exec.start p e.recs w h)
          s.tallyExec x (({ ex with maps := q.maps.put (tensKey (mkTensor 3 0 0 0) 0) (x.pictureSrc q), depth := x.depth }).runPhase 0 false e.recs)
        | _, _ => s
      let free (tag n : Nat) : Bytes := match x.pic with
        | some q => s.jobBytes x q tag n
        | none => List.replicate n 0
      let hd := free 10 16
      let count := u32At hd 0 % 65537
      let body := free 266 (count * 40)
      let cands := (List.range count).map fun i =>
        let b := slice body (40 * i) 40
        (({ anchor := u16At b 0, cls := u8At b 2, score := u32At b 4, d := (List.range 4).map fun j => u32At b (8 + 4 * j) } : Cand),
          (p.anchor (u16At b 0)).getD ((List.range 4).map fun j => u32At b (24 + 4 * j)))
      let boxes := (cands.filterMap fun c => decodeCand w h (u32At hd 4) c.2 c.1).foldr insertBox []
      let iou := f32Min (f32Max (u32At hd 8) 0) (sampleCode 1).toNat
      let kept := suppress (bitAt (u8At hd 12) 0) iou (1 + u16At hd 14 % 1024) boxes
      let s4 := (s1.count (ev 13 4) count).count (ev 13 5) kept.length
      s4.modStream n fun y => { y with regionDue := false, boxes := leBytes 4 kept.length ++ kept.flatMap Box.record }

/-! Slices of a picture at the encoder -/

/-- Luma rows of the picture that a list of records reads for a unit (R23, R118, R159): rows of the SRC tensor, each of 2^dv luma rows. DEDUCED, log
entry 43. -/
def Exec.sourceRows (e : Exec) (rs : List (Nat × Nat)) : Nat :=
  maxN ((e.needs rs).map fun d =>
    let r := e.pkg.rcd d.1.1 d.1.2
    let last : Int := d.2.foldl (fun (m : Int) y => max m (r.lastRow y)) (-1)
    maxN ([r.inA, r.inB].map fun c =>
      let t := e.pkg.tensor d.1.1 c
      if srcKind c == 2 && t.kind == 3 && r.op != 5 then (last + 1).toNat * 2 ^ t.dv.toNat else 0))

/-- Luma rows that must be resident before slice k's input is complete (R23, R118, R233): its own, and those that its program's halo
reaches. -/
def Dev.rowsNeeded (s : Dev) (x : Stream) (p : Pic) (k : Nat) : Nat :=
  let (_, h, K) := x.geo
  let ph := s.unitPhases x
  let e := s.unitExec x { MUnit.blank with idx := k } p.maps
  let lists := [ph.ph0, ph.ph1, ph.loop, ph.ph10]
  let e1 := lists.flatten.foldl (fun t kr => t.prepare false kr) e
  if (x.adapters && p.intra) || k + 1 == sliceCount h K then h
  else min h (max (64 * K * (k + 1)) (maxN (lists.map e1.sourceRows)))

/-- Make the units of the slices whose input is complete, from slice k on (R23, R212, R227, R229). -/
def Dev.feedSlices (n : Nat) : Nat → Nat → Dev → Dev
  | 0, _, s => s
  | f + 1, k, s =>
    match s.stream n with
    | none => s
    | some x =>
      match x.pic with
      | none => s
      | some p =>
        if k ≥ x.slices || p.rows < s.rowsNeeded x p k || !p.region then s
        else
          let (q, rc) := x.rcSlice p k
          let u := { MUnit.blank with idx := k, subject := p.picId, job := p.job, quality := q, roi := x.sliceRoi p k }
          let s1 := s.modStream n fun y => { y.modPic (fun z => { z with lastIdx := some k }) with rc := rc }
          Dev.feedSlices n f (k + 1) (s1.addUnit n u)

/-- The picture's slices may start once no region job is outstanding; its own falls due when its input is complete (R229). -/
def Stream.askRegion (x : Stream) : Stream :=
  match x.pic with
  | none => x
  | some p =>
    let go := p.region || !x.regionDue
    let ask := go && !p.asked && x.region && p.rows == u16At x.param 2
    { x.modPic (fun q => { q with region := go, asked := q.asked || ask }) with regionDue := x.regionDue || ask }

/-- Feed an encode stream of video: a picture opens, its rows are fetched, its slices become units. -/
def Dev.feedVideo (s : Dev) (n : Nat) (look : Bool) : Dev :=
  match s.stream n with
  | none => s
  | some x0 =>
    let s0 := s.beginPicture n x0
    match s0.stream n with
    | none => s0
    | some x =>
      let s1 := (s0.fetchRows n x look).modStream n Stream.askRegion
      let next := match (s1.stream n).bind (·.pic) with
        | some p => (p.lastIdx.map (· + 1)).getD 0
        | none => 0
      Dev.feedSlices n x.slices next s1

/-! Emission -/

/-- The MOTION vectors of a slice as the encoder's records left them, as section bytes (R191, R213). DEDUCED, log entry 58. -/
def Dev.motionSection (s : Dev) (x : Stream) (p : Pic) (u : MUnit) : Bytes :=
  match (s.pkgOf x).motion with
  | none => []
  | some t =>
    if p.intra then []
    else
      let (y0, n) := x.unitRows u
      let (a, b) := gridRows y0 n t.dv
      let m := (p.maps.find (tensKey t 0)).getD (FMap.zero 0 0 t.chans)
      (rangeFrom a (b - a)).flatMap fun r => (List.range (gridW x.geo.1 t.dh)).flatMap fun c =>
        let v := (m.at c r).1
        leBytes 2 (toCode 16 (listGet v 0 0)) ++ leBytes 2 (toCode 16 (listGet v 1 0))

/-- The slice unit of a coded slice (R189 to R192). -/
def Dev.sliceUnit (s : Dev) (x : Stream) (p : Pic) (u : MUnit) : Bytes :=
  let raw := s.motionSection x p u
  let z := deflateRaw 4 raw
  let defl := decide (z.length < raw.length)
  let m := if defl then z else raw
  let roi := u.roi.map fun v => BitVec.ofNat 8 (toCode 8 v)
  unitOf 5 0 (leBytes 4 p.picId ++ leBytes 2 u.idx ++ leBytes 1 u.quality ++ leBytes 1 (b2n (!roi.isEmpty) + 2 * b2n defl) ++
    leBytes 4 roi.length ++ leBytes 4 m.length ++ leBytes 4 u.coded.length ++ leBytes 4 0 ++ roi ++ m ++ u.coded)

/-- Queue the units that slice u of the open picture brings (R199, R200, R225): before slice 0 the header units, after the last
slice a hallmark. -/
def Dev.queueSlice (s : Dev) (n : Nat) (x : Stream) (p : Pic) (u : MUnit) : Dev :=
  let job := some p.job
  let e (b : Bytes) : Emit := ⟨b, none, job⟩
  let adapter := x.adapters && p.intra
  let pre : List Emit :=
    if u.idx != 0 then []
    else
      (if p.intra && decide (x.pics > 0) then [e (unitOf 1 1 x.header), e (unitOf 2 1 (modelFor (s.pkgOf x)))] else []) ++
        (match x.adapter with
         | some a => if adapter then [e (unitOf 3 0 (adapterPayload p.picId a))] else []
         | none => []) ++ [e (unitOf 4 0 (pictureFor p (adapter && x.adapter.isSome) u.quality))]
  let b := s.sliceUnit x p u
  let post : List Emit :=
    if p.hallmark && x.lastSlice u then
      [e (unitOf 8 0 (hallmarkPayload 0 p.picId (s.hallmarkOf x 0 (s.pictureDigest x p) (x.entryKind p.intra :: x.pictureExtra p.intra))))]
    else []
  let t := b2n (!p.intra)
  let j := x.pics * x.slices + u.idx
  s.setStream n
    { x with emits := x.emits ++ pre ++ [⟨b, some u.number, job⟩] ++ post, nextEmit := u.number + 1
             rc := { x.rc with log := x.rc.log.put j (t, u.idx, 8 * b.length, u.quality) }
             jobs := x.jobs.map fun k => if k.seq == p.job && !post.isEmpty then { k with hmUnit := true } else k }

/-- Queue the coded slices in order (R225); those of an adapter I picture once phase 10 has run (R233). -/
def Dev.queueSlices (n : Nat) : Nat → Dev → Dev
  | 0, s => s
  | f + 1, s =>
    match s.stream n with
    | none => s
    | some x =>
      match x.pic, x.units.find? fun u => u.number == x.nextEmit with
      | some p, some u =>
        if u.stage == .coded && u.subject == p.picId && (!x.tokenFree || u.fin) then Dev.queueSlices n f (s.queueSlice n x p u) else s
      | _, _ => s

/-! The output rings -/

/-- Write bytes into a host byte ring at an offset, wrapping (R224); none where a write fails. DEDUCED, log entry 69. -/
def Dev.ringWrite (s : Dev) (base size off : Nat) (b : Bytes) : Option Dev :=
  let o := off % size
  let k := size - o
  if b.length ≤ k then s.hostWrite (base + o) b
  else (s.hostWrite (base + o) (b.take k)).bind fun t => t.hostWrite base (b.drop k)

/-- Read CONSUMED again (R224, R236): the highest value counts. -/
def Dev.readConsumed (s : Dev) (x : Stream) : Option Nat := (s.hostRead (x.ptr + 8) 8).map leNat

/-- CONSUMED as it is known when output is tried: read now unless the stream waits, when only polls read it (R224). DEDUCED, log entry 68. -/
def Dev.consumedNow (s : Dev) (x : Stream) : Option Nat := if x.waiting = Wait.room then some x.consumed else s.readConsumed x

/-- UNIT_EMIT (R224, R225, R273): write the head unit into the emission ring. -/
def Dev.unitEmitOp (s : Dev) (n : Nat) : Dev :=
  match s.stream n with
  | none => s
  | some x =>
    match x.emits with
    | [] => s
    | e :: rest =>
      let q := e.job.getD s.host.nextSeq
      if !s.mayWrite x.func then s
      else
        let drop (t : Dev) : Dev :=
          let t1 := t.modStream n fun y =>
            { y with emits := rest, pic := y.pic.map fun p => if e.job == some p.job then { p with begun := true } else p }
          let t2 := if e.job.isSome then t1.jobFault n q else t1
          match e.unit with
          | some k => ((t2.releaseEngine n k).deliver n k).writeCoded n
          | none => t2
        match s.consumedNow x with
        | none => drop s
        | some c =>
          let s0 := s.modStream n fun y => { y with consumed := c }
          let size := 2 ^ x.ringLog2
          if x.emitted + e.bytes.length > c + size then (if x.waiting = Wait.room then s0 else s0.waitRoom n q)
          else
            match (s0.ringWrite x.ring size x.emitted e.bytes).bind fun t => t.hostWrite x.ptr (leBytes 8 (x.emitted + e.bytes.length)) with
            | none => drop s0
            | some t =>
              let t1 := (t.gotRoom n).modStream n fun y =>
                { (y.modJob q fun j => { j with result := if j.op == 0x40 then j.result + e.bytes.length else j.result }) with
                  emitted := x.emitted + e.bytes.length, emits := rest
                  pic := y.pic.map fun p => if e.job == some p.job then { p with begun := true } else p }
              match e.unit with
              | some k => ((t1.releaseEngine n k).deliver n k).writeCoded n
              | none => t1

/-! Adapters (R233, R234) -/

/-- E and the codes of a master matrix (R234). -/
def quantiseMaster (vs : List Nat) : Int × List Int :=
  let f := Fmt.fp32
  let m := vs.foldl (fun a v => if (f.decode v).isNan then a else f32Max a (f.abs v)) 0
  let fits (e : Int) : Bool := match f.decode m with
    | .fin _ k x => decide (((k : Rat) * (2 : Rat) ^ (x + 200).toNat) ≤ 7 * (2 : Rat) ^ (e + 200).toNat)
    | _ => false
  if m == 0 then (0, vs.map fun _ => 0)
  else
    let e := (((List.range 47).map fun (i : Nat) => (i : Int) - 31).find? fits).getD 15
    (e, vs.map fun v => match f.decode v with
      | .fin s k x => min (max (roundInt .rne s k (x - e)).1 (-8)) 7
      | .inf s => if s then -8 else 7
      | .nan _ => 0)

/-- The trained adapter from master matrices (R185, R186, R234). -/
def adapterFrom (g : Bytes) (masters : List (List Nat × List Nat)) : Adapter :=
  let n := u8At g 21
  let ts := (List.range n).map fun j =>
    let i := u16At g (24 + 2 * j)
    let (d, u) := listGet masters j ([], [])
    let (de, dc) := quantiseMaster d
    let (ue, uc) := quantiseMaster u
    ({ rcd := i, down := de, up := ue, D := dc, U := uc } : Target)
  let desc := ts.flatMap fun t =>
    let r := recAt g t.rcd
    leBytes 2 t.rcd ++ leBytes 2 r.cIn ++ leBytes 2 r.cOut ++ leBytes 1 (toCode 8 t.down) ++ leBytes 1 (toCode 8 t.up) ++ leBytes 8 0
  { targets := ts, bytes := desc ++ ts.flatMap fun t => packInt4 t.D ++ packInt4 t.U }

/-- The TRAIN iterations of picture id (R233), numbered from i: each runs every record anew, with generators seeded from
SEED ^ (i << 32) ^ PIC_ID. -/
def trainRuns (recs : List (Nat × Nat)) (id : Nat) : Nat → Nat → Exec → Exec
  | 0, _, e => e
  | n + 1, i, e =>
    let fresh := recs.foldl (fun m kr => SMap.del m (recKey kr)) e.maps
    trainRuns recs id n (i + 1) ({ e with maps := fresh, seedX := i * 2 ^ 32 ^^^ id }.runPhase (16 + i) false recs)

/-- TRAIN (R233, R270): once every slice of an adapter I picture is coded, and its M departures have been. The master matrices lie where the spec does
not say: they are free (log entry 17). -/
def Dev.trainOp (s : Dev) (n : Nat) : Dev :=
  match s.stream n with
  | none => s
  | some x =>
    match x.pic with
    | none => s
    | some p =>
      let mine := x.units.filter fun u => u.subject == p.picId
      let wait := match s.seatOf x with
        | some (c, _) => c.guaranteed && decide (p.trainDeps < c.trainDeps (s.pkgOf x) c.spacing)
        | none => true
      if wait || !(x.tokenFree && !p.trained && mine.length == x.slices && mine.all fun u => u.stage == .coded) then s
      else
        let pk := s.pkgOf x
        let (w, h, _) := x.geo
        let iters := if u8At x.param 31 == 0 then 24 else u8At x.param 31
        let recs := ((pk.entry 5).map (·.recs)).getD []
        let ex := { Exec.start pk recs w h with maps := p.maps, depth := x.depth }
        let e := trainRuns recs p.picId iters 0 ex
        let g := pk.prog 0
        let masters := (List.range (u8At g 21)).map fun j =>
          let r := recAt g (u16At g (24 + 2 * j))
          let b := s.jobBytes x p (5 + 256 * j) (32 * (r.cIn + r.cOut))
          ((List.range (8 * r.cIn)).map (freeF32 b), (List.range (8 * r.cOut)).map fun i => freeF32 b (8 * r.cIn + i))
        (s.modStream n fun y => { y.modPic (fun q => { q with trained := true, maps := e.maps }) with
                                   adapter := some (adapterFrom g masters)
                                   scratch := overlay (e.maps.filter fun m => isScratch m.1) y.scratch }).tallyExec x e

/-! Closing a picture (R211, R216, R238) -/

/-- The buffers that a stream's slots name. -/
def Stream.named (x : Stream) : List Nat := [x.short, x.long, x.last].filterMap fun r => r.map (·.buf)

/-- States of a stream's feature buffers as its slots now stand (R211, R216). -/
def Dev.settleFeatures (s : Dev) (n : Nat) : Dev :=
  match s.stream n with
  | none => s
  | some x =>
    let busy := (x.pic.map (·.buf))
    (s.media.pool.filter fun e => e.2.stream == some n && !e.2.output && e.2.state != .free && some e.1 != busy).foldl (fun (t : Dev) e =>
      if (x.long.map (·.buf)) == some e.1 then t.setBuf e.1 { e.2 with state := .refLong }
      else if x.named.contains e.1 || s.epochHolds e.1 then t.setBuf e.1 { e.2 with state := .refShort }
      else t.freeBuf e.1) s

/-- PRFLAGS at the close (R236, R238). -/
def Pic.closeFlags (p : Pic) : Nat := p.flags ||| (if p.damaged || bitAt p.flags 7 then 4 else 0)

/-- The picture record but for HOST_SLOT and SEQ (R236). -/
def pictureRecord (p : Pic) (flags buffer slot seq : Nat) : Bytes :=
  leBytes 4 p.picId ++ leBytes 1 (b2n (!p.intra)) ++ leBytes 1 p.quality ++ leBytes 2 flags ++ leBytes 4 buffer ++ leBytes 4 slot ++
    leBytes 8 p.pts ++ leBytes 4 seq ++ leBytes 4 0

/-- Every slice of the open picture is done, and its region job (R211, R229). DEDUCED, log entry 86. -/
def Stream.pictureDone (x : Stream) (p : Pic) : Bool :=
  !x.regionDue && p.lastIdx == some (x.slices - 1) && (x.units.filter fun u => u.subject == p.picId).all fun u => u.fin && u.symbolsDone

/-- The access unit of job q is done: chain, and the hallmark of its completion (R334, R335). -/
def Dev.endAccess (s : Dev) (n q scope : Nat) (dig : Bytes) (kinds : List Nat) (chained : Bool) : Dev :=
  match s.stream n with
  | none => s
  | some x =>
    let hm := if s.wantsHallmark q then some (s.hallmarkOf x scope dig kinds) else none
    s.setStream n
      { x with chain := if chained then dig else x.chain
               jobs := x.jobs.map fun j => if j.seq == q then { j with hallmark := hm } else j }

/-- PICTURE_CLOSE (R211, R212, R216, R238). A picture that can still be cancelled has not closed (R226). -/
def Dev.pictureCloseOp (s : Dev) (n : Nat) : Dev :=
  match s.stream n with
  | none => s
  | some x =>
    match x.pic with
    | none => s
    | some p =>
      if !x.pictureDone p || !p.begun then s
      else
        let feat := p.maps.find (tensKey (mkTensor 7 0 0 0) 0)
        let s1 : Dev := match feat with
          | some m => { s with media := { s.media with feats := s.media.feats.put p.buf m } }
          | none => s
        let slot : RefSlot := { picId := p.picId, buf := p.buf }
        let fl := p.closeFlags
        let derived := x.derived || bitAt fl 0 || bitAt fl 2
        let fl2 := fl ||| (if x.sticky then 16 else 0)
        let s2 := s1.endAccess n p.job 0 (s1.pictureDigest x p) (x.entryKind p.intra :: x.pictureExtra p.intra) true
        let s3 := s2.modStream n fun (y : Stream) =>
          { y with
            last := some slot, short := if bitAt p.mark 0 then some slot else y.short, long := if bitAt p.mark 1 then some slot else y.long
            pic := none, pics := y.pics + 1, sinceI := if p.intra then 1 else y.sinceI + 1
            sinceLong := if bitAt p.mark 1 then 1 else y.sinceLong + 1, derived := if y.enc then y.derived else derived
            gopLeft := y.gopLeft - 1, units := y.units.filter fun u => u.subject != p.picId || u.stage != .done }
        let s4 := match p.out with
          | none => s3
          | some b =>
            let h := s3.bufHandle b
            (s3.setBuf b { s3.buf b with state := .outputPending }).modStream n fun (y : Stream) =>
              { y with recs := y.recs ++ [(⟨pictureRecord p fl2 (if y.autoCopy then none32 else h) none32 0, p.job, none, some b, false⟩ : RecOut)] }
        ((s4.modStream n fun y => y.closeAccess 1 y.nextUnit (y.records + y.recs.length)).settleFeatures n).refreshStreams

/-! Picture records (R236) -/

/-- The host address of the slot of record number k. -/
def Stream.slotAddr (x : Stream) (k : Nat) : Nat := u64At x.param 88 + (k % max 1 (u16At x.param 100)) * u32At x.param 96

/-- AUTO_COPY (R236): the first picture not copied goes to its host slot, and its buffer returns to FREE. -/
def Dev.autoCopyOp (s : Dev) (n : Nat) : Dev :=
  match s.stream n with
  | none => s
  | some x =>
    match x.recs.findIdx? fun r => !r.copied with
    | none => s
    | some i =>
      match listGet x.recs i { bytes := [], job := 0, unit := none, buf := none, copied := true } with
      | r =>
        match r.buf with
        | none => s
        | some b =>
          if !x.autoCopy || !s.mayWrite x.func then s
          else
            let k := x.records + i
            let done (t : Dev) : Dev :=
              (t.freeBuf b).modStream n fun y => { y with recs := listMod y.recs i fun z => { z with copied := true } }
            match s.consumedNow x with
            | none => done (s.jobFault n r.job)
            | some c =>
              let s0 := s.modStream n fun y => { y with consumed := c }
              if k ≥ c + u16At x.param 100 then (if x.waiting = Wait.room then s0 else s0.waitRoom n r.job)
              else
                match s0.hostWrite (x.slotAddr k) (s0.dmem.readN (s0.buf b).base (layoutOf x.param).size) with
                | none => done (s0.jobFault n r.job)
                | some t => done (t.gotRoom n)

/-- Write a record into a record ring of entries of a size (R236, R257): the state, or the wait for room. -/
def Dev.recordOp (s : Dev) (n size : Nat) (entry : Stream → RecOut → Bytes) : Dev :=
  match s.stream n with
  | none => s
  | some x =>
    match x.recs with
    | [] => s
    | r :: rest =>
      if (x.autoCopy && !r.copied) || !s.mayWrite x.func then s
      else
        let drop (t : Dev) : Dev :=
          let t1 := (t.modStream n fun y => { y with recs := rest }).jobFault n r.job
          match r.unit with
          | some k => t1.deliver n k
          | none => t1
        match s.consumedNow x with
        | none => drop s
        | some c =>
          let s0 := s.modStream n fun y => { y with consumed := c }
          let room := if x.autoCopy then min (2 ^ x.ringLog2) (u16At x.param 100) else 2 ^ x.ringLog2
          if x.records ≥ c + room then (if x.waiting = Wait.room then s0 else s0.waitRoom n r.job)
          else
            match (s0.hostWrite (x.ring + size * (x.records % 2 ^ x.ringLog2)) (entry x r)).bind fun t =>
                t.hostWrite x.ptr (leBytes 8 (x.records + 1)) with
            | none => drop s0
            | some t =>
              let t1 := (t.gotRoom n).modStream n fun y => { y with records := y.records + 1, recs := rest }
              match r.unit with
              | some k => t1.deliver n k
              | none => t1

/-- PICTURE_RECORD (R236). -/
def Dev.pictureRecordOp (s : Dev) (n : Nat) : Dev :=
  match s.stream n with
  | none => s
  | some x =>
    if x.medium != 0 then s
    else s.recordOp n 32 fun y r =>
      r.bytes.take 12 ++ leBytes 4 (if y.autoCopy then y.records % max 1 (u16At y.param 100) else none32) ++ (r.bytes.drop 16).take 8 ++
        leBytes 4 (y.records % 2 ^ 32) ++ leBytes 4 0

/-! ENC_PICTURE -/

/-- The operands of an ENC_PICTURE are in range (R222, R294, R295). -/
def Dev.encPictureOk (s : Dev) (a : Acc) (x : Stream) : Bool :=
  let b := a.raw
  let l := layoutOf x.param
  let depth := u8At x.param 5
  let pitches := (List.range 3).map fun k => 256 * u16At b (56 + 2 * k)
  let (_, size) := planeOffsets (l.dims.zip pitches) 0
  let pitchOk := (List.range 3).all fun k =>
    match l.dims[k]? with
    | some d => decide (d.1 * sampleBytes depth ≤ listGet pitches k 0)
    | none => listGet pitches k 0 == 0
  let src := if bitAt (spacesOf b) 0 then
      zeroAt b 20 4 && match s.bufNamed a.func (u32At b 16) [.hostHeld] with
        | some i => decide (size ≤ (s.buf i).granules * granule)
        | none => false
    else decide (u64At b 16 + size ≤ 2 ^ 64)
  src && pitchOk && decide (u64At b 24 + 4 ≤ 2 ^ 64) && decide (u64At b 32 + x.roiSize ≤ 2 ^ 64) && s.statOk a &&
    (decide (u8At b 62 ≤ 63) || u8At b 62 == 0xFF) && decide (u8At b 63 < 32)

/-- Accept an ENC_PICTURE as a job; its pool buffer is pinned (R219, R222). -/
def Dev.encPictureJob (a : Acc) (s : Dev) : Dev :=
  s.onStream a fun n x =>
    if x.medium != 0 || !x.enc || !s.encPictureOk a x then s.rejectJob n x a stBAD
    else
      let s1 := if bitAt (spacesOf a.raw) 0 then
          let i := u32At a.raw 16 % 4096
          s.setBuf i { s.buf i with pins := (s.buf i).pins + 1 }
        else s
      s1.addJob n x a

/-- What the completion of an ENC_PICTURE does to its pool buffer (R216, R219). -/
def Dev.endSource (s : Dev) (q : Nat) : Dev :=
  match s.accOf q with
  | none => s
  | some a =>
    if opcodeOf a.raw == 0x40 && bitAt (spacesOf a.raw) 0 then
      let i := u32At a.raw 16 % 4096
      let s1 := if bitAt (eflags a.raw) 3 then s.setBuf i { s.buf i with releaseDue := true } else s
      s1.unpin i
    else s

end Sys2Proof.Machine
end

