-- ==== Sys2Proof/Machine/Scan.lean ====
section
/-!
DEFINITION. Decoding a unit sequence (R198 to R209, R235, R238, R246, R257): the scan of a buffer, accept_unit, binding, pictures
and missing slices at the decoder.
-/
namespace Sys2Proof.Machine

/-- Change job q of stream n. -/
def Dev.modJob (s : Dev) (n q : Nat) (f : Job → Job) : Dev := s.modStream n fun x => x.modJob q f

/-- Count a malformed unit (R203, R204). -/
def Dev.malformed (s : Dev) (n q : Nat) : Dev := s.modJob n q fun j => { j with malformed := j.malformed + 1 }

/-- Skip a unit (R204, R205). -/
def Dev.skipUnit (s : Dev) (n q : Nat) : Dev := s.modJob n q fun j => { j with skipped := j.skipped + 1 }

/-- Job q has accepted a unit (R300). -/
def Dev.touch (s : Dev) (n q : Nat) : Dev := s.modJob n q fun j => { j with touched := true }

/-- The held adapter does not stand before its picture header: it is discarded as malformed (R205). -/
def Dev.dropHeld (s : Dev) (n q : Nat) : Dev :=
  match (s.stream n).bind (·.held) with
  | none => s
  | some _ => (s.modStream n fun x => { x with held := none, heldUnit := [] }).malformed n q

/-- The form of a unit that an unbound stream skips (R178, R204, R205): of its payload by itself and, once a stream header is accepted, under that
header. What only a bound package or an accepted picture could show is not compared. DEDUCED, log entry 174. -/
def formAlone (header : Option Bytes) (typ : Nat) (p : Bytes) : Bool :=
  let under (f : Bytes → Bool) : Bool := match header with
    | some h => f h
    | none => true
  match typ with
  | 1 => streamHeaderOk p
  | 2 => p.length == 96 && under fun h => slice p 0 32 == slice h 8 32
  | 3 => (adapterCodes p).isSome && under fun h => hdrRev h != 2 && hdrAdapters h
  | 4 => pictureForm p && under fun h => hdrMedia h != 0 || pictureOk h p none
  | 5 => sliceForm p && under fun h => hdrMedia h != 0 || sliceOk p (hdrRev h == 2) (hdrW h) (hdrH h) (hdrK h)
  | 6 => decide (16 ≤ p.length) && p.length == 16 + u32At p 8 && zeroAt p 12 4
  | 7 => fieldForm p && under fun h => hdrRev h != 2
  | 8 => hallmarkUnitOk p
  | 15 => p.isEmpty
  | _ => false

/-! Binding (R154, R208) -/

/-- The resident package of function f with a model digest, by the lowest handle (R154). -/
def Dev.packageFor (s : Dev) (f : Nat) (digest : Bytes) : Option Nat :=
  ((s.fn f).handles.find? fun h => match s.media.pkgs.find h.2.pkg with
    | some p => p.modelDigest == digest
    | none => false).map fun h => h.2.pkg

/-- The header's medium, geometry, sample format and block shape are the stream's (R208). DEDUCED, log entry 42. -/
def Stream.sameShape (x : Stream) (h : Bytes) : Bool :=
  hdrMedia h == x.medium && match x.medium with
  | 0 => slice h 48 4 == slice x.param 0 4 && slice h 52 2 == slice x.param 4 2 && hdrK h == u8At x.param 22
  | 1 => slice h 48 6 == slice x.param 0 6
  | _ => slice h 48 3 == slice x.param 0 3 && slice h 52 16 == slice x.param 4 16

/-- The stream fails permanently with a status, and so does the job (R208). -/
def Dev.failStream (s : Dev) (n q st : Nat) : Dev :=
  (s.modStream n fun x => { x with failed := some st }).modJob n q fun j => { j with status := some st, rest := [], read := true }

/-- Bind the stream under its accepted header (R154, R208, R240). -/
def Dev.bindHeader (s : Dev) (n q : Nat) : Dev :=
  match s.stream n with
  | none => s
  | some x =>
    let h := x.header
    let rev2 := hdrRev h == 2
    let shape := (rev2 || hdrRev h == 3) && !(rev2 && (x.medium == 2 || (x.medium == 0 && hdrK h != 1))) && x.sameShape h &&
      (x.medium != 0 || (profileOk (u8At h 2) (hdrW h) (hdrH h) && (u8At h 2 != 0 || !hdrAdapters h)))
    let excess := match s.seatOf x with
      | some (c, _) => decide (hdrA h > c.rerunA)
      | none => false
    if !shape then s.failStream n q stFORMAT
    else
      match s.packageFor x.func (slice h 8 32) with
      | none => if excess then s.failStream n q stADMISSION
        else s.modJob n q fun j => { j with status := some (j.status.getD stMISSING) }
      | some k =>
        let p := s.media.pkgs.get k Pkg.empty
        let kinds := match x.medium with
          | 0 => [3, 4]
          | 1 => [7]
          | _ => [9]
        if !(kinds.all fun e => ((p.entry e).map (·.dec)).getD false) || (hdrAdapters h && u8At (p.prog 0) 21 == 0) then s.failStream n q stFORMAT
        else if excess then s.failStream n q stADMISSION
        else s.modStream n fun y => { y with bound := true, pkg := k, chain := sha256 (Stream.digestParam y.medium false y.param ++ h) }

/-- A stream header (R201, R205, R208). -/
def Dev.acceptHeader (s : Dev) (n q : Nat) (x : Stream) (p : Bytes) : Dev :=
  if !streamHeaderOk p || (x.accepted && p != x.header) then s.malformed n q
  else
    let s1 := (s.touch n q).modStream n fun y => { y with header := p, accepted := true }
    if x.bound then s1 else s1.bindHeader n q

/-- A model unit after the header (R184, R201, R204). -/
def Dev.acceptModel (s : Dev) (n q : Nat) (x : Stream) (p : Bytes) : Dev :=
  if p.length != 96 || slice p 0 32 != slice x.header 8 32 || (!x.model.isEmpty && p != x.model) then s.malformed n q
  else (s.touch n q).modStream n fun y => { y with model := p }

/-- An adapter unit (R185, R186, R205). -/
def Dev.acceptAdapter (s : Dev) (n q : Nat) (x : Stream) (u p : Bytes) : Dev :=
  if x.medium != 0 || !hdrAdapters x.header then s.malformed n q
  else
    match adapterOf ((s.pkgOf x).prog 0) p with
    | none => s.malformed n q
    | some a => (s.touch n q).modStream n fun y => { y with held := some a, heldUnit := u }

/-! Pictures at the decoder -/

/-- Append the missing slices of the open picture with indices below k (R206). A missing slice's quality is not in the spec: it is
free (log entry 18). DEDUCED, log entry 76. -/
def Dev.missSlices (n q : Nat) : Nat → Nat → Dev → Dev
  | 0, _, s => s
  | f + 1, k, s =>
    match s.stream n with
    | none => s
    | some x =>
      match x.pic with
      | none => s
      | some p =>
        let i := (p.lastIdx.map (· + 1)).getD 0
        if i ≥ k then s
        else
          let v := (Config.jobByte ((s.pkgOf x).pkgDigest ++ leBytes 4 p.picId ++ leBytes 1 p.quality) i).toNat
          let (y0, m) := let (_, h, K) := x.geo; sliceRows h K i
          let mv := List.replicate ((s.pkgOf x).motionBytes x.geo.1 y0 m / 2) (0 : Int)
          let u := { MUnit.blank with idx := i, subject := p.picId, job := q, quality := v % 64, missing := true, motion := mv }
          let s2 := (s.addUnit n u).modStream n fun y => y.modPic fun z => { z with lastIdx := some i, damaged := true }
          Dev.missSlices n q f k (s2.modJob n q fun j => { j with corrupt := true })

/-- The open picture of a decoder lacks slices at its end (R206). -/
def Stream.lacksSlices (x : Stream) : Bool := !x.enc && x.pic.any fun p => p.lastIdx != some (x.slices - 1)

/-- Close the open picture's slices (R206): what is missing is decoded, and job q waits for the close. -/
def Dev.closeSlices (s : Dev) (n q : Nat) : Dev :=
  match s.stream n with
  | none => s
  | some x =>
    if !x.lacksSlices then s else (Dev.missSlices n q x.slices x.slices s).modStream n fun y => y.modPic fun z => { z with job := q }

/-- resolve (R238): the buffer, none for the zero reference, and whether it conceals. -/
def Stream.resolve (x : Stream) (id : Nat) : Option Nat × Bool :=
  let holds (r : Option RefSlot) : Option Nat := match r with
    | some v => if v.picId == id then some v.buf else none
    | none => none
  if id == none32 then (none, false)
  else
    match holds x.short with
    | some b => (some b, false)
    | none =>
      match holds x.long with
      | some b => (some b, false)
      | none => (x.last.map (·.buf), true)

/-- open_picture (R232, R238): the picture, and the stream with its adapter, derivation and sticky bit. -/
def Stream.openPicture (x : Stream) (h : Bytes) (q fbuf obuf : Nat) (ad : Option Adapter) (unitsIn : Bytes) : Stream :=
  let intra := u8At h 4 == 0
  let (rs, cs) := x.resolve (u32At h 8)
  let (rl, cl) := x.resolve (u32At h 12)
  let conceal := !intra && (cs || cl)
  let derived := if intra then false else x.derived
  let zeroAd := intra && ad.isNone && bitAt (u8At h 7) 0
  let fl := (if zeroAd then 128 else 0) ||| (if derived then 2 else 0) |||
    (if intra then 0 else (if cs then 32 else 0) ||| (if cl then 64 else 0)) |||
    (if conceal then 1 ||| (if rs.isNone && rl.isNone then 8 else 0) else 0)
  let p : Pic :=
    { picId := u32At h 0, intra := intra, quality := u8At h 5, mark := u8At h 6, refShort := u32At h 8, refLong := u32At h 12, pts := u64At h 16
      refS := if intra then none else rs, refL := if intra then none else rl, flags := fl, buf := fbuf, out := some obuf, maps := x.scratch
      lastIdx := none, job := q, damaged := false, bytes := 0, rows := 0, planes := [], roi := [], hallmark := false, qOper := 0
      trained := true, region := false, asked := false, unitsIn := unitsIn, begun := true, trainDeps := 0, finDeps := 0 }
  { x with pic := some p, adapter := if intra then ad else x.adapter, derived := derived, sticky := x.sticky || conceal
           lastId := some p.picId, lastAu := some p.picId, held := none, heldUnit := []
           jobs := x.jobs.map fun j => if j.seq == q then { j with concealed := j.concealed || conceal, corrupt := j.corrupt || zeroAd } else j }

/-- A picture header is discarded as malformed: a held adapter with it, and no picture is current (R205, R206). -/
def Dev.discardPicture (s : Dev) (n q : Nat) : Dev := ((s.dropHeld n q).closeSlices n q).malformed n q

/-- A picture header (R187, R205, R206, R212, R217, R238). The answer is false while it has to wait. DEDUCED, log entry 74. -/
def Dev.acceptPicture (s : Dev) (n q : Nat) (x : Stream) (u p : Bytes) : Dev × Bool :=
  if x.medium != 0 || !pictureOk x.header p x.lastId then (s.discardPicture n q, true)
  else if x.pic.isSome then (s.closeSlices n q, false)
  else
    let s0 := s.touch n q
    match s0.takeBuf n x false with
    | none => (s, false)
    | some (fb, s1) =>
      match s1.takeBuf n x true with
      | none => (if x.waiting = Wait.room then s else s.waitRoom n q, false)
      | some (ob, s2) =>
        let want := bitAt (u8At p 7) 0
        let good := match x.held with
          | some (id, _) => want && id == u32At p 0
          | none => false
        let ad := if good then x.held.map (·.2) else none
        let s3 := if x.held.isSome && !good then s2.malformed n q else s2
        let pre := if good then x.heldUnit else []
        ((s3.gotRoom n).modStream n fun y => y.openPicture p q fb ob ad (pre ++ u), true)

/-- A slice (R189 to R192, R205, R206). -/
def Dev.acceptSlice (s : Dev) (n q : Nat) (x : Stream) (u p : Bytes) : Dev :=
  match x.pic with
  | none => s.malformed n q
  | some c =>
    let (w, h, k) := x.geo
    let i := u16At p 4
    let fresh := match c.lastIdx with
      | some l => decide (i > l)
      | none => true
    let (y0, m) := sliceRows h k i
    match motionOf p c.intra ((s.pkgOf x).motionBytes w y0 m) with
    | none => s.malformed n q
    | some mv =>
      if x.medium != 0 || !sliceOk p (hdrRev x.header == 2) w h k || u32At p 0 != c.picId || !fresh then s.malformed n q
      else
        let s1 := Dev.missSlices n q x.slices i (s.touch n q)
        let roi := (slice p 24 (u32At p 8)).map fun b => sext 8 b.toNat
        let coded := slice p (24 + u32At p 8 + u32At p 12) (u32At p 16)
        let v := { MUnit.blank with idx := i, subject := c.picId, job := q, coded := coded, motion := mv, roi := roi, quality := u8At p 6 }
        (s1.addUnit n v).modStream n fun y =>
          Stream.modPic { y with lastSliceIdx := some i } fun z =>
            { z with lastIdx := some i, unitsIn := z.unitsIn ++ u, job := if i + 1 == x.slices then q else z.job }

/-- An audio frame (R193, R205, R248). -/
def Dev.acceptFrame (s : Dev) (n q : Nat) (x : Stream) (u p : Bytes) : Dev :=
  let fr := u64At p 0
  let fresh := match x.lastFrame with
    | some l => decide (fr > l)
    | none => true
  if x.medium != 1 || p.length < 16 || p.length != 16 + u32At p 8 || !zeroAt p 12 4 || !fresh then s.malformed n q
  else
    let gap := match x.lastFrame with
      | some l => fr - l - 1
      | none => 0
    let v := { MUnit.blank with subject := fr, job := q, coded := p.drop 16, pos := [gap], raw := u }
    (((s.touch n q).addUnit n v).modStream n fun y => { y with lastFrame := some fr, lastAu := some fr }).modJob n q fun j =>
      { j with concealed := j.concealed || decide (gap ≥ 1) }

/-- A field block (R194, R195, R205). -/
def Dev.acceptBlock (s : Dev) (n q : Nat) (x : Stream) (u p : Bytes) : Dev :=
  let (dims, block, ext) := x.fieldShape
  let pos := fieldPos p
  let num := mulN (blockSizes dims block ext pos)
  if x.medium != 2 || p.length < 32 || !fieldPosOk x.header pos then s.malformed n q
  else
    match fieldSections p num (u8At x.param 0) with
    | none => s.malformed n q
    | some (rs, ex) =>
      let i := blockIndex (blockCounts dims block ext) pos
      let v := { MUnit.blank with subject := i, job := q, coded := slice p 32 (u32At p 20), pos := pos, resid := rs, excs := ex, raw := u }
      ((s.touch n q).addUnit n v).modStream n fun y => { y with lastAu := some i }

/-- A hallmark unit (R196, R205). DEDUCED, log entry 75. -/
def Dev.acceptHallmark (s : Dev) (n q : Nat) (x : Stream) (p : Bytes) : Dev :=
  let sc := u8At p 0
  let sub := u64At p 8
  if hallmarkUnitOk p && ((sc == x.medium && x.lastAu == some sub) || (sc == 3 && sub == 0)) then s.touch n q
  else s.malformed n q

/-- An End unit (R198, R206). -/
def Dev.acceptEnd (s : Dev) (n q : Nat) (p : Bytes) : Dev :=
  if !p.isEmpty then s.malformed n q
  else
    let s1 := (s.touch n q).closeSlices n q
    (s1.modStream n fun y => { y with ended := true }).modJob n q fun j => { j with ended := true, rest := [], read := true }

/-- accept_unit (R204, R205). The answer is false while the unit has to wait. Any unit but a picture header, even one that is discarded,
stands between a held adapter and its header; an ignorable one does not. DEDUCED (log entry 21). -/
def Dev.acceptUnit (s0 : Dev) (n q : Nat) (u : Bytes) : Dev × Bool :=
  let s := if unitType u == 4 || unitType u ≥ 0x80 then s0 else s0.dropHeld n q
  match s.stream n with
  | none => (s, true)
  | some x =>
    let typ := unitType u
    let fl := unitFlags u
    let p := unitPayload u
    if typ ≥ 0x80 then (s.skipUnit n q, true)
    else if !((1 ≤ typ ∧ typ ≤ 8) ∨ typ = 15) || fl > 1 || (fl == 1 && typ > 2) then
      ((if typ == 4 && x.bound then s.discardPicture n q else s.malformed n q), true)
    else if typ == 1 then (s.acceptHeader n q x p, true)
    else if !x.bound then ((if formAlone (if x.accepted then some x.header else none) typ p then s.skipUnit n q else s.malformed n q), true)
    else
      match typ with
      | 2 => (s.acceptModel n q x p, true)
      | 3 => (s.acceptAdapter n q x u p, true)
      | 4 => s.acceptPicture n q x u p
      | 5 => (s.acceptSlice n q x u p, true)
      | 6 => (s.acceptFrame n q x u p, true)
      | 7 => (s.acceptBlock n q x u p, true)
      | 8 => (s.acceptHallmark n q x p, true)
      | _ => (s.acceptEnd n q p, true)

/-! The scan (R202, R203) -/

/-- Skip one byte or two of a job's buffer; a skipped run counts once where that is asked. -/
def Job.skipBytes (j : Job) (k : Nat) (count : Bool) : Job :=
  { j with rest := j.rest.drop k, lost := true, malformed := j.malformed + b2n count }

/-- One step of scan_buffer on job q; false where the scan has to wait or is over. -/
def Dev.scanStep (s : Dev) (n q : Nat) : Dev × Bool :=
  match (s.stream n).bind fun x => x.jobs.find? fun j => j.seq == q with
  | none => (s, false)
  | some j =>
    let b := j.rest
    if j.read then (s, false)
    else if b.isEmpty then (s.modJob n q fun k => { k with read := true }, false)
    else if b.length < 2 || u8At b 0 != 0x48 || u8At b 1 != 0x4D then (s.modJob n q fun k => k.skipBytes 1 (!j.lost), true)
    else if b.length < 12 then (s.modJob n q fun k => { k with malformed := k.malformed + 1, rest := [], read := true }, false)
    else
      let len := u32At b 4
      if len > 0x04000000 || 12 + len > b.length then (s.modJob n q fun k => k.skipBytes 2 true, true)
      else
        let u := b.take (12 + len)
        if crc32c (u.take (8 + len)) != u32At u (8 + len) then (s.modJob n q fun k => k.skipBytes 2 true, true)
        else
          let (t, ok) := (s.modJob n q fun k => { k with lost := false }).acceptUnit n q u
          if ok then (t.modJob n q fun k => { k with rest := k.rest.drop (12 + len) }, true) else (t, false)

/-- Scan job q until it waits or is read. -/
def Dev.scanJob (n q : Nat) : Nat → Dev → Dev
  | 0, s => s
  | f + 1, s =>
    let (t, go) := s.scanStep n q
    if go then Dev.scanJob n q f t else t

/-- Fetch a decode job's buffer (R198, R208, R301). -/
def Dev.fetchJob (s : Dev) (n : Nat) (x : Stream) (j : Job) : Dev :=
  match s.accOf j.seq with
  | none => s.modJob n j.seq fun k => { k with fetched := true, read := true }
  | some a =>
    match x.failed with
    | some st => s.modJob n j.seq fun k => { k with fetched := true, read := true, status := some st }
    | none =>
      if x.ended then s.modJob n j.seq fun k => { k with fetched := true, read := true, status := some stFORMAT }
      else
        match s.readSpace (bitAt (spacesOf a.raw) 0) (u64At a.raw 16) (u64At a.raw 24) with
        | none => (s.jobFault n j.seq).modJob n j.seq fun k => { k with fetched := true, read := true }
        | some b => s.modJob n j.seq fun k => { k with fetched := true, rest := b }

/-- Scan the jobs of a decode stream in order (R202, R203). -/
def Dev.scanJobs (n : Nat) : Nat → Dev → Dev
  | 0, s => s
  | f + 1, s =>
    match s.stream n with
    | none => s
    | some x =>
      match x.jobs.find? fun j => decOp j.op && !j.read with
      | none => s
      | some j =>
        let s1 := if j.fetched then s else s.fetchJob n x j
        let len := match (s1.stream n).bind fun y => y.jobs.find? fun k => k.seq == j.seq with
          | some k => k.rest.length
          | none => 0
        let s2 := Dev.scanJob n j.seq (len + 1) s1
        match (s2.stream n).bind fun y => y.jobs.find? fun k => k.seq == j.seq with
        | some k => if k.read then Dev.scanJobs n f s2 else s2
        | none => s2

/-- Accept a decode job (R203, R246, R257, R294, R295). -/
def Dev.decJob (medium : Nat) (a : Acc) (s : Dev) : Dev :=
  s.onStream a fun n x =>
    let len := u64At a.raw 24
    if x.medium != medium || x.enc || len == 0 || len > 2 ^ 30 || !s.addrOk a.func (bitAt (spacesOf a.raw) 0) (u64At a.raw 16) len || !s.statOk a then
      s.rejectJob n x a stBAD
    else s.addJob n x a

end Sys2Proof.Machine
end

