-- ==== Sys2Proof/Machine/Audio.lean ====
section
/-!
DEFINITION. Audio (R241 to R249): frames from PCM, audio frame units, output samples, concealment and cross-fading, output
records.
-/
namespace Sys2Proof.Machine

/-! Encoding (R245) -/

/-- Bytes of one frame of PCM. -/
def Stream.frameBytes (x : Stream) : Nat := x.frameLen * x.channels * pcmBytes (u8At x.param 5)

/-- Accept an AUD_ENC as a job (R245, R294, R295). -/
def Dev.audEncJob (a : Acc) (s : Dev) : Dev :=
  s.onStream a fun n x =>
    let len := u64At a.raw 24
    if x.medium != 1 || !x.enc || len == 0 || len % max 1 x.frameBytes != 0 || !s.addrOk a.func (bitAt (spacesOf a.raw) 0) (u64At a.raw 16) len ||
        !s.statOk a then s.rejectJob n x a stBAD
    else s.addJob n x a

/-- A stored PCM sample as a number: the integer, or the binary32 code (R124). -/
def pcmIn (fmt : Nat) (b : Bytes) (i : Nat) : Int :=
  match fmt with
  | 0 => sext 16 (u16At b (2 * i))
  | 1 => sext 24 (fieldAt b (3 * i) 3)
  | _ => (u32At b (4 * i) : Nat)

/-- A number as it lies in a PCM buffer of the encoder. -/
def pcmRaw (fmt : Nat) (v : Int) : Bytes :=
  match fmt with
  | 0 => leBytes 2 (toCode 16 v)
  | 1 => leBytes 3 (toCode 24 v)
  | _ => leBytes 4 v.toNat

/-- Read the PCM of the jobs that wait for it, in order (R245). A job whose read fails brings no samples (R301). DEDUCED, log entry 79. -/
def Dev.readPcm (n : Nat) : Nat → Dev → Dev
  | 0, s => s
  | f + 1, s =>
    match s.stream n with
    | none => s
    | some x =>
      match x.jobs.find? fun j => j.op == 0x50 && !j.read with
      | none => s
      | some j =>
        let mark (t : Dev) (k : Nat) : Dev := t.modJob n j.seq fun i => { i with read := true, touched := true, unitsDue := k }
        match s.accOf j.seq with
        | none => Dev.readPcm n f (mark s 0)
        | some a =>
          let len := u64At a.raw 24
          match s.readSpace (bitAt (spacesOf a.raw) 0) (u64At a.raw 16) len with
          | none => Dev.readPcm n f (mark (s.jobFault n j.seq) 0)
          | some b =>
            let fmt := u8At x.param 5
            let vs := (List.range (len / pcmBytes fmt)).map (pcmIn fmt b)
            Dev.readPcm n f (mark (s.modStream n fun y => { y with pcm := y.pcm ++ vs }) (len / max 1 x.frameBytes))

/-- Make the frames whose input is complete (R245): the lookahead is there, or the stream is closed and it reads as zero. -/
def Dev.makeFrames (n : Nat) : Nat → Dev → Dev
  | 0, s => s
  | f + 1, s =>
    match s.stream n with
    | none => s
    | some x =>
      let one := x.frameLen * x.channels
      let all := (x.frameLen + x.frameLen / 2) * x.channels
      match x.jobs.find? fun j => decide (j.unitsDue > 0) with
      | none => s
      | some j =>
        if one == 0 || x.pcm.length < one || (x.pcm.length < all && x.closing.isNone) then s
        else
          let src := x.pcm.take all
          let u := { MUnit.blank with subject := x.frames, job := j.seq, src := src ++ List.replicate (all - src.length) 0 }
          let s1 := s.setStream n { (x.modJob j.seq fun k => { k with unitsDue := k.unitsDue - 1 }) with pcm := x.pcm.drop one, frames := x.frames + 1 }
          Dev.makeFrames n f (s1.addUnit n u)

/-- Feed an encode stream of audio. -/
def Dev.feedAudio (s : Dev) (n : Nat) : Dev :=
  match s.stream n with
  | none => s
  | some x =>
    let s1 := Dev.readPcm n (x.jobs.length + 1) s
    match s1.stream n with
    | none => s1
    | some y => Dev.makeFrames n (y.pcm.length / max 1 (y.frameLen * y.channels) + 1) s1

/-- Queue an access unit of audio or a field: its unit, a hallmark unit where the stream asks for one, and the input digest
(R225, R245, R334, R335). -/
def Dev.queueAccess (s : Dev) (n : Nat) (x : Stream) (u : MUnit) (unit digest : Bytes) (hallmark : Bool) : Dev :=
  let entry := [x.entryKind true]
  let hm : List Emit :=
    if hallmark then [⟨unitOf 8 0 (hallmarkPayload x.medium u.subject (s.hallmarkOf x x.medium digest entry)), none, some u.job⟩] else []
  let y := { (x.modJob u.job fun j => { j with hmUnit := j.hmUnit || hallmark }) with
             emits := x.emits ++ (⟨unit, some u.number, some u.job⟩ : Emit) :: hm, nextEmit := u.number + 1 }
  (s.setStream n y).endAccess n u.job x.medium digest entry (x.medium == 1)

/-- The unit to queue next: coded, and through phase 10 (the field's residuals need the synthesis, R254). -/
def Stream.nextCoded (x : Stream) : Option MUnit := x.units.find? fun u => u.number == x.nextEmit && u.stage == .coded && u.fin

/-- Queue the coded frames in order (R193, R245). -/
def Dev.queueFrames (n : Nat) : Nat → Dev → Dev
  | 0, s => s
  | f + 1, s =>
    match s.stream n with
    | none => s
    | some x =>
      match x.nextCoded with
      | none => s
      | some u =>
        let unit := unitOf 6 0 (leBytes 8 u.subject ++ leBytes 4 u.coded.length ++ leBytes 4 0 ++ u.coded)
        let dig := sha256 (x.chain ++ u.src.flatMap (pcmRaw (u8At x.param 5)))
        Dev.queueFrames n f ((s.queueAccess n x u unit dig (bitAt (u8At x.param 6) 0)).modStream n fun y => y.closeAccess 1 (u.number + 1) 0)

/-! Decoding (R246 to R249) -/

/-- fade (R248). -/
def fade (p : Int) (m t F : Nat) : Int :=
  let pos : Int := (((m - 1) * F + t + 1 : Nat) : Int)
  let G := max 0 (65536 - (65536 * pos) / ((4 * F : Nat) : Int))
  rshiftRne (p * G) 16

/-- Output sample values of a concealed frame m (R248). -/
def concealed (P : List Int) (m F ch : Nat) : List Int :=
  (List.range (F * ch)).map fun i => fade (listGet P i 0) m (i / max 1 ch) F

/-- The cross-fade after a gap of g frames (R248). -/
def crossFade (P D : List Int) (g F ch : Nat) : List Int :=
  (List.range (F * ch)).map fun i =>
    let t := i / max 1 ch
    let rep := fade (listGet P i 0) (min g 50 + 1) t F
    let a : Int := ((65536 * (t + 1) / max 1 F : Nat) : Int)
    rshiftRne (listGet D i 0 * a + rep * (65536 - a)) 16

/-- An output sample in memory (R126): an FP32 sample is v × 2^-23. -/
def pcmOut (fmt : Nat) (v : Int) : Bytes :=
  match fmt with
  | 0 => leBytes 2 (toCode 16 v)
  | 1 => leBytes 3 (toCode 24 v)
  | _ => leBytes 4 (Fmt.fp32.round false (decide (v < 0)) v.natAbs (-23)).1

/-- An output record (R246). DEDUCED, log entry 80. -/
def outputRecord (frame flags F skipped fmt : Nat) (vs : List Int) : Bytes :=
  leBytes 8 frame ++ leBytes 2 flags ++ leBytes 2 F ++ leBytes 4 (min skipped 0xFFFFFFFF) ++ vs.flatMap (pcmOut fmt)

/-- The decoded samples of a frame, interleaved (R126, R247). -/
def Stream.frameSamples (x : Stream) (u : MUnit) : List Int :=
  let ch := x.channels
  let dst := (u.maps.find dstKey).getD (FMap.zero 0 0 ch)
  (List.range x.frameLen).flatMap fun t => (List.range ch).map fun c => listGet (dst.at t 0).1 c 0

/-- The gap of a decoded frame: frames that are missing before it, and those of them that are concealed (R248). -/
def MUnit.gap (u : MUnit) : Nat × Nat := (listGet u.pos 0 0, min (listGet u.pos 0 0) 50)

/-- Concealed frame i of the gap before a decoded frame, an access unit of its own (R248, R249, R354). -/
def Stream.gapFrame (x : Stream) (u : MUnit) (i : Nat) : Stream :=
  let fr := u.subject - u.gap.1 + i
  let r : RecOut := ⟨outputRecord fr (1 + 8) x.frameLen 0 (u8At x.param 5) (concealed x.lastOut (i + 1) x.frameLen x.channels), u.job, none, none, false⟩
  let y : Stream := { x with sticky := true, doneFrame := some fr, recs := x.recs ++ [r] }
  y.closeAccess 1 u.number (y.records + y.recs.length)

/-- The record of a decoded frame (R246 to R249), after those of the gap before it. -/
def Dev.finishFrame (s : Dev) (n : Nat) (x : Stream) (u : MUnit) : Dev :=
  let F := x.frameLen
  let ch := x.channels
  let (g, k) := u.gap
  let D := x.frameSamples u
  let out := if g == 0 then D else crossFade x.lastOut D g F ch
  let flags := 2 * b2n u.corrupt + 4 * b2n (decide (g > 0)) + 8 * b2n x.sticky
  let own : RecOut := ⟨outputRecord u.subject flags F (g - k) (u8At x.param 5) out, u.job, some u.number, none, false⟩
  let y : Stream := { x with doneFrame := some u.subject, lastOut := out, recs := x.recs ++ [own] }
  (s.setStream n (y.closeAccess 1 (u.number + 1) 0)).endAccess n u.job 1 (sha256 (x.chain ++ u.raw)) [7] true

/-- OUTPUT_RECORD (R224, R246): write the head record into the output ring. -/
def Dev.outputRecordOp (s : Dev) (n : Nat) : Dev :=
  match s.stream n with
  | none => s
  | some x =>
    match x.recs with
    | [] => s
    | r :: rest =>
      if x.medium != 1 || !s.mayWrite x.func then s
      else
        let hand (t : Dev) : Dev :=
          match r.unit with
          | some k => t.deliver n k
          | none => t
        let drop (t : Dev) : Dev := hand ((t.modStream n fun y => { y with recs := rest }).jobFault n r.job)
        match s.consumedNow x with
        | none => drop s
        | some c =>
          let s0 := s.modStream n fun y => { y with consumed := c }
          let size := 2 ^ x.ringLog2
          if x.emitted + r.bytes.length > c + size then (if x.waiting = Wait.room then s0 else s0.waitRoom n r.job)
          else
            match (s0.ringWrite x.ring size x.emitted r.bytes).bind fun t => t.hostWrite x.ptr (leBytes 8 (x.emitted + r.bytes.length)) with
            | none => drop s0
            | some t => hand ((t.gotRoom n).modStream n fun y => { y with emitted := x.emitted + r.bytes.length, recs := rest })

end Sys2Proof.Machine
end

