-- ==== Sys2Proof/Machine/Field.lean ====
section
/-!
DEFINITION. Scientific fields (R250 to R257): blocks from host arrays, residuals and exceptions, reconstruction, block records.
-/
namespace Sys2Proof.Machine

/-! Arrays (R252) -/

/-- Bytes of an element. -/
def Stream.elemBytes (x : Stream) : Nat := if u8At x.param 0 == 0 then 4 else 8

/-- Byte offsets in a field array of the runs along dimension 0 of a block, in element order, and elements per run (R252). -/
def Stream.blockRuns (x : Stream) (p : List Nat) : List Nat × Nat :=
  let (dims, block, ext) := x.fieldShape
  let n := blockSizes dims block ext p
  let e := blockEdges dims block
  let g (d i : Nat) : Nat := listGet p d 0 * listGet e d 1 + i
  let X (d : Nat) : Nat := listGet ext d 1
  ((List.range (listGet n 3 1)).flatMap fun i3 => (List.range (listGet n 2 1)).flatMap fun i2 => (List.range (listGet n 1 1)).map fun i1 =>
    x.elemBytes * (g 0 0 + X 0 * (g 1 i1 + X 1 * (g 2 i2 + X 2 * g 3 i3))), listGet n 0 1)

/-- Bytes of the whole array. -/
def Stream.arrayBytes (x : Stream) : Nat := x.elemBytes * fieldCount x.fieldShape.2.2

/-- Read runs of a length at offsets from a base; none where a read fails. -/
def Dev.readRuns (s : Dev) (base len : Nat) : List Nat → Option Bytes
  | [] => some []
  | o :: rest => (s.hostRead (base + o) len).bind fun b => (Dev.readRuns s base len rest).map (b ++ ·)

/-- Write runs; the state, and whether every write succeeded. -/
def Dev.writeRuns (base len : Nat) : List Nat → Bytes → Dev → Dev × Bool
  | [], _, s => (s, true)
  | o :: rest, b, s =>
    match s.hostWrite (base + o) (b.take len) with
    | some t => Dev.writeRuns base len rest (b.drop len) t
    | none => (s, false)

/-! Arithmetic (R253, R254) -/

/-- k of R253: floor(log2 BOUND) - 3. -/
def fieldK (bound : Nat) : Int := ((bound / 2 ^ 52 % 2048 : Nat) : Int) - 1023 - 3

/-- An integer in binary64. -/
def f64OfInt (v k : Int) : Nat := (Fmt.fp64.round false (decide (v < 0)) v.natAbs k).1

/-- field_reconstruct (R253), as a code of the element format. -/
def fieldReconstruct (v r : Int) (bound : Nat) (fp32 : Bool) : Nat :=
  let p := f64OfInt v (fieldK bound)
  let y := (Fmt.fp64.fma (f64OfInt r 0) (Fmt.fp64.scaleB bound 1) p).1
  if fp32 then (convert .fp64 .fp32 .rne false y).1 else y

/-- within (R254): |x - y| ≤ e as real numbers, false for a non-finite y. -/
def fieldWithin (x y e : FVal) : Bool :=
  match x, y, e with
  | .fin s1 m1 e1, .fin s2 m2 e2, .fin s3 m3 e3 =>
    let q := min e1 (min e2 e3)
    decide (((signedAt s1 m1 e1 q - signedAt s2 m2 e2 q).natAbs : Int) ≤ signedAt s3 m3 e3 q)
  | _, _, _ => false

/-- field_encode (R254) of an element code: its exception mark and residual. -/
def fieldEncode (code : Nat) (v : Int) (bound : Nat) (fp32 : Bool) : Bool × Int :=
  let f : Fmt := if fp32 then .fp32 else .fp64
  let x := f.decode code
  match x with
  | .fin _ _ _ =>
    let x64 := if fp32 then (convert .fp32 .fp64 .rne false code).1 else code
    let p := f64OfInt v (fieldK bound)
    let d := (Fmt.fp64.sub x64 p).1
    match Fmt.fp64.decode (Fmt.fp64.div d (Fmt.fp64.scaleB bound 1)).1 with
    | .fin s m e =>
      let r := (roundInt .rne s m e).1
      let fits (i : Int) : Bool := decide (-(2 ^ 31) ≤ i) && decide (i ≤ 2 ^ 31 - 1)
      let y := f.decode (fieldReconstruct v r bound fp32)
      let e0 := Fmt.fp64.decode bound
      if !fits r then (true, 0)
      else if fieldWithin x y e0 then (false, r)
      else
        match y with
        | .fin _ _ _ =>
          let r2 := if FVal.lt false x y then r - 1 else r + 1
          if fits r2 && fieldWithin x (f.decode (fieldReconstruct v r2 bound fp32)) e0 then (false, r2) else (true, 0)
        | _ => (true, 0)
    | _ => (true, 0)
  | _ => (true, 0)

/-- FLD_ENC computes the DST that FLD_DEC computes from the same unit (R253, R256): it runs all of its records, and DST has the same writer. One that
does not predicts nothing, and every element of its blocks is an exception. DESIGN CHOICE, log entry 82. -/
def Pkg.predicts (p : Pkg) : Bool :=
  match p.entry 8, p.entry 9 with
  | some e, some d => p.dstWriters e == p.dstWriters d && d.recs.all e.recs.contains
  | some e, none => (p.dstWriters e).length == 1 && (p.dstWriters e).all fun kr => (p.rcd kr.1 kr.2).exact
  | none, _ => false

/-- The exact DST outputs of a block in element order (R253). -/
def Stream.blockValues (x : Stream) (u : MUnit) : List Int :=
  let (dims, block, ext) := x.fieldShape
  let dst := (u.maps.find dstKey).getD (FMap.zero 0 0 1)
  (fieldGrid dims block ext u.pos).map fun e => exactValue (dst.at e.1 e.2.1) e.2.2

/-! Encoding -/

/-- Accept an FLD_ENC as a job (R252, R294, R295). -/
def Dev.fldEncJob (a : Acc) (s : Dev) : Dev :=
  s.onStream a fun n x =>
    let pos := (List.range 4).map fun d => u32At a.raw (24 + 4 * d)
    let (dims, block, ext) := x.fieldShape
    let counts := blockCounts dims block ext
    if x.medium != 2 || !x.enc || u64At a.raw 16 + x.arrayBytes > 2 ^ 64 || !((List.range 4).all fun d => decide (listGet pos d 0 < listGet counts d 1)) ||
        !s.statOk a then s.rejectJob n x a stBAD
    else s.addJob n x a

/-- Read the blocks of the jobs that wait for it, in order: each becomes a unit (R252). -/
def Dev.feedField (n : Nat) : Nat → Dev → Dev
  | 0, s => s
  | f + 1, s =>
    match s.stream n with
    | none => s
    | some x =>
      match x.jobs.find? fun j => j.op == 0x60 && !j.read with
      | none => s
      | some j =>
        let mark (t : Dev) : Dev := t.modJob n j.seq fun i => { i with read := true, touched := true }
        match s.accOf j.seq with
        | none => Dev.feedField n f (mark s)
        | some a =>
          let pos := (List.range 4).map fun d => u32At a.raw (24 + 4 * d)
          let (runs, k) := x.blockRuns pos
          match s.readRuns (u64At a.raw 16) (k * x.elemBytes) runs with
          | none => Dev.feedField n f (mark (s.jobFault n j.seq))
          | some b =>
            let (dims, block, ext) := x.fieldShape
            let w := x.elemBytes
            let u := { MUnit.blank with
                       subject := blockIndex (blockCounts dims block ext) pos, job := j.seq, pos := pos
                       src := (List.range (b.length / w)).map fun i => ((fieldAt b (w * i) w : Nat) : Int) }
            Dev.feedField n f ((mark s).addUnit n u)

/-- Bytes per residual (RES_FMT 0 to 3), the narrowest that holds all (R255). -/
def resFormat (rs : List Int) : Nat :=
  let fits (n : Nat) : Bool := rs.all fun r => decide (-((2 ^ (n - 1) : Nat) : Int) ≤ r) && decide (r < ((2 ^ (n - 1) : Nat) : Int))
  if rs.all (· == 0) then 0 else if fits 8 then 1 else if fits 16 then 2 else 3

/-- The field block unit (R194, R195, R255) and its exception count; without a prediction every element is an exception. -/
def Stream.blockUnit (x : Stream) (predicts : Bool) (u : MUnit) : Bytes × Nat :=
  let fp32 := u8At x.param 0 == 0
  let bound := u64At x.param 20
  let vs := x.blockValues u
  let es := (List.range u.src.length).map fun i => if predicts then fieldEncode (listGet u.src i 0).toNat (listGet vs i 0) bound fp32 else (true, 0)
  let rs := es.map (·.2)
  let fmt := resFormat rs
  let w := listGet [0, 1, 2, 4] fmt 0
  let raw := rs.flatMap fun r => leBytes w (toCode (8 * w) r)
  let z := deflateRaw 4 raw
  let defl := decide (z.length < raw.length)
  let sec := if defl then z else raw
  let exc := (List.range es.length).filter fun i => (listGet es i (false, 0)).1
  let list := exc.flatMap fun i => leBytes 4 i ++ leBytes 4 0 ++ leBytes 8 (listGet u.src i 0).toNat
  (unitOf 7 0 (u.pos.flatMap (leBytes 4) ++ leBytes 1 fmt ++ leBytes 1 (b2n defl) ++ leBytes 2 0 ++ leBytes 4 u.coded.length ++
    leBytes 4 sec.length ++ leBytes 4 exc.length ++ u.coded ++ sec ++ list), exc.length)

/-- Queue the coded blocks in order (R255); each block's digest starts from C0 (R334). -/
def Dev.queueBlocks (n : Nat) : Nat → Dev → Dev
  | 0, s => s
  | f + 1, s =>
    match s.stream n with
    | none => s
    | some x =>
      match x.nextCoded with
      | none => s
      | some u =>
        let (unit, k) := x.blockUnit (s.pkgOf x).predicts u
        let dig := sha256 (x.chain ++ u.pos.flatMap (leBytes 4) ++ u.src.flatMap fun v => leBytes x.elemBytes v.toNat)
        let s1 := s.queueAccess n x u unit dig (bitAt (u8At x.param 3) 0)
        Dev.queueBlocks n f (s1.modJob n u.job fun j => { j with result := k })

/-! Decoding -/

/-- The elements of a decoded block, in element order (R253, R257). -/
def Stream.blockElements (x : Stream) (u : MUnit) : Bytes :=
  let fp32 := u8At x.param 0 == 0
  let bound := u64At x.header 68
  let vs := x.blockValues u
  let exc : SMap Nat := u.excs.foldl (fun m e => m.put e.1 e.2) []
  (List.range vs.length).flatMap fun i =>
    leBytes x.elemBytes (match exc.find i with
      | some raw => raw
      | none => fieldReconstruct (listGet vs i 0) (listGet u.resid i 0) bound fp32)

/-- Write a decoded block into ARRAY and queue its record (R252, R257). A block whose write fails brings no record. DEDUCED, log entry 81. -/
def Dev.finishBlock (s : Dev) (n : Nat) (x : Stream) (u : MUnit) : Dev :=
  let (runs, k) := x.blockRuns u.pos
  let (t, ok) := Dev.writeRuns (u64At x.param 48) (k * x.elemBytes) runs (x.blockElements u) s
  let rcd := leBytes 8 u.subject ++ leBytes 2 (b2n u.corrupt + 2 * b2n (!u.excs.isEmpty)) ++ leBytes 2 0 ++ leBytes 4 u.excs.length
  let t1 := t.endAccess n u.job 2 (sha256 (x.chain ++ u.pos.flatMap (leBytes 4) ++ u.raw)) [9] false
  if ok then t1.modStream n fun y => { y with recs := y.recs ++ [(⟨rcd, u.job, some u.number, none, false⟩ : RecOut)] }
  else (t1.jobFault n u.job).deliver n u.number

/-- BLOCK_RECORD (R236, R257). -/
def Dev.blockRecordOp (s : Dev) (n : Nat) : Dev :=
  match s.stream n with
  | none => s
  | some x => if x.medium == 2 then s.recordOp n 16 fun _ r => r.bytes else s

end Sys2Proof.Machine
end

