-- ==== Sys2Proof/Machine/Mirror.lean ====
section
/-!
DEFINITION. Mirror slots (R350 to R366): what an epoch carries and how it is installed, unacknowledged epochs, WATCH and its
report, the end of a mirror.
-/
namespace Sys2Proof.Machine

/-! Slots -/

def Slot.free : Slot :=
  { role := .free, state := .attaching, func := 0, stream := 0, mirrorId := 0, booking := 0, period := 0, epochNo := none, nextEpoch := 0
    ready := [], covered := 0, mark := (0, 0), sent := [], fullNext := false, opened := 0, acked := 0, discarded := 0, forced := false
    attachSeq := none, watchSeq := none, switchSeq := none, switchOut := false, incoming := false, foreign := false }

def Dev.slot (s : Dev) (k : Nat) : Slot := s.pair.slots.get k Slot.free
def Dev.setSlot (s : Dev) (k : Nat) (t : Slot) : Dev := { s with pair := { s.pair with slots := s.pair.slots.put k t } }
def Dev.freeSlot (s : Dev) (k : Nat) : Dev := { s with pair := { s.pair with slots := s.pair.slots.del k } }

/-- The partner's HELLO: that of PASS0, else of PASS1 (R348). -/
def Pair.hello (p : Pair) : Option HelloData :=
  match listGet p.hellos 0 none with
  | some h => some h
  | none => listGet p.hellos 1 none

/-- Link l is used: of miswired links only PASS0 is (R348). -/
def Pair.uses (p : Pair) (l : Nat) : Bool := l == 0 || !p.miswired

/-- Epochs can be carried: a link is up, the partner is heard, and a level is in common (R347 to R349). -/
def Dev.mirrors (s : Dev) : Bool :=
  !decide (s.sys.mode = .failStop) && s.pair.mpl.isSome && !s.pair.silent &&
    (List.range 2).any fun l => s.pair.uses l && (listGet s.pair.links l PassLink.reset).up

/-- k flits of link l leave: numbered in turn, and the last 256 kept for a replay (R345). -/
def Dev.sendFlits (s : Dev) (l k : Nat) : Dev :=
  { s with pair := { s.pair with links := listMod s.pair.links l fun x => { x with txSeq := (x.txSeq + k) % 2 ^ 24, kept := min 256 (x.kept + k) } } }

/-- A record goes to the partner (R345). DESIGN CHOICE, log entry 96. -/
def Dev.sendRecord (s : Dev) (o : Output) : Dev :=
  ((s.sendFlits 0 (Config.recordFlits s.sys.time 0)).sendFlits 1 (Config.recordFlits s.sys.time 1)).output o

/-! Assurance (R363) -/

/-- The stream runs a PROG_B record. -/
def Dev.runsBounded (s : Dev) (x : Stream) : Bool :=
  s.bounded x (match x.medium with
    | 0 => [1, 2] ++ x.pictureExtra true
    | 1 => [6]
    | _ => [8])

/-- BITS_ASSURED holds for a stream (R363). -/
def Dev.assured (s : Dev) (x : Stream) : Bool :=
  !s.runsBounded x ||
    match s.pair.hello with
    | some h => h.rev == 0xB1 && h.fw.toNat == s.regN (GLB + 0x10)
    | none => false

/-- The flag that completions of stream n's jobs carry for it (R296, R363). -/
def Dev.assuredFlag (s : Dev) (n : Nat) (x : Stream) : Nat :=
  match s.slotOf n with
  | some _ => 32 * b2n (s.assured x)
  | none => 0

/-! Images (R355) -/

def FMap.image (m : FMap) : TensorImage := { w := m.w, h := m.h, ch := m.ch, bcast := m.bcast, cells := m.cells, wides := m.wides }
def mapOfImage (t : TensorImage) : FMap := { w := t.w, h := t.h, ch := t.ch, bcast := t.bcast, cells := t.cells, wides := t.wides }

/-- What an epoch carries of stream x as it stands (R355). -/
def Dev.capture (s : Dev) (x : Stream) : EpochImage :=
  let ref (r : Option RefSlot) : Option (Nat × TensorImage) :=
    r.map fun v => (v.picId, (s.media.feats.get v.buf (FMap.zero 0 0 0)).image)
  { header := x.header, bound := x.bound, short := ref x.short, long := ref x.long, last := ref x.last
    adapter := (x.adapter.map (·.bytes)).getD [], scratch := x.scratch.map fun e => (e.1, e.2.image)
    rcF := x.rc.F, rcNext := x.rc.next, rcBits := x.rc.lastBits, rcQ := x.rc.lastQ, rcLog := x.rc.log
    nextUnit := x.aus, lastPicId := x.lastId, frame := x.doneFrame, sliceIdx := x.lastSliceIdx, model := x.model
    lastUnit := match x.medium with
      | 0 => x.last.map (·.picId)
      | 1 => if x.enc then (if x.aus == 0 then none else some (x.aus - 1)) else x.doneFrame
      | _ => if x.aus == 0 then none else some (x.aus - 1)
    sinceI := x.sinceI, sinceLong := x.sinceLong, sticky := x.sticky, derived := x.derived, lastOutput := x.lastOut, digest := x.chain }

/-- Place the pictures of an image in buffers of the stream's reservation, each in the buffer that already holds the picture
or a new one (R216, R355): the state, and buffer by PIC_ID. -/
def Dev.placePics (n : Nat) (held : List RefSlot) : List (Nat × TensorImage) → Dev × SMap Nat → Dev × SMap Nat
  | [], r => r
  | (id, t) :: rest, (s, m) =>
    let put (b : Nat) (u : Dev) : Dev := { u with media := { u.media with feats := u.media.feats.put b (mapOfImage t) } }
    Dev.placePics n held rest
      (if m.has id then (s, m)
       else
         match held.find? fun r => r.picId == id with
         | some r => (put r.buf s, m.put id r.buf)
         | none =>
           match (s.stream n).bind fun x => s.takeBuf n x false with
           | some (b, u) => (put b u, m.put id b)
           | none => (s, m))

/-- Install an image in stream n (R355, R357, R360). -/
def Dev.install (s : Dev) (n : Nat) (i : EpochImage) : Dev :=
  match s.stream n with
  | none => s
  | some x =>
    let pics := [i.short, i.long, i.last].filterMap id
    let keep (r : Option RefSlot) : Option RefSlot := r.filter fun v => pics.any fun e => e.1 == v.picId
    let held := [x.short, x.long, x.last].filterMap id
    let s1 := (s.setStream n { x with short := keep x.short, long := keep x.long, last := keep x.last }).settleFeatures n
    let (s2, m) := Dev.placePics n (held.filter fun v => pics.any fun e => e.1 == v.picId) pics (s1, [])
    let ref (e : Option (Nat × TensorImage)) : Option RefSlot := e.bind fun p => (m.find p.1).map fun b => { picId := p.1, buf := b }
    let g := (s2.pkgOf x).prog 0
    let k := u8At g 21
    let ad : Option Adapter := if i.adapter.isEmpty then none
      else some { targets := targetsFrom g (i.adapter.take (16 * k)) (i.adapter.drop (16 * k)) k 0 0, bytes := i.adapter }
    (s2.modStream n fun y =>
      { y with
        header := i.header, accepted := y.enc || !i.header.isEmpty, bound := i.bound, model := i.model
        pkg := if y.enc || !i.bound then y.pkg else (s2.packageFor y.func (slice i.header 8 32)).getD y.pkg
        lastSliceIdx := i.sliceIdx, doneFrame := i.frame, short := ref i.short, long := ref i.long, last := ref i.last
        adapter := ad, scratch := i.scratch.map fun e => (e.1, mapOfImage e.2)
        rc := { F := i.rcF, lastBits := i.rcBits, lastQ := i.rcQ, next := i.rcNext, log := i.rcLog }
        aus := i.nextUnit, delivered := i.nextUnit, pics := if y.medium == 0 then i.nextUnit else 0, frames := if y.medium == 1 then i.nextUnit else 0
        lastId := i.lastPicId, lastAu := i.lastPicId, lastFrame := i.frame, sinceI := i.sinceI, sinceLong := i.sinceLong, sticky := i.sticky
        derived := i.derived, lastOut := i.lastOutput, chain := i.digest }).settleFeatures n

/-- Keep the image of the access units that stream n has closed since the last one for its next epoch (R354): one picture, two
audio frames, one field job. While the partner is silent nothing is kept, and the next epoch is full (R357, R358). DEDUCED, log entry 180. -/
def Dev.snapMirror (s : Dev) (n : Nat) : Dev :=
  match s.stream n, s.slotOf n with
  | some x, some (k, t) =>
    if t.role != .active || t.foreign then s
    else if s.pair.silent then s.setSlot k { t with ready := [], covered := x.aus, fullNext := true }
    else if x.aus < t.covered + (if x.medium == 1 && t.switchSeq.isNone then 2 else 1) then s
    else
      let i := s.capture x
      let is := if x.medium == 2 then (List.range (x.aus - t.covered)).map fun j => { i with nextUnit := t.covered + j + 1, lastUnit := some (t.covered + j) }
        else [i]
      s.setSlot k { t with ready := t.ready ++ is, covered := x.aus }
  | _, _ => s

/-- A SWITCH goes on (R366): once every accepted job is complete and the last epoch is open, the SWITCH record follows. DEDUCED, log entry 89. -/
def Dev.switchStep (s : Dev) (n : Nat) : Dev :=
  match s.stream n, s.slotOf n with
  | some x, some (k, t) =>
    if t.switchSeq.isSome && !t.switchOut && x.jobs.isEmpty && x.emits.isEmpty && x.recs.isEmpty && (x.units.all fun u => u.stage == .done) &&
        t.ready.isEmpty then (s.sendRecord (.switchRec k)).setSlot k { t with switchOut := true }
    else s
  | _, _ => s

/-! Unacknowledged epochs -/

/-- Count every unacknowledged epoch of slot k as acknowledged (R325, R358); it is discarded, and the buffers they held go (R358, R365). -/
def Dev.dropUnacked (s : Dev) (k : Nat) : Dev :=
  let t := s.slot k
  let c := t.sent.length
  ((s.setSlot k { t with sent := [], ready := [], acked := t.acked + c, fullNext := true }).count (ev 12 7) c).settleFeatures
    t.stream

/-- The standby's incoming epoch is discarded, and counted so (R358, R360, R365). -/
def Slot.dropIncoming (t : Slot) : Slot := if t.incoming then { t with incoming := false, discarded := t.discarded + 1 } else t

/-! WATCH -/

/-- The takeover report (R361). -/
def Slot.report (t : Slot) (reason : Nat) (assured : Bool) : Bytes :=
  leBytes 8 t.mirrorId.toNat ++ leBytes 8 t.mark.1 ++ leBytes 4 t.mark.2 ++ leBytes 4 (t.epochNo.getD 0) ++ leBytes 1 reason ++
    leBytes 1 (b2n assured) ++ leBytes 6 0

/-- Complete slot k's WATCH with a status, and write its report for a REASON (R360, R361, R365). -/
def Dev.endWatch (s : Dev) (k status : Nat) (reason : Option Nat) : Dev :=
  let t := s.slot k
  match t.watchSeq.bind s.accOf with
  | none => s
  | some a =>
    let s1 := s.setSlot k { t with watchSeq := none }
    let ok := ((s.stream t.stream).map s.assured).getD false
    let addr := u64At a.raw 32
    match reason with
    | none => s1.complete a status (t.mark.1 % 2 ^ 32) 0 none
    | some r =>
      if addr == 0 then s1.complete a status (t.mark.1 % 2 ^ 32) (32 * b2n ok) none
      else
        match s1.hostWrite addr (t.report r ok) with
        | some u => u.complete a status (t.mark.1 % 2 ^ 32) (32 * b2n ok) none
        | none => (s1.dataFault a.func a.ring).complete a stABORTED 0 0 none

/-- Complete the accepted descriptor with an acceptance number, where there is one. -/
def Dev.finish (s : Dev) (q : Option Nat) (status result flags : Nat) : Dev :=
  match q.bind s.accOf with
  | some a => s.complete a status result flags none
  | none => s

/-! The end of a mirror (R352, R365) -/

/-- The mirror of stream n ends at this end, by DETACH, or by the stream's close where closed: a waiting ATTACH is cancelled, the
closing notice goes out, and the slot is free. -/
def Dev.endMirror (s : Dev) (n : Nat) (closed : Bool) : Dev :=
  let waits := s.pair.waiting.filter fun w => w.stream == n
  let s0 := { s with pair := { s.pair with waiting := s.pair.waiting.filter fun w => w.stream != n } }
  let s1 := waits.foldl (fun (t : Dev) w => t.finish (some w.seq) stCANCELLED 0 0) s0
  match s1.slotOf n with
  | none => s1
  | some (k, t) =>
    let s2 := if s1.pair.silent then s1 else s1.sendRecord (.closing k closed)
    if t.role == .standby then
      (((s2.endWatch k stCANCELLED (some (if closed then 5 else 4))).finish t.attachSeq stCANCELLED 0 0).freeSlot k).modStream n fun x =>
        { x with mirror := .standby }
    else ((s2.finish t.attachSeq stCANCELLED 0 0).dropUnacked k).freeSlot k |>.settleFeatures n

/-! Takeover (R360, R362) -/

/-- Slot k becomes active (R360): the report's REASON, and whether by FORCE. A slot with no committed epoch is freed. -/
def Dev.takeSlot (s : Dev) (k reason status : Nat) (forced : Bool) : Dev :=
  let t := (s.slot k).dropIncoming
  let n := t.stream
  if t.epochNo.isNone && t.role == .standby then
    (((s.endWatch k stCANCELLED none).finish t.attachSeq stCANCELLED 0 0).freeSlot k).modStream n fun x => { x with mirror := .standby }
  else
    let s1 := (s.endWatch k status (some reason)).settleFeatures n
    let s2 := s1.setSlot k
      { s1.slot k with
        role := .active, state := .takenOver, forced := forced, acked := t.acked + t.discarded, discarded := 0, incoming := false
        fullNext := true, covered := t.mark.1, switchSeq := none, switchOut := false }
    s2.modStream n fun x => { x with takeAt := some x.aus }

end Sys2Proof.Machine
end

