-- ==== Sys2Proof/Machine/Media.lean ====
section
/-!
DEFINITION. The media streams' commands: what follows from each step of a stream (phase 10, scanning, feeding, queueing, the end of
jobs, delivery), STREAM_CLOSE and cancellation (R226, R237, R300), eviction (R383), polls.
-/
namespace Sys2Proof.Machine

/-! What follows a step of a stream -/

/-- The concealed frames of the gap before a frame, each an access unit of its own, with the SCRATCH tensors as its decoding found them (R248, R354). -/
def Dev.finishGap (s : Dev) (n : Nat) (u : MUnit) : Dev :=
  match s.stream n with
  | none => s
  | some x =>
    let s1 := (List.range u.gap.2).foldl (fun (t : Dev) i => (t.modStream n fun y => y.gapFrame u i).snapMirror n)
      (s.setStream n { x with scratch := u.ckpt })
    s1.modStream n fun y => { y with scratch := x.scratch }

/-- Run phase 10 of the units whose symbols are complete, and what the decoder does with each (R162, R235, R246, R257). -/
def Dev.finishUnits (n : Nat) : Nat → Dev → Dev
  | 0, s => s
  | f + 1, s =>
    match s.stream n with
    | none => s
    | some x =>
      match s.nextFin x with
      | none => s
      | some u =>
        let s1 := s.phaseTen n x u
        let s2 := if x.enc then s1
          else s1.withUnit n u.number fun t y v =>
            match y.medium with
            | 0 => t.deliver n v.number
            | 1 => (t.finishGap n v).withUnit n v.number fun w z v => w.finishFrame n z v
            | _ => t.finishBlock n y v
        Dev.finishUnits n f (s2.snapMirror n)

/-- Scan buffers and fetch input. look: this is a doorbell poll. -/
def Dev.feed (s : Dev) (n : Nat) (look : Bool) : Dev :=
  match s.stream n with
  | none => s
  | some x =>
    if x.failed == some stABORTED then s
    else if !x.enc then Dev.scanJobs n (x.jobs.length + 1) s
    else
      match x.medium with
      | 0 => s.feedVideo n look
      | 1 => s.feedAudio n
      | _ => Dev.feedField n (x.jobs.length + 1) s

/-- Queue what is coded for the emission ring; nothing of a cancelled picture (R226). -/
def Dev.queueCoded (s : Dev) (n : Nat) : Dev :=
  match s.stream n with
  | none => s
  | some x =>
    let k := x.units.length + 1
    let cancelled := match x.pic with
      | some p => x.jobs.any fun j => j.seq == p.job && j.cancelled
      | none => false
    if !x.enc || cancelled then s
    else
      match x.medium with
      | 0 => Dev.queueSlices n k s
      | 1 => Dev.queueFrames n k s
      | _ => Dev.queueBlocks n k s

/-- The picture of a cancelled ENC_PICTURE goes: its units that are in flight end first (R173, R226). -/
def Dev.dropCancelled (s : Dev) (n : Nat) : Dev :=
  match s.stream n with
  | none => s
  | some x =>
    match x.pic with
    | none => s
    | some p =>
      if !x.enc || !(x.jobs.any fun j => j.seq == p.job && j.cancelled) then s
      else
        let gone := x.units.filter fun u => u.subject == p.picId && u.stage != .flying
        let s1 := gone.foldl (fun (t : Dev) u => t.releaseEngine n u.number) s
        let s2 := s1.modStream n fun y =>
          { y with units := y.units.filter fun u => u.subject != p.picId || u.stage == .flying
                   emits := y.emits.filter fun e => e.job != some p.job }
        if x.units.any fun u => u.subject == p.picId && u.stage == .flying then s2
        else (s2.freeBuf p.buf).modStream n fun y => { y with pic := none, regionDue := false }

/-- Nothing of job j is outstanding (R225, R235, R246, R257). DEDUCED, log entry 70. -/
def Stream.jobReady (x : Stream) (j : Job) : Bool :=
  let left := x.units.any fun u => u.job == j.seq && !(u.fin && u.stage == .done)
  let out := x.emits.any (fun e => e.job == some j.seq) || x.recs.any fun r => r.job == j.seq
  let pic := match x.pic with
    | some p => p.job == j.seq && (x.enc || p.lastIdx == some (x.slices - 1))
    | none => false
  !left && !out && !pic && (if j.op == 0x40 then j.touched || j.cancelled else j.read && j.unitsDue == 0)

/-- Complete the stream's jobs that are ready, in acceptance order (R299). A field job is an access unit (R354). -/
def Dev.endJobs (n : Nat) : Nat → Dev → Dev
  | 0, s => s
  | f + 1, s =>
    match s.stream n with
    | none => s
    | some x =>
      match x.jobs with
      | [] => s
      | j :: _ =>
        if !x.jobReady j then s
        else
          let s1 := if j.op == 0x40 && j.status.isNone then s.endSource j.seq else s
          let s2 := if x.medium == 2 && j.status.isNone then s1.modStream n fun y => y.closeAccess 1 0 0 else s1
          Dev.endJobs n f (s2.endJob n j (s.assuredFlag n x))

/-- Access units that are delivered in full (R354, R362); units that nothing needs any more go. -/
def Dev.noteDelivered (s : Dev) (n : Nat) : Dev :=
  match s.stream n with
  | none => s
  | some x =>
    let done (m : Nat × Nat × Nat) : Bool :=
      (x.units.all fun u => decide (u.number ≥ m.2.1) || u.stage == .done) && decide (x.records ≥ m.2.2)
    let past := x.marks.takeWhile done
    let k := match past.getLast? with
      | some m => m.1
      | none => x.delivered
    let excess := match x.takeAt with
      | some t => decide (k > t)
      | none => false
    let open_ (u : MUnit) : Bool := match x.pic with
      | some p => u.subject == p.picId
      | none => false
    let s1 := s.setStream n
      { x with marks := x.marks.drop past.length, delivered := k, takeAt := if excess then none else x.takeAt
               units := x.units.filter fun u => !(u.fin && u.stage == .done) || open_ u }
    if excess then s1.refreshStreams else s1

/-! STREAM_CLOSE -/

/-- Stop what a close cancels (R226, R300). DEDUCED, log entry 84. -/
def Stream.cancelJobs (x : Stream) : Stream :=
  let stop (j : Job) : Job :=
    if j.status.isSome then j
    else if decOp j.op then
      { j with cancelled := true, fetched := true, read := true, rest := [], malformed := if j.touched then j.malformed else 0
               skipped := if j.touched then j.skipped else 0 }
    else if j.op == 0x40 then
      let mine := match x.pic with
        | some p => p.job == j.seq && !p.begun
        | none => false
      if !j.touched || mine then { j with cancelled := true } else j
    else j
  { x with jobs := x.jobs.map stop }

/-- The buffers of a stream at its end (R216, R237): output buffers that hold a picture go to the host, every other returns. -/
def Dev.releaseBuffers (s : Dev) (n : Nat) : Dev :=
  (s.media.pool.filter fun e => e.2.stream == some n).foldl (fun (t : Dev) e =>
    if e.2.output && (e.2.state == .outputPending || e.2.state == .hostHeld) then t.setBuf e.1 { e.2 with state := .hostHeld, stream := none }
    else if e.2.state == .free then t else t.freeBuf e.1) s

/-- The stream is no more: buffers, seat, index (R237, R262, R293). -/
def Dev.removeStream (s : Dev) (n : Nat) (x : Stream) : Dev :=
  let s1 := (s.releaseBuffers n).modSeat x.contract x.seat fun t => { t with stream := none, uncovered := false }
  ({ s1 with media := { s1.media with streams := s1.media.streams.del n, gens := s1.media.gens.put n ((x.gen + 1) % 65536) } }).refreshStreams

/-- The close of a stream goes on (R200, R237, R300): once everything before it is done, an encoder's End unit; once that is
written, the end. -/
def Dev.closeStep (s : Dev) (n : Nat) : Dev :=
  match s.stream n with
  | none => s
  | some x =>
    match x.closing with
    | none => s
    | some q =>
      if !(x.jobs.isEmpty && x.pic.isNone && x.emits.isEmpty && x.recs.isEmpty && x.units.all fun u => u.stage == .done) then s
      else if x.enc && !x.endSent && x.mirror != .standby && x.failed != some stADMISSION then
        s.setStream n { x with endSent := true, emits := [⟨unitOf 15 0 [], none, none⟩] }
      else (s.removeStream n x).finish (some q) (if x.closeCorrupt then stCORRUPT else stDONE) (b2n (x.sticky && x.medium != 2)) 0

/-- Everything that follows from a step of stream n. look: this is a doorbell poll. -/
def Dev.pump (s : Dev) (n : Nat) (look : Bool) : Dev :=
  match if s.sys.mode = .failStop then none else s.stream n with
  | none => s
  | some x =>
    let s1 := ((Dev.finishUnits n (x.units.length + 1) (s.snapMirror n)).feed n look).queueCoded n
    let s2 := Dev.endJobs n (x.jobs.length + 1) (s1.dropCancelled n)
    (((s2.noteDelivered n).snapMirror n).switchStep n).closeStep n

/-- Pump the decode streams that wait for an output buffer (R217). -/
def Dev.pumpWaiting (s : Dev) : Dev :=
  (s.media.streams.filter fun e => !e.2.enc && e.2.medium == 0 && e.2.waiting = Wait.room).foldl (fun (t : Dev) e => t.pump e.1 false) s

/-- Run a step of stream n, and what follows. DEDUCED, log entry 23. -/
def Dev.streamStep (s : Dev) (n : Nat) (f : Dev → Dev) : Dev := if s.serving then ((f s).pump n false).pumpWaiting else s

/-- Run a descriptor of a stream, and what follows. One that fails a common check ends with BAD_DESCRIPTOR in its turn, whatever the stream's state
(R8). -/
def Dev.streamDesc (s : Dev) (d : Desc) (row : Nat) (op : Acc → Dev → Dev) : Dev :=
  let after (a : Acc) (t : Dev) : Dev := (t.pump (handleOf a.raw % 65536) false).pumpWaiting
  s.runWith d row (fun a t => after a (op a t)) fun a t => after a (t.withStream a fun n x => t.rejectJob n x a stBAD)

/-- STREAM_CLOSE (R206, R226, R237, R300, R365). Slices that it finds missing are decoded in it, and it ends with STREAM_CORRUPT. DEDUCED, log entry
173. -/
def Dev.streamCloseOp (a : Acc) (s : Dev) : Dev :=
  let h := handleOf a.raw
  let n := h % 65536
  match s.stream n with
  | none => s.complete a stBAD 0 0 none
  | some x =>
    if x.func != a.func || x.gen != h / 65536 then s.complete a stBAD 0 0 none
    else if x.closing.isSome then s
    else
      let standby := match s.slotOf n with
        | some (_, t) => t.role != .active
        | none => x.mirror == .standby
      let s1 := (s.setStream n { x.cancelJobs with closing := some a.seq, closeCorrupt := x.lacksSlices, endSent := standby }).setStage a.seq .begun
      ((s1.endMirror n true).closeSlices n a.seq)

def execStreamClose (d : Desc) (s : State) : Out := .next (s.onDev fun v => v.streamDesc d 0x31 Dev.streamCloseOp)

/-! Eviction (R382, R383) -/

/-- Stream n is evicted: its accepted jobs complete with ABORTED_FAULT, as will every later descriptor but STREAM_CLOSE. DEDUCED, log entries 85 and
115. -/
def Dev.evict (s : Dev) (n : Nat) : Dev :=
  match s.stream n with
  | none => s
  | some x =>
    let s1 := x.units.foldl (fun (t : Dev) u => t.releaseEngine n u.number) s
    let s2 := s1.modStream n fun y =>
      { y with failed := some stABORTED, units := [], emits := [], recs := [], pic := none, marks := [], regionDue := false, endSent := true
               jobs := y.jobs.map fun j => { j with aborted := true, read := true, touched := true, unitsDue := 0 } }
    (Dev.endJobs n (x.jobs.length + 1) s2).closeStep n

/-! Descriptors of streams -/

def execEncPicture (d : Desc) (s : State) : Out := .next (s.onDev fun v => v.streamDesc d 0x40 Dev.encPictureJob)
def execDecUnits (d : Desc) (s : State) : Out := .next (s.onDev fun v => v.streamDesc d 0x41 (Dev.decJob 0))
def execAudEnc (d : Desc) (s : State) : Out := .next (s.onDev fun v => v.streamDesc d 0x50 Dev.audEncJob)
def execAudDec (d : Desc) (s : State) : Out := .next (s.onDev fun v => v.streamDesc d 0x51 (Dev.decJob 1))
def execFldEnc (d : Desc) (s : State) : Out := .next (s.onDev fun v => v.streamDesc d 0x60 Dev.fldEncJob)
def execFldDec (d : Desc) (s : State) : Out := .next (s.onDev fun v => v.streamDesc d 0x61 (Dev.decJob 2))

/-- POOL_MARK operations (R218); a buffer that returns may end a picture's wait (R217). -/
def execPoolMarkAlloc (d : Desc) (s : State) : Out := .next (s.onDev fun v => v.runDesc d 0x4801 Dev.poolAllocOp)
def execPoolMarkTake (d : Desc) (s : State) : Out := .next (s.onDev fun v => v.runDesc d 0x4802 Dev.poolTakeOp)
def execPoolMarkRelease (d : Desc) (s : State) : Out := .next (s.onDev fun v => v.runDesc d 0x4803 fun a t => (t.poolReleaseOp a).pumpWaiting)
def execPoolMarkDiscard (d : Desc) (s : State) : Out := .next (s.onDev fun v => v.runDesc d 0x4804 fun a t => (t.poolDiscardOp a).pumpWaiting)

/-! Steps of units and streams -/

/-- DEPARTURE (R266), and what follows for the seat's stream. -/
def execDeparture (r : SeatRef) (s : State) : Out :=
  let n := ((s.dev.media.contracts.find r.contract.toNat).bind fun c => c.seats[r.seat]?).bind (·.stream)
  .next (s.onDev fun v => v.streamStep (n.getD 1025) fun t => t.departureOp r.contract.toNat r.seat)
def execContextPass (u : UnitRef) (s : State) : Out := .next (s.onDev fun v => v.streamStep u.stream.val fun t => t.contextPassOp u)
def execDecodeSegment (u : UnitRef) (s : State) : Out := .next (s.onDev fun v => v.streamStep u.stream.val fun t => t.decodeSegmentOp u)
def execEncodeUnit (u : UnitRef) (s : State) : Out := .next (s.onDev fun v => v.streamStep u.stream.val fun t => t.encodeUnitOp u)
def execTrain (n : Fin 1025) (s : State) : Out := .next (s.onDev fun v => v.streamStep n fun t => t.trainOp n)
def execRegionJob (n : Fin 1025) (s : State) : Out := .next (s.onDev fun v => v.streamStep n fun t => t.regionOp n)
def execUnitEmit (n : Fin 1025) (s : State) : Out := .next (s.onDev fun v => v.streamStep n fun t => t.unitEmitOp n)
def execPictureClose (n : Fin 1025) (s : State) : Out := .next (s.onDev fun v => v.streamStep n fun t => t.pictureCloseOp n)
def execPictureRecord (n : Fin 1025) (s : State) : Out := .next (s.onDev fun v => v.streamStep n fun t => t.pictureRecordOp n)
def execAutoCopy (n : Fin 1025) (s : State) : Out := .next (s.onDev fun v => v.streamStep n fun t => t.autoCopyOp n)
def execOutputRecord (n : Fin 1025) (s : State) : Out := .next (s.onDev fun v => v.streamStep n fun t => t.outputRecordOp n)
def execBlockRecord (n : Fin 1025) (s : State) : Out := .next (s.onDev fun v => v.streamStep n fun t => t.blockRecordOp n)

/-! Polls -/

/-- What a poll of function f does for its streams (R222, R224, R236): CONSUMED of those that wait and the ROWS_ADDR counters are
read again. A failing read of CONSUMED leaves it as it was. -/
def Dev.pollStreams (s : Dev) (f : Nat) : Dev :=
  (s.media.streams.filter fun e => e.2.func == f).foldl (fun (t : Dev) e =>
    let t1 := if e.2.waiting = Wait.room then
        match t.readConsumed e.2 with
        | some c => t.modStream e.1 fun y => { y with consumed := max c y.consumed }
        | none => t
      else t
    t1.pump e.1 true) s

/-- A poll of function f that is due, for its rings and for its streams. -/
def Dev.pollAll (s : Dev) (f : Nat) : Dev := if s.pollDue f then (s.pollOp f).pollStreams f else s

/-- A write to WAKE wants a poll (R290); the value written means nothing. -/
def execWake (f : Fin 64) (_value : Word) (s : State) : Out := .next (s.disarm.onDev fun v => v.wakeOp f)
def execPoll (f : Fin 64) (s : State) : Out := .next (s.onDev fun v => v.pollAll f)

end Sys2Proof.Machine
end

