-- ==== Sys2Proof/Machine/Reset.lean ====
section
/-!
DEFINITION. Keys (R146), fuse commands (R381), injection (R387, R388), freeze (R390, R391), resets and boot (R409 to R414).
-/
namespace Sys2Proof.Machine

/-- The device takes writes to a block of BAR0 of the physical function (R436); the four sticky registers are served
apart. -/
def Dev.writable (s : Dev) (blk : Nat) : Bool :=
  !(s.fn 0).d3 &&
    match s.sys.mode with
    | .ready => true
    | .quiesced => true
    | .boot => blk ≤ 4 || blk == 0xE || blk == 0x20
    | _ => false

/-! Keys -/

/-- ADM_KEYCTL.LOCK (R146). -/
def Dev.keyLocked (s : Dev) : Bool := bitAt (s.regN (ADM + 0x800)) 1

def Dev.setKey (s : Dev) (f : KeySlot → KeySlot) : Dev :=
  { s with media := { s.media with keys := listMod s.media.keys (s.regN (ADM + 0x804)) f } }

/-- The 96 bytes of a slot are a point of P-384 (R146). -/
def keyOk (b : Bytes) : Bool := onCurve (leNat (slice b 0 48)) (leNat (slice b 48 48))

/-- Keep the keys and REQUIRE_SIG as they stand for the loads accepted already (R146). -/
def Dev.noteKeys (s : Dev) : Dev :=
  let waits := s.host.accepted.any fun a => opcodeOf a.raw == 0x10
  let h := if waits then s.media.keyHist ++ [(s.host.nextSeq, s.media.keys, bitAt (s.regN (ADM + 0x800)) 0)] else []
  { s with media := { s.media with keyHist := h } }

/-- ADM_KEYCMD.INSTALL (R146). -/
def Dev.keyInstall (s : Dev) : Dev :=
  if s.writable 6 && !s.keyLocked then s.noteKeys.setKey fun k => { k with valid := keyOk k.data } else s

/-- ADM_KEYCMD.ERASE (R146). -/
def Dev.keyErase (s : Dev) : Dev :=
  if s.writable 6 && !s.keyLocked then s.noteKeys.setKey fun _ => KeySlot.reset else s

/-- ADM_KEYCTL.LOCK (R146). -/
def Dev.keyLock (s : Dev) : Dev :=
  if s.writable 6 && !s.keyLocked then s.setRegN (ADM + 0x800) (s.regN (ADM + 0x800) ||| 2) else s

def execInstall (s : State) : Out := .next (s.disarm.onDev Dev.keyInstall)
def execErase (s : State) : Out := .next (s.disarm.onDev Dev.keyErase)
def execAdmKeyctlLock (s : State) : Out := .next (s.disarm.onDev Dev.keyLock)

/-! Fuses -/

/-- FUS_ARM (R381). -/
def State.fuseArm (s : State) (w : Nat) : State :=
  if s.dev.writable 0xE then
    { s with fuses := { s.fuses with armedAt := if w == 0xF05E then some s.dev.sys.time else none } }
  else s

def execFusArm (w : Word) (s : State) : Out := .next (s.fuseArm w.toNat)

/-- The arming is in force and no burn runs (R381). -/
def State.fuseArmed (s : State) : Bool :=
  s.dev.writable 0xE && s.fuses.burning.isNone &&
    match s.fuses.armedAt with
    | some t => decide (s.dev.sys.time ≤ t + 1000 * usTicks)
    | none => false

/-- The lowest empty record (R381). -/
def Fuses.lowestEmpty (f : Fuses) : Option Nat := (List.range 64).find? fun i => listGet f.records i 0 == 0

/-- Begin to burn a value into the lowest empty record; RESULT 3 where none is left (R381). -/
def State.burnValue (s : State) (v : BitVec 64) : State :=
  match s.fuses.lowestEmpty with
  | some i => { s with fuses := { s.fuses with armedAt := none, burning := some (i, v) } }
  | none => { s with fuses := { s.fuses with armedAt := none, result := 3 } }

/-- FUS_CMD naming soft entry 64 + index (R381). -/
def State.burnSoft (s : State) (index : Nat) : State :=
  if s.fuseArmed then s.burnValue (fuseRecord (listGet s.dev.units.soft index 0).toNat) else s

def execBurn (index : Fin 128) (s : State) : Out := .next (s.burnSoft index)

/-- FUS_CMD.REVOKE naming a record (R381). -/
def State.burnRevoke (s : State) (record : Nat) : State :=
  if s.fuseArmed then s.burnValue (fuseRecord (0xF + record * 2 ^ 8)) else s

def execRevoke (record : Fin 64) (s : State) : Out := .next (s.burnRevoke record)

/-- A value that differs from v, otherwise free (R381: the record is left as it reads). -/
def otherValue (x : Nat) (v : BitVec 64) : BitVec 64 := if BitVec.ofNat 64 x = v then v + 1 else BitVec.ofNat 64 x

/-- FUS_BURN_DONE (R381): the read-back is compared. -/
def execFusBurnDone (o : BurnOutcome) (s : State) : Out :=
  match s.fuses.burning with
  | none => .next s
  | some (i, v) =>
    match o with
    | .ok => .next { s with fuses := { s.fuses with records := listSet s.fuses.records i v, burning := none, result := 1 } }
    | .mismatch =>
      let (x, d) := s.dev.draw
      .next { s with
        dev := d.fuseErr
        fuses := { s.fuses with records := listSet s.fuses.records i (otherValue x v), burning := none, result := 2 } }

/-! Injection -/

def Dev.setInj (s : Dev) (f : Inj → Inj) : Dev := { s with sys := { s.sys with inj := f s.sys.inj } }

/-- The unlock sequence ends: the next write must be word 1, and INJ_NONCE takes a new value (R387). -/
def Dev.injEnd (s : Dev) : Dev :=
  let (x, t) := s.draw
  t.setInj fun i => { i with step := 0, nonce := x % 2 ^ 32 }

/-- The sequence completes (R387, R388): UNLOCKED, INJ_USED, INJECT. -/
def Dev.injOpen (s : Dev) : Dev :=
  let t := (s.injEnd).setInj fun i => { i with unlocked := true }
  let u : Dev := { t with inst := { t.inst with injSince := true } }
  (u.suspend 1).sticky 3 10 0

/-- A word is awaited and more than 100 µs have passed since the last (R387). -/
def Dev.injLate (s : Dev) : Bool :=
  decide (s.sys.inj.step > 0) && decide (s.sys.inj.lastAt + 100 * usTicks < s.sys.time)

/-- INJ_UNLOCK (R387). DEDUCED, log entry 51. -/
def Dev.injWord (s : Dev) (w : Nat) : Dev :=
  if !s.writable 0xD then s
  else
    let t := if s.injLate then s.injEnd else s
    let i := t.sys.inj
    if i.step == 0 then
      if w == 0x1F6E0C81 then t.setInj fun i => { i with step := 1, lastAt := t.sys.time } else t
    else if i.step == 1 then
      if w == i.nonce then t.setInj fun i => { i with step := 2, lastAt := t.sys.time } else t.injEnd
    else if w == 2 ^ 32 - 1 - i.nonce then t.injOpen
    else t.injEnd

def execInjUnlock (w : Word) (s : State) : Out := .next (s.disarm.onDev fun d => d.injWord w.toNat)

/-- Registers of the INJ block that are locked (R389). -/
def lkRegs : List Nat := [0x10, 0x14, 0x18, 0x1C, 0x20, 0x24, 0x28, 0x2C, 0x30]

/-- The registers lock again (R388). -/
def Dev.injRelock (s : Dev) : Dev :=
  if s.sys.inj.unlocked then
    let s1 := lkRegs.foldl (fun t o => t.setRegN (INJ + o) 0) s
    let s2 := s1.setInj fun i => { i with unlocked := false }
    let s3 : Dev := { s2 with host := { s2.host with accepted := s2.host.accepted.map fun a => { a with injected := true } } }
    s3.unsuspend 1
  else s

/-- INJ_CTL.LOCK (R388). -/
def Dev.injLock (s : Dev) : Dev := if s.writable 0xD then s.injRelock else s

def execInjLock (s : State) : Out := .next (s.disarm.onDev Dev.injLock)

/-- INJ_UNLOCK_TIMEOUT (R387). -/
def execInjUnlockTimeout (s : State) : Out := .next (s.onDev fun d => if d.clocked && d.injLate then d.injEnd else d)

/-! Freeze -/

/-- DBG_FRZCMD.FREEZE (R390). -/
def Dev.freezeCmd (s : Dev) : Dev := if s.writable 0x20 then s.freeze 1 else s

def execFreeze (s : State) : Out := .next (s.disarm.onDev Dev.freezeCmd)

/-- FRZ_N falls (R390). -/
def execFrzNFall (s : State) : Out :=
  .next (s.onDev fun d =>
    let fell := d.sys.pins.frz
    let d1 := { d with sys := { d.sys with pins := { d.sys.pins with frz := false } } }
    if fell && d.sys.pins.frzArmed && bitAt (d.regN DBG) 1 && d.clocked then d1.freeze 0 else d1)

/-- FRZ_N rises (R390). -/
def execFrzNRise (s : State) : Out :=
  .next (s.onDev fun d => { d with sys := { d.sys with pins := { d.sys.pins with frz := true, frzArmed := true } } })

/-! Resets -/

/-- Registers that a warm reset keeps (R410). -/
def warmKept : List Nat :=
  [ERR, ERR + 0x04, ERR + 0x08, ERR + 0x0C, ERR + 0x10, ERR + 0x14, ERR + 0x18, ERR + 0x1C, ERR + 0x220, ERR + 0x224,
   ERR + 0x228, ERR + 0x22C, ERR + 0x230, ERR + 0x234, ERR + 0x238, ERR + 0x23C, ERR + 0x240, DBG + 0x0C, DBG + 0x10,
   DBG + 0x14]

/-- The device after a reset (R410): a warm one keeps warmKept and soft repair. What is outside the device stays: host memory
and its faults, pins, messages sent, the count of free values drawn. DEDUCED, log entry 32. DESIGN CHOICE, log entry 47. -/
def Dev.afterReset (s : Dev) (cold : Bool) (cause : Nat) (m : Mode) : Dev :=
  { Dev.reset with
    sys := { Sys.reset with mode := m, free := s.sys.free, pins := { s.sys.pins with therm := true },
                            hostFaults := s.sys.hostFaults, hostSlow := s.sys.hostSlow, rstCause := 2 ^ cause }
    regs := if cold then [] else s.regs.filter fun e => warmKept.contains e.1
    hmem := s.hmem
    host := { HostIf.reset with outputs := s.host.outputs }
    units := { Units.reset with soft := if cold then [] else s.units.soft } }

/-- The block after a reset (R409, R410). -/
def State.afterReset (s : State) (cold : Bool) (cause : Nat) (m : Mode) : State :=
  { s with
    dev := s.dev.afterReset cold cause m
    clk := Clocks.reset
    tiles := { tiles := [], mesh := [] }
    fuses := { s.fuses with armedAt := none, burning := none, result := 0 } }

def State.setPins (s : State) (f : Pins → Pins) : State :=
  s.onDev fun d => { d with sys := { d.sys with pins := f d.sys.pins } }

/-- A reset input is asserted (R409, R411). The power-on reset goes on holding the core (R406). DEDUCED, log entry 117. -/
def State.assertPin (s : State) (cause : Nat) (f : Pins → Pins) : State :=
  if s.dev.sys.mode = .powerOn then s.setPins f else (s.afterReset false cause .held).setPins f

/-- PERST_N asserted (R409). -/
def execPerst (s : State) : Out := .next (s.assertPin 2 fun p => { p with perst := false })

/-- A low pulse of DEV_RST_N through its filter (R409); between 100 ns and 1 µs a free value decides. -/
def execDevRst (ns : Nat) (s : State) : Out :=
  if ns < 100 then .next s
  else if ns ≥ 1000 then .next (s.assertPin 3 fun p => { p with devRst := false })
  else
    let (x, d) := s.dev.draw
    let t := { s with dev := d }
    if x % 2 == 1 then .next (t.assertPin 3 fun p => { p with devRst := false }) else .next t

/-- COLD_POWER (R409): VDD_STBY rises; the power-on reset holds the core (R406). -/
def execColdPower (s : State) : Out := .next (s.afterReset true 0 .powerOn)

/-- 0x5A02 to PWR_RSTCMD (R409). -/
def State.coldCmd (s : State) : State := if s.dev.writable 2 then s.afterReset true 1 .waitRef else s

/-- 0x5A01 to PWR_RSTCMD (R409). -/
def State.warmCmd (s : State) : State := if s.dev.writable 2 then s.afterReset false 4 .waitRef else s

def execColdCmd (s : State) : Out := .next s.disarm.coldCmd
def execWarmCmd (s : State) : Out := .next s.disarm.warmCmd

/-- The core leaves reset (R411, R412): FRZ_N held low through the release must rise first (R390). -/
def State.leaveReset (s : State) : State :=
  (s.onDev fun d => d.setMode .waitRef).setPins fun p => { p with frzArmed := p.frz }

/-- RESET_RELEASE (R411): the last reset input rises. -/
def execResetRelease (s : State) : Out :=
  let t := s.setPins fun p => { p with perst := true, devRst := true }
  if s.dev.sys.mode = .held then .next t.leaveReset else .next t

/-- POWER_ON_RESET_RELEASE (R406). -/
def execPowerOnResetRelease (s : State) : Out :=
  if s.dev.sys.mode = .powerOn then
    if s.dev.sys.pins.perst && s.dev.sys.pins.devRst then .next s.leaveReset
    else .next (s.onDev fun d => d.setMode .held)
  else .next s

/-! Boot -/

/-- The boot stops with a REASON (R412). -/
def Dev.bootFail (s : Dev) (reason : Nat) : Dev :=
  let t := { s with sys := { s.sys with bootState := 6, bootReason := reason } }
  if reason ≥ 6 then t.failStop else t

/-- ROOT_PLL_LOCK (R402, R412 steps 1 to 4): a reference within ±1,300 ppm. -/
def execRootPllLock (ppm : Int) (hbmOk : Bool) (s : State) : Out :=
  if s.dev.sys.mode = .waitRef && decide (ppm.natAbs ≤ 1300) then
    let t : State :=
      { s with
        clk := { s.clk with locked := true, refPpm := ppm, standby := s.fuses.pllStandby s.dev.units.soft }
        dev := ((s.dev.setMode .boot).buildRepair s.fuses).settlePlaces }
    .next (t.onDev fun d =>
      if hbmOk then { d with units := { d.units with hbmUp := [true, true] } } else d.bootFail 6)
  else .next s

/-- The checks of R413 on an image: the REASON of R414, 0 for none. DEDUCED, log entry 48. -/
def imageReason (f : Fuses) (len : Nat) (b : Bytes) : Nat :=
  let key := slice b 24 96
  let digest := sha384 key
  let qx := leNat (slice b 24 48)
  let qy := leNat (slice b 72 48)
  let r := leNat (slice b 160 48)
  let w := leNat (slice b 208 48)
  if !(b.take 4 == [0x48, 0x46, 0x57, 0x31] && len == 256 + u32At b 12 && zeroAt b 10 2 && zeroAt b 120 40) then 1
  else if !((List.range 4).any fun k => listGet f.keys k [] == digest && !bitAt f.revoked k) then 3
  else if !ecdsaOk qx qy r w (b.take 160 ++ b.drop 256) then 4
  else if u16At b 8 < f.svnMin then 5
  else 0

/-- The bytes of a chain frame (R338). -/
def chainFrame (dst src typ : Nat) (payload : Bytes) : Bytes :=
  let h := [BitVec.ofNat 8 dst, BitVec.ofNat 8 src, BitVec.ofNat 8 typ, BitVec.ofNat 8 payload.length] ++ payload
  h ++ leBytes 4 (crc32c h)

/-- A frame of the device's own (R339). -/
def Dev.sendFrame (s : Dev) (dst typ : Nat) (payload : Bytes) : Dev :=
  s.output (.chainFrame (chainFrame dst s.chain.addr typ payload))

/-- The device becomes ready (R340, R412 step 7): READY, and a JOIN where it has no address. DEDUCED, log entry 36. -/
def Dev.becomeReady (s : Dev) (serial version : Nat) : Dev :=
  let (x, t) := s.draw
  let t1 := ((t.setMode .ready).setRegN (PWR + 0x114) version).setRegN (GLB + 0x10) version
  let t2 := { t1 with sys := { t1.sys with bootState := 5, bootReason := 0 }
                      pair := { t1.pair with mplCap := x % 2 ^ 32 }
                      chain := { t1.chain with statusDue := true } }
  if t2.chain.addr == 0 then t2.sendFrame 0 0x03 (leBytes 8 serial) else t2

/-- PWR_BOOTCMD.START (R412, R413): fetch, verify, start, test, READY. DESIGN CHOICE, log entry 35. -/
def State.startBoot (s : State) (tests : BootTests) : State :=
  let d := s.dev
  if d.sys.mode = .boot && d.writable 2 && (d.sys.bootState == 0 || d.sys.bootState == 6) then
    let len := d.regN (PWR + 0x108)
    if len < 256 || len > 2 ^ 24 then s.onDev fun d => d.bootFail 1
    else
      match d.hostRead (d.reg64 (PWR + 0x100) (PWR + 0x104)) len with
      | none => s.onDev fun d => d.bootFail 2
      | some b =>
        let reason := imageReason s.fuses len b
        if reason != 0 then s.onDev fun d => d.bootFail reason
        else
          s.onDev fun d =>
            let d1 := d.bootTests tests
            if tests.noSpare then d1.bootFail 7 else d1.becomeReady s.fuses.serial (u32At b 4)
  else s

def execStart (tests : BootTests) (s : State) : Out := .next (s.disarm.startBoot tests)

/-- WATCHDOG_EXPIRY (R371). -/
def execWatchdogExpiry (s : State) : Out := .next (s.onDev fun d => if d.clocked then d.sticky 3 9 0 else d)

/-- SPINE_UE (R371). -/
def execSpineUe (s : State) : Out := .next (s.onDev fun d => if d.clocked then d.sticky 1 7 0 else d)

/-- HBM_LANE_REPAIR (R374, R382). -/
def execHbmLaneRepair (stack : Fin 2) (channel : Fin 8) (lane : Fin 4096) (s : State) : Out :=
  .next (s.onDev fun d => if d.clocked then (d.repairHbmLane stack channel lane).count (ev 10 5) 1 else d)

/-- VF_ENABLE (R310). -/
def execVfEnable (n : Fin 64) (s : State) : Out :=
  .next (s.onDev fun d => if d.clocked && d.host.vfs == 0 then { d with host := { d.host with vfs := n } } else d)

end Sys2Proof.Machine
end

