-- ==== Sys2Proof/Machine/Pair.lean ====
section
/-!
DEFINITION. The pair (R345 to R366): pass links, heartbeats, silence and the takeover decision, MIRROR_CTL, epochs, switch.
-/
namespace Sys2Proof.Machine

/-- STATE of a STATUS frame (R343). -/
def Dev.chainState (s : Dev) : Nat :=
  match s.sys.mode with
  | .ready => if s.media.streams.isEmpty && s.media.contracts.isEmpty then 2 else 3
  | .failStop => 4
  | .quiesced => 5
  | _ => 1

/-! Links and silence -/

def Dev.modLink (s : Dev) (l : Nat) (f : PassLink → PassLink) : Dev := { s with pair := { s.pair with links := listMod s.pair.links l f } }
def Dev.link (s : Dev) (l : Nat) : PassLink := listGet s.pair.links l PassLink.reset

/-- A link works: enabled, and not lost to a second lane (R346, R368). -/
def Dev.linkOn (s : Dev) (l : Nat) : Bool := bitAt (s.regN (PASS + 0x04)) l && !(s.link l).dead

/-- A slot becomes DEGRADED; a CONFLICT stays until the host closes the stream (R364). -/
def Slot.degraded (t : Slot) : Slot := if t.state == .conflict then t else { t with state := .degraded }

/-- Every slot that a predicate admits becomes DEGRADED. DEDUCED, log entry 93. -/
def Dev.degrade (s : Dev) (p : Slot → Bool) : Dev :=
  { s with pair := { s.pair with slots := s.pair.slots.mapVals fun _ t => if p t then t.degraded else t } }

/-- The decision of R359: 3 LOST, 2 PARTITIONED, 4 UNKNOWN. DEDUCED, log entry 94. -/
def Dev.takeDecision (s : Dev) (partner : Nat) : Dev :=
  let s1 := { s with pair := { s.pair with partner := partner } }
  if partner == 3 then
    if bitAt (s1.regN (PASS + 0x04)) 2 then s1
    else
      let s2 := (s1.pair.slots.filter fun e => e.2.role == .standby).foldl (fun (t : Dev) e => t.takeSlot e.1 1 stTAKEOVER false) s1
      s2.refreshStreams
  else s1.degrade fun _ => true

/-- The partner's chain address (R348). -/
def Pair.addr (p : Pair) : Nat := (p.hello.map fun h => h.addr.toNat).getD 0

/-- DETACHes whose other end's slot is free, or cannot be heard of, complete (R351). -/
def Dev.endDetaches (s : Dev) (p : BitVec 64 → Bool) : Dev :=
  let freed := s.pair.detaching.filter fun e => p e.2
  freed.foldl (fun (t : Dev) e => t.finish (some e.1) stDONE 0 0)
    { s with pair := { s.pair with detaching := s.pair.detaching.filter fun e => !p e.2 } }

/-- The partner has become silent (R347, R351, R357, R358, R359, R366): incoming and unacknowledged epochs count as discarded, a SWITCH ends, and the
chain is asked, where it can be. DEDUCED, log entries 92 and 94. -/
def Dev.becomeSilent (s : Dev) : Dev :=
  let s0 := s.endDetaches fun _ => true
  let s1 := { s0 with pair := { s0.pair with silent := true, slots := s0.pair.slots.mapVals fun _ t => t.dropIncoming } }
  let s2 := (s1.pair.slots.filter fun e => e.2.role == .active).foldl (fun (t : Dev) e =>
    let t1 := t.dropUnacked e.1
    let x := t1.slot e.1
    match x.switchSeq with
    | some q => (t1.setSlot e.1 { x with role := .held, state := .degraded, switchSeq := none, switchOut := false }).finish (some q) stABORTED 0 0
    | none => t1.setSlot e.1 x.degraded) s1
  let a := s2.pair.addr
  let mute := a == 0 || s2.chain.addr == 0
  let s3 := if mute then s2 else { s2.sendFrame a 0x11 [] with chain := { s2.chain with ownQuery := some (a, s2.sys.time) } }
  match s3.pair.evidence with
  | some st => if st == 1 || st == 4 || st == 5 then s3.takeDecision 3 else if mute then s3.takeDecision 2 else s3
  | none => if mute then s3.takeDecision 4 else s3

/-- Silence as the links now stand (R347, R348): both are down, or one is down and the other never came up; of miswired links only
PASS0 counts. -/
def Dev.checkSilence (s : Dev) : Dev :=
  let a := s.link 0
  let b := s.link 1
  let silent := !a.up && (!b.up || s.pair.miswired) && (a.everUp || b.everUp)
  if silent && !s.pair.silent then s.becomeSilent else s

/-- A link goes down (R346, R347, R371). -/
def Dev.linkDown (s : Dev) (l : Nat) (dead : Bool) : Dev :=
  ((s.modLink l fun x => { x with up := false, dead := x.dead || dead }).sticky 1 (10 + l) (firstDet l 0 0 0)).checkSilence

/-- A mirror that both ends hold as active stays with the end that took it by FORCE (R364). -/
def Dev.checkConflict (s : Dev) (roles : List SlotRole) : Dev :=
  let lost (t : Slot) : Bool := t.role == .active && !t.forced && roles.any fun r => r.mirrorId == t.mirrorId && r.active && r.forced
  { s with pair := { s.pair with slots := s.pair.slots.mapVals fun _ t => if lost t then { t with state := .conflict } else t } }

/-- The partner is heard again (R347, R359): slots resynchronise where it is the same device. -/
def Dev.heard (s : Dev) (same : Bool) : Dev :=
  let f (t : Slot) : Slot :=
    if !same then { t with foreign := true } else if t.state == .degraded && t.role == .active then { t with fullNext := true } else t
  { s with
    pair := { s.pair with silent := false, evidence := none, partner := 1, slots := s.pair.slots.mapVals fun _ t => f t }
    chain := { s.chain with ownQuery := none } }

/-- The slot roles that a heartbeat carries (R347). -/
def Pair.roles (p : Pair) : List SlotRole :=
  (p.slots.filter fun e => e.2.role != .free).map fun e => { mirrorId := e.2.mirrorId, active := e.2.role == .active, forced := e.2.forced }

/-- HEARTBEAT (R345, R347): every 10 µs, on every link that is up. -/
def Dev.heartbeatOp (s : Dev) (serial : Nat) : Dev :=
  if !s.serving || s.sys.time < s.pair.lastBeat + 10 * usTicks then s
  else
    let s1 := { s with pair := { s.pair with lastBeat := s.sys.time } }
    (List.range 2).foldl (fun (t : Dev) l =>
      if (t.link l).up then (t.sendFlits l 1).output (.heartbeat l (t.link l).txSeq (BitVec.ofNat 64 serial) t.pair.roles) else t) s1

def execHeartbeat (s : State) : Out := .next (s.onDev fun v => v.heartbeatOp s.fuses.serial)

/-- The HELLO of this device on link l (R345, R348). -/
def Dev.sendHello (s : Dev) (l serial : Nat) : Dev :=
  (s.sendFlits l 1).output (.helloSent l (s.link l).txSeq
    { serial := BitVec.ofNat 64 serial, rev := 0xB1, fw := BitVec.ofNat 32 (s.regN (GLB + 0x10)), mpl := BitVec.ofNat 32 s.pair.mplCap
      addr := BitVec.ofNat 8 s.chain.addr })

/-- HEARTBEAT_RECEIVE (R347, R348, R351, R359, R364): a link that comes up by it sends a HELLO; one of PASS1 on miswired links says nothing of the
partner. DEDUCED, log entry 95. -/
def Dev.heartbeatReceiveOp (s : Dev) (own l : Nat) (serial : BitVec 64) (roles : List SlotRole) : Dev :=
  if !s.serving || !s.linkOn l || !(s.link l).everUp then s
  else
    let same := (s.link l).serial == some serial
    let s0 := s.modLink l fun x => { x with up := true, lastBeat := s.sys.time }
    let s1 := if (s.link l).up then s0 else s0.sendHello l own
    if !s1.pair.uses l then s1
    else
      let s2 := { s1 with pair := { s1.pair with evidence := none } }
      let s3 := if s2.pair.silent then s2.heard same else s2
      (s3.checkConflict roles).endDetaches fun m => !(roles.any fun r => r.mirrorId == m)

def execHeartbeatReceive (l : Fin 2) (serial : BitVec 64) (roles : List SlotRole) (s : State) : Out :=
  .next (s.onDev fun v => v.heartbeatReceiveOp s.fuses.serial l serial roles)

/-- LINK_DOWN (R347): 30 µs without a valid heartbeat. -/
def Dev.linkDownOp (s : Dev) (l : Nat) : Dev :=
  if !s.serving || !(s.link l).up || s.sys.time < (s.link l).lastBeat + 30 * usTicks then s
  else ((s.bump (PASS + 0x28) 1).count (ev 12 5) 1).linkDown l false

def execLinkDown (l : Fin 2) (s : State) : Out := .next (s.onDev fun v => v.linkDownOp l)

/-- The highest level that two bitmaps hold (R349). -/
def commonLevel (a b : Nat) : Option Nat := ((List.range 32).filter fun i => bitAt a i && bitAt b i).getLast?

/-- HELLO (R348, R349). -/
def Dev.helloOp (s : Dev) (own l : Nat) (h : HelloData) : Dev :=
  if !s.serving || !s.linkOn l then s
  else
    let was := (s.link l).up
    let known := (s.link l).serial
    let s1 := s.modLink l fun x => { x with up := true, everUp := true, serial := some h.serial, lastBeat := s.sys.time }
    let s2 := if was then s1 else s1.sendHello l own
    let hs := listSet s2.pair.hellos l (some h)
    let mis := match listGet hs 0 none, listGet hs 1 none with
      | some a, some b => a.serial != b.serial
      | _, _ => false
    let p := { s2.pair with hellos := hs, miswired := mis }
    let lv := p.hello.bind fun g => commonLevel p.mplCap g.mpl.toNat
    let s3 := { s2 with pair := { p with mpl := lv, partner := if p.silent then p.partner else 1 } }
    if s3.pair.silent && s3.pair.uses l then s3.heard (known == some h.serial) else s3

def execHello (l : Fin 2) (h : HelloData) (s : State) : Out := .next (s.onDev fun v => v.helloOp s.fuses.serial l h)

/-- REPLAY (R345): every flit from a sequence number on is sent again, where the replay buffer still holds it. DESIGN CHOICE, log entry 96. -/
def Dev.replayOp (s : Dev) (l : Nat) (seq : Nat) : Dev :=
  let k := ((s.link l).txSeq + 2 ^ 24 - seq) % 2 ^ 24
  if !s.serving || !(s.link l).up || k == 0 || (s.link l).kept < k then s
  else ((s.output (.replay l seq k)).modLink l fun x => { x with replayed := min (x.replayed + k) 0xFFFFFFFF }).count (ev 12 4) k

def execReplay (l : Fin 2) (seq : BitVec 24) (s : State) : Out := .next (s.onDev fun v => v.replayOp l seq.toNat)

/-- A lane's traffic moves to the spare, entered in soft repair (R346, R371); a second lost lane takes the link down. -/
def Dev.laneSpareOp (s : Dev) (l lane : Nat) : Dev :=
  if !s.serving || !(s.link l).up then s
  else
    match (s.link l).failLane with
    | some f => if f == lane then s else s.linkDown l true
    | none =>
      ((s.modLink l fun x => { x with failLane := some lane }).soft (repairEntry 7 0 l 0 lane)).sticky 1 (8 + l) (firstDet l lane 0 0)

def execLaneSpare (l : Fin 2) (lane : Fin 9) (s : State) : Out := .next (s.onDev fun v => v.laneSpareOp l lane)

/-! MIRROR_CTL (R350, R351) -/

/-- The stream that a MIRROR_CTL names, where its operands are in range: flags that the operation may set, and REPORT_ADDR. -/
def Dev.mirrorStream (s : Dev) (a : Acc) (flags : Nat) (report : Bool) : Option (Nat × Stream) :=
  let b := a.raw
  let ok := (u8At b 17 ||| flags) == flags && (if report then decide (u64At b 32 + 32 ≤ 2 ^ 64) else u64At b 32 == 0) && decide (u8At b 19 < 64) &&
    u64At b 24 != 0
  if !ok then none
  else match s.streamNamed (u8At b 19) (u32At b 20) with
    | some (n, x) => some (n, x)
    | none => none

def mirrorIdOf (b : Bytes) : BitVec 64 := BitVec.ofNat 64 (u64At b 24)

/-- A MIRROR_CTL that names an evicted stream ends with ABORTED_FAULT (R383). -/
def Dev.mirrorDesc (s : Dev) (d : Desc) (row : Nat) (op : Acc → Dev → Dev) : Dev :=
  s.runDesc d row fun a t =>
    match t.streamNamed (u8At a.raw 19) (u32At a.raw 20) with
    | some (_, x) => if x.failed == some stABORTED then t.complete a stABORTED 0 0 none else op a t
    | none => op a t

/-- ATTACH (R350, R352): it waits, armed, for its match. -/
def Dev.attachOp (a : Acc) (s : Dev) : Dev :=
  match s.mirrorStream a 1 false with
  | none => s.complete a stBAD 0 0 none
  | some (n, x) =>
    let w : WaitAttach := { seq := a.seq, func := x.func, stream := n, mirrorId := mirrorIdOf a.raw, active := u8At a.raw 17 == 0 }
    let s1 := { s with pair := { s.pair with waiting := s.pair.waiting ++ [w] } }
    (s1.sendRecord (.attachSent w.mirrorId w.active)).setStage a.seq .armed

def execAttach (d : Desc) (s : State) : Out := .next (s.onDev fun v => v.mirrorDesc d 0x8001 Dev.attachOp)

/-- A parameter block without addresses, RING_LOG2, HOST_SLOTS and SLOT_STRIDE (R352). -/
def mirrorParam (medium : Nat) (b : Bytes) : Bytes :=
  let z (l : Bytes) (o n : Nat) : Bytes := l.take o ++ List.replicate n 0 ++ l.drop (o + n)
  match medium with
  | 0 => z (z b 64 9) 80 22
  | 1 => z (z b 16 9) 32 8
  | _ => z (z b 29 1) 32 24

/-- The mirror booking of a stream, in 0.1 GB/s (R356), and its period in ns. -/
def Dev.mirrorBooking (s : Dev) (c : Contract) (x : Stream) : Nat × Nat :=
  let p := s.pkgOf x
  let (w, h, _) := x.geo
  let g := p.prog 0
  let raw := sumN ((List.range (u8At g 21)).map fun j => let r := recAt g (u16At g (24 + 2 * j)); 16 + 4 * (r.cIn + r.cOut))
  let adapters := if x.enc then x.adapters else hdrAdapters x.header
  let e := match x.medium with
    | 0 => p.featBytes w h + (if adapters then raw else 0) + p.stateBytes + 4096
    | 1 => p.stateBytes + 4096
    | _ => 4096
  let per := if x.medium == 1 then 20000000 else max 1 c.period
  (ceilDiv (e * 10) per, per)

/-- Bookings of the slots of a role, in 0.1 GB/s (PASS_MIRBW). -/
def Pair.booked (p : Pair) (standby : Bool) : Nat :=
  sumN ((p.slots.filter fun e => (e.2.role == .standby) == standby).map fun e => e.2.booking)

/-- ATTACH_MATCH (R352, R355 to R357): both ATTACHes are rejected, or a slot is taken and epoch 0 opens in full. -/
def Dev.attachMatchOp (s : Dev) (p : PartnerAttach) : Dev :=
  match s.pair.waiting.find? fun w => w.mirrorId == p.mirrorId && w.active != p.active with
  | none => s
  | some w =>
    match s.stream w.stream with
    | none => s
    | some x =>
      match s.seatOf x with
      | none => s
      | some (c, _) =>
        if !s.serving || !s.mirrors then s
        else
          let s0 := { s with pair := { s.pair with waiting := s.pair.waiting.filter fun v => v.seq != w.seq } }
          let k := lowestFree s0.pair.slots 1024
          let pk := s0.pkgOf x
          let same := c.job == p.job && u8At c.cpb 4 == p.cls && c.rerunA == p.rerun && mirrorParam x.medium x.param == mirrorParam x.medium p.param &&
            (if x.enc then pk.pkgDigest == p.pkgDigest else pk.modelDigest == p.modelDigest)
          let (bk, per) := s0.mirrorBooking c x
          let extra := w.active && x.medium == 0
          let run := s0.freeRun s0.poolTaken x.featGran
          let room := !extra || (decide (s0.recordsFree > 0) && run.isSome && decide (x.featGran ≤ s0.poolFree))
          if !same then s0.finish (some w.seq) stFORMAT 0 0
          else if p.refused || (!w.active && x.ran) || (s0.slotOf w.stream).isSome || s0.pair.slots.length ≥ 1024 || !room ||
              decide (s0.pair.booked (!w.active) + bk > 950) then s0.finish (some w.seq) stADMISSION 0 0
          else
            let t0 := { Slot.free with
                        role := if w.active then .active else .standby, func := x.func, stream := w.stream, mirrorId := w.mirrorId
                        booking := bk, period := per, attachSeq := some w.seq, covered := x.aus }
            let x1 := { x with mirror := .none, featSpans := if extra then x.featSpans ++ run.toList else x.featSpans }
            let s1 := s0.setStream w.stream x1
            if w.active then
              let i := s1.capture x1
              let e : Sent := { number := 0, times := 1, opened := s1.sys.time, full := true, image := i, bufs := x1.named }
              (s1.setSlot k { t0 with nextEpoch := 1, opened := 1, sent := [e] }).sendRecord (.epoch k 0 true i)
            else s1.setSlot k t0

def execAttachMatch (p : PartnerAttach) (s : State) : Out := .next (s.onDev fun v => v.attachMatchOp p)

/-- DETACH (R351, R365): it stays first in the order of R350 until the other end's slot is free too. DEDUCED, log entry 90. -/
def Dev.detachOp (a : Acc) (s : Dev) : Dev :=
  match s.mirrorStream a 0 false with
  | none => s.complete a stBAD 0 0 none
  | some (n, x) =>
    if s.pair.detaching.any fun e => e.1 == a.seq then s
    else if (s.slotOf n).isSome && !s.pair.silent then
      ({ s with pair := { s.pair with detaching := s.pair.detaching ++ [(a.seq, mirrorIdOf a.raw)] } }.endMirror n false).pump n false
    else if (s.slotOf n).isSome || s.pair.waiting.any (fun w => w.stream == n) then ((s.endMirror n false).pump n false).complete a stDONE 0 0 none
    else if x.mirror == .active then (s.setStream n { x with mirror := .none }).complete a stDONE 0 0 none
    else s.complete a stBAD 0 0 none

def execDetach (d : Desc) (s : State) : Out := .next (s.onDev fun v => v.mirrorDesc d 0x8002 Dev.detachOp)

/-- WATCH (R351, R353): armed on a standby stream's slot, one at a time. -/
def Dev.watchOp (a : Acc) (s : Dev) : Dev :=
  match (s.mirrorStream a 0 true).bind fun r => s.slotOf r.1 with
  | none => s.complete a stBAD 0 0 none
  | some (k, t) =>
    if t.role != .standby then s.complete a stBAD 0 0 none
    else if t.watchSeq.isSome then s.complete a stADMISSION 0 0 none
    else (s.setSlot k { t with watchSeq := some a.seq }).setStage a.seq .armed

def execWatch (d : Desc) (s : State) : Out := .next (s.onDev fun v => v.mirrorDesc d 0x8003 Dev.watchOp)

/-- SWITCH (R366). It stays first in the order of R350 until it completes. -/
def Dev.switchOp (a : Acc) (s : Dev) : Dev :=
  match (s.mirrorStream a 0 false).bind fun r => s.slotOf r.1 with
  | none => s.complete a stBAD 0 0 none
  | some (k, t) =>
    if t.switchSeq == some a.seq then s
    else if t.role != .active then s.complete a stBAD 0 0 none
    else if s.pair.silent then (s.setSlot k { t with role := .held, state := .degraded }).complete a stABORTED 0 0 none
    else ((s.setSlot k { t with switchSeq := some a.seq }).pump t.stream false)

def execSwitch (d : Desc) (s : State) : Out := .next (s.onDev fun v => v.mirrorDesc d 0x8004 Dev.switchOp)

/-- TAKEOVER (R351, R364, R366). -/
def Dev.takeoverOp (a : Acc) (s : Dev) : Dev :=
  match (s.mirrorStream a 2 false).bind fun r => s.slotOf r.1 with
  | none => s.complete a stBAD 0 0 none
  | some (k, t) =>
    if t.role != .standby && t.role != .held then s.complete a stBAD 0 0 none
    else if u8At a.raw 17 == 0 || (t.role == .standby && t.epochNo.isNone) then s.complete a stADMISSION 0 0 none
    else ((s.takeSlot k 2 stTAKEOVER true).refreshStreams).complete a stDONE 0 0 none

def execTakeover (d : Desc) (s : State) : Out := .next (s.onDev fun v => v.mirrorDesc d 0x8005 Dev.takeoverOp)

/-! Epochs -/

/-- The opening record of an epoch reaches the standby (R357, R358): the epoch is incoming, in place of one that was. DEDUCED, log entry 179. -/
def Dev.epochArrives (s : Dev) (k : Nat) : Dev :=
  let t := (s.slot k).dropIncoming
  if !s.mirrors || t.foreign then s else s.setSlot k { t with incoming := true, opened := t.opened + 1 }

/-- The active end's EPOCH_OPEN (R354, R355, R357): the first image whose access units are delivered goes out as the next epoch. -/
def Dev.epochLeaves (s : Dev) (k : Nat) : Dev :=
  let t := s.slot k
  match t.ready, s.stream t.stream with
  | i :: rest, some x =>
    if t.role != .active || t.state == .conflict || t.foreign || !s.mirrors || decide (i.nextUnit > x.delivered) then s
    else
      let full := t.fullNext
      let e : Sent := { number := t.nextEpoch, times := 1, opened := s.sys.time, full := full, image := i
                        bufs := if full then x.named else [x.last].filterMap fun r => r.map (·.buf) }
      ((s.setSlot k { t with ready := rest, nextEpoch := t.nextEpoch + 1, opened := t.opened + 1, sent := t.sent ++ [e], fullNext := false
                             state := if t.state == .degraded || t.state == .takenOver then .resync else t.state }).sendRecord
        (.epoch k e.number full i)).switchStep t.stream
  | _, _ => s

/-- EPOCH_OPEN (R354 to R358), at the end that the slot's role names. -/
def Dev.epochOpenOp (s : Dev) (k : Nat) : Dev := if (s.slot k).role == .standby then s.epochArrives k else s.epochLeaves k

def execEpochOpen (k : Fin 1024) (s : State) : Out := .next (s.onDev fun v => if v.serving then v.epochOpenOp k else v)

/-- The slot's state once an epoch commits, and the ATTACH that epoch 0 completes (R351, R357). -/
def Dev.committed (s : Dev) (k : Nat) (full : Bool) : Dev :=
  let t := s.slot k
  let st := if full || t.state == .attaching then SlotState.inSync else t.state
  (s.setSlot k { t with state := st, attachSeq := none }).finish t.attachSeq stDONE k 0

/-- LAST_ID of an image (R361). -/
def lastIdOf (i : EpochImage) : Nat :=
  match i.lastUnit with
  | some v => v % 2 ^ 32
  | none => 0xFFFFFFFF

/-- EPOCH_CLOSE (R357, R358): a closing record at the standby; the incoming epoch is committed or discarded, and acknowledged. -/
def Dev.epochCloseOp (s : Dev) (k number : Nat) (full : Bool) (i : EpochImage) (ok : Bool) : Dev :=
  let t := s.slot k
  if t.role != .standby || t.foreign || !s.mirrors then s
  else
    let t1 := { t with opened := t.opened + b2n (!t.incoming), incoming := false }
    if ok then
      let t2 := { t1 with acked := t.acked + 1, epochNo := some number, nextEpoch := number + 1, mark := (i.nextUnit, lastIdOf i), covered := i.nextUnit }
      ((((s.setSlot k t2).install t.stream i).committed k full).count (ev 12 6) 1).sendRecord (.epochAck k number true)
    else ((s.setSlot k { t1 with discarded := t.discarded + 1 }).count (ev 12 7) 1).sendRecord (.epochAck k number false)

def execEpochClose (k : Fin 1024) (number : BitVec 32) (full : Bool) (i : EpochImage) (ok : Bool) (s : State) : Out :=
  .next (s.onDev fun v => if v.serving then v.epochCloseOp k number.toNat full i ok else v)

/-- ABORT goes out: the slot is DEGRADED, and the next epoch is full (R357). -/
def Dev.abortSlot (s : Dev) (k : Nat) : Dev :=
  let s1 := s.dropUnacked k
  (s1.setSlot k (s1.slot k).degraded).sendRecord (.abortRec k)

/-- EPOCH_ACK (R357, R358): an acknowledgement at the active end. DEDUCED, log entry 88. -/
def Dev.epochAckOp (s : Dev) (k number : Nat) (committed : Bool) : Dev :=
  let t := s.slot k
  match t.sent.find? fun e => e.number == number with
  | none => s
  | some e =>
    if t.role != .active then s
    else if committed then
      let t1 := { t with sent := t.sent.filter fun f => f.number != number, acked := t.acked + 1, epochNo := some number
                         mark := (e.image.nextUnit, lastIdOf e.image) }
      (((s.setSlot k t1).committed k e.full).count (ev 12 6) 1).settleFeatures t.stream
    else
      if e.times ≥ 3 then s.abortSlot k
      else
        let again := t.sent.map fun f => if f.number == number then { f with times := f.times + 1 } else f
        ((s.count (ev 12 7) 1).setSlot k { t with sent := again }).sendRecord (.epoch k number e.full e.image)

def execEpochAck (k : Fin 1024) (number : BitVec 32) (committed : Bool) (s : State) : Out :=
  .next (s.onDev fun v => if v.serving then v.epochAckOp k number.toNat committed else v)

/-- ABORT (R357): an epoch is unacknowledged two periods after it opened. -/
def Dev.abortOp (s : Dev) (k : Nat) : Dev :=
  let t := s.slot k
  let due (e : Sent) : Bool := decide (((s.sys.time - e.opened : Nat) : Rat) * 5 / 6 ≥ ((2 * t.period : Nat) : Rat))
  if t.role == .active && t.sent.any due then s.abortSlot k else s

def execAbort (k : Fin 1024) (s : State) : Out := .next (s.onDev fun v => if v.serving then v.abortOp k else v)

/-! Switch, notices, relinquishing -/

/-- SWITCH_RECORD (R366): the standby has committed the last epoch and becomes active. -/
def Dev.switchRecordOp (s : Dev) (k : Nat) : Dev :=
  let t := s.slot k
  if t.role != .standby || t.epochNo.isNone then s
  else
    let s1 := s.endWatch k stDONE (some 3)
    (s1.setSlot k { s1.slot k with role := .active, state := .inSync, forced := false, covered := t.mark.1, acked := t.acked + t.discarded
                                   discarded := 0 }).sendRecord (.switchAck k)

def execSwitchRecord (k : Fin 1024) (s : State) : Out := .next (s.onDev fun v => if v.serving then v.switchRecordOp k else v)

/-- SWITCH_ACK (R366): the old active end becomes standby. -/
def Dev.switchAckOp (s : Dev) (k : Nat) : Dev :=
  let t := s.slot k
  match t.switchSeq with
  | none => s
  | some q =>
    if t.role != .active || !t.switchOut then s
    else
      let c := t.sent.length
      ((s.setSlot k { t with role := .standby, state := .inSync, forced := false, switchSeq := none, switchOut := false, ready := [], sent := []
                             acked := t.acked + c, epochNo := some (t.nextEpoch - 1) }).finish (some q) stDONE 0 0).settleFeatures t.stream

def execSwitchAck (k : Fin 1024) (s : State) : Out := .next (s.onDev fun v => if v.serving then v.switchAckOp k else v)

/-- CLOSING_NOTICE (R365). closed: the other end closed the stream, and did not only DETACH. -/
def Dev.closingNoticeOp (s : Dev) (k : Nat) (closed : Bool) : Dev :=
  let t := s.slot k
  match t.role with
  | .free => s
  | .standby =>
    (((s.endWatch k stCANCELLED (some (if closed then 5 else 4))).finish t.attachSeq stCANCELLED 0 0).freeSlot k).modStream t.stream fun x =>
      { x with mirror := .standby }
  | _ =>
    let s1 := ((s.finish t.attachSeq stCANCELLED 0 0).finish t.switchSeq stABORTED 0 0).dropUnacked k
    ((s1.freeSlot k).settleFeatures t.stream).modStream t.stream fun x => { x with mirror := .active }

def execClosingNotice (k : Fin 1024) (closed : Bool) (s : State) : Out := .next (s.onDev fun v => if v.serving then v.closingNoticeOp k closed else v)

/-- RELINQUISH (R383): the record is evidence for its slot alone. -/
def Dev.relinquishOp (s : Dev) (k : Nat) : Dev :=
  if (s.slot k).role == .standby then (s.takeSlot k 1 stTAKEOVER false).refreshStreams else s

def execRelinquish (k : Fin 1024) (s : State) : Out := .next (s.onDev fun v => if v.serving then v.relinquishOp k else v)

end Sys2Proof.Machine
end

