-- ==== Sys2Proof/Machine/Chain.lean ====
section
/-!
DEFINITION. The management chain (R337 to R344): frames and their forwarding, enumeration, status, queries, and the evidence a
STATUS gives about a silent partner (R359).
-/
namespace Sys2Proof.Machine

/-- The chain interface runs: the device is not bypassed (R342). -/
def Dev.onChain (s : Dev) : Bool := s.sys.mode = .ready || s.sys.mode = .failStop || s.sys.mode = .quiesced

/-- A frame's form and CRC (R338). -/
def frameOk (b : Bytes) : Bool :=
  decide (8 ≤ b.length) && b.length == 8 + u8At b 3 && decide (u8At b 3 ≤ 40) && crc32c (b.take (b.length - 4)) == u32At b (b.length - 4)

def frameDst (b : Bytes) : Nat := u8At b 0
def frameSrc (b : Bytes) : Nat := u8At b 1
def frameType (b : Bytes) : Nat := u8At b 2
def framePayload (b : Bytes) : Bytes := (b.drop 4).take (u8At b 3)

/-- Forward bytes (R339). -/
def Dev.forward (s : Dev) (b : Bytes) : Dev := (s.output (.chainFrame b)).count (ev 12 8) 1

/-- A well-formed frame of a type with a payload of its length (R338). -/
def carries (b : Bytes) (typ len : Nat) : Bool := frameOk b && frameType b == typ && u8At b 3 == len

/-- What a frame of a type and payload length does that reaches the device; a bypassed one passes it on as it is (R342). -/
def Dev.onFrame (s : Dev) (b : Bytes) (typ len : Nat) (f : Dev → Dev) : Dev :=
  if !carries b typ len then s else if s.onChain then f s else s.output (.chainFrame b)

def Dev.setChain (s : Dev) (f : Chain → Chain) : Dev := { s with chain := f s.chain }

/-! Enumeration (R340, R341) -/

/-- Address a in a bitmap, and a bitmap with it. -/
def mapHas (m : Bytes) (a : Nat) : Bool := bitAt (u8At m (a / 8)) (a % 8)
def mapAdd (m : Bytes) (a : Nat) : Bytes := listMod m (a / 8) fun b => b ||| BitVec.ofNat 8 (2 ^ (a % 8))
def mapCount (m : Bytes) : Nat := ((List.range 256).filter (mapHas m)).length
def lowestClear (m : Bytes) : Option Nat := (rangeFrom 1 254).find? fun a => !mapHas m a

/-- The head begins an enumeration (R340). -/
def Dev.enumerate (s : Dev) (serial : Nat) : Dev :=
  (s.sendFrame 0 0x01 (List.replicate 32 0 ++ leBytes 8 serial)).setChain fun c => { c with surveyOut := true }

/-- A device takes the lowest address that a bitmap leaves free, or finds the chain full; the bitmap with its own address (R340). -/
def Dev.takeAddr (s : Dev) (m : Bytes) : Dev × Bytes :=
  if s.chain.addr != 0 then (s, mapAdd m s.chain.addr)
  else
    match lowestClear m with
    | none => (s.setChain fun c => { c with full := true }, m)
    | some a => (s.setChain fun c => { c with addr := a, full := false }, mapAdd m a)

/-- Write MCH_CTL.HEAD (R340). -/
def Dev.setHead (s : Dev) (serial : Nat) (on : Bool) : Dev :=
  if !s.writable 10 then s
  else
    let s1 := (s.setRegN MCH (b2n on)).setChain fun c => { c with head := on }
    if on then s1.enumerate serial else s1

def execHead (s : State) : Out := .next (s.disarm.onDev fun d => d.setHead s.fuses.serial true)

/-- MCH_CMD.ENUM (R340), head only. -/
def Dev.enumOp (s : Dev) (serial : Nat) : Dev := if s.writable 10 && s.chain.head then s.enumerate serial else s

def execEnum (s : State) : Out := .next (s.disarm.onDev fun d => d.enumOp s.fuses.serial)

/-- MCH_CMD.RELEASE (R340). -/
def Dev.releaseAddr (s : Dev) : Dev := if s.writable 10 then s.setChain fun c => { c with addr := 0 } else s

def execMchRelease (s : State) : Out := .next (s.disarm.onDev Dev.releaseAddr)

/-- A head yields to a lower serial (R341). -/
def Dev.yieldHead (s : Dev) : Dev := (s.setRegN MCH 0).setChain fun c => { c with head := false, conflict := true, surveyOut := false }

/-- What a head does with a SURVEY or ASSIGN (R341): none where it does not remove the frame. -/
def Dev.headCase (s : Dev) (serial : Nat) (b : Bytes) (own : Dev → Dev) : Option Dev :=
  let other := u64At b 36
  if !s.chain.head then none
  else if other == serial then some (own s)
  else if other < serial then none
  else some s

/-- A frame with another payload, as it is forwarded (R338). -/
def reframe (b payload : Bytes) : Bytes :=
  let h := b.take 4 ++ payload
  h ++ leBytes 4 (crc32c h)

/-- SURVEY (R339 to R341): back at the head it becomes an ASSIGN, and shows a head without an address which is free; elsewhere each addressed device
sets its bit. DEDUCED, log entry 97. -/
def Dev.surveyOp (s0 : Dev) (serial : Nat) (b : Bytes) : Dev :=
  let m := slice b 4 32
  s0.onFrame b 0x01 40 fun s =>
    match s.headCase serial b fun t =>
        let (t1, m1) := t.takeAddr m
        (t1.sendFrame 0 0x02 (m1 ++ leBytes 8 serial)).setChain fun c => { c with surveyOut := false } with
    | some t => t
    | none =>
      let t := if s.chain.head then s.yieldHead else s
      let m1 := if t.chain.addr == 0 then m else mapAdd m t.chain.addr
      t.forward (reframe b (m1 ++ slice b 36 8))

def execSurvey (fr : Frame) (s : State) : Out := .next (s.onDev fun d => d.surveyOp s.fuses.serial fr.bytes)

/-- ASSIGN (R339 to R341): back at the head it gives COUNT; a ready device without an address takes the lowest clear one. -/
def Dev.assignOp (s0 : Dev) (serial : Nat) (b : Bytes) : Dev :=
  let m := slice b 4 32
  s0.onFrame b 0x02 40 fun s =>
    match s.headCase serial b fun t => t.setChain fun c => { c with count := mapCount m } with
    | some t => t
    | none =>
      let t := if s.chain.head then s.yieldHead else s
      if t.chain.addr != 0 || !t.serving then t.forward b
      else let (t1, m1) := t.takeAddr m; t1.forward (reframe b (m1 ++ slice b 36 8))

def execAssign (fr : Frame) (s : State) : Out := .next (s.onDev fun d => d.assignOp s.fuses.serial fr.bytes)

/-- JOIN (R339, R340): the head enumerates; the sender removes its own. -/
def Dev.joinOp (s0 : Dev) (serial : Nat) (b : Bytes) : Dev :=
  s0.onFrame b 0x03 8 fun s =>
    if s.chain.head then s.enumerate serial
    else if u64At b 4 == serial then s
    else s.forward b

def execJoin (fr : Frame) (s : State) : Out := .next (s.onDev fun d => d.joinOp s.fuses.serial fr.bytes)

/-! Status (R343, R344) -/

/-- PASS_STAT [2:0] (R368). -/
def Dev.passBits (s : Dev) : Nat := b2n (s.link 0).up + 2 * b2n (s.link 1).up + 4 * b2n s.pair.hello.isSome

/-- The STATUS payload (R343). -/
def Dev.statusPayload (s : Dev) (serial : Nat) : Bytes :=
  leBytes 1 s.chainState ++ leBytes 1 s.passBits ++ leBytes 1 0xB1 ++ leBytes 1 s.pair.addr ++ leBytes 4 (s.regN (GLB + 0x10)) ++ leBytes 8 serial

/-- What a STATUS tells this device (R344, R359): the answer to its queries, and evidence about its partner. -/
def Dev.learn (s : Dev) (b : Bytes) : Dev :=
  let p := framePayload b
  let src := frameSrc b
  let st := u8At p 0
  let s1 := match s.chain.hostQuery with
    | some (a, _) => if a == src then s.setChain fun c => { c with hostQuery := none, qres := 1, qstate := st % 16, qfw := u32At p 4 } else s
    | none => s
  let partner := match s1.pair.hello with
    | some h => h.serial.toNat == u64At p 8
    | none => false
  if !partner then s1
  else
    let asked := s1.chain.ownQuery.isSome
    let s2 := { s1 with pair := { s1.pair with evidence := some st }, chain := { s1.chain with ownQuery := none } }
    if !s2.pair.silent || s2.sys.mode != .ready then s2
    else if st == 1 || st == 4 || st == 5 then s2.takeDecision 3
    else if asked && (st == 2 || st == 3) then s2.takeDecision 2
    else s2

/-- STATUS (R339, R343, R344). DEDUCED, log entry 98. -/
def Dev.statusOp (s0 : Dev) (serial : Nat) (b : Bytes) : Dev :=
  s0.onFrame b 0x10 16 fun s =>
    let dst := frameDst b
    if 1 ≤ dst && dst ≤ 254 then (if dst == s.chain.addr then s.learn b else s.forward b)
    else if frameSrc b == s.chain.addr && u64At (framePayload b) 8 == serial then s.setChain fun c => { c with ringOk := true }
    else (if dst == 255 then s.learn b else s).forward b

def execStatus (fr : Frame) (s : State) : Out := .next (s.onDev fun d => d.statusOp s.fuses.serial fr.bytes)

/-- STATUS_REQ (R339, R344): answered by its DST; back at its sender it proves the address absent. -/
def Dev.statusReqOp (s0 : Dev) (serial : Nat) (b : Bytes) : Dev :=
  let dst := frameDst b
  s0.onFrame b 0x11 0 fun s =>
    if dst != 0 && dst == s.chain.addr then s.sendFrame (frameSrc b) 0x10 (s.statusPayload serial)
    else if s.chain.addr != 0 && frameSrc b == s.chain.addr then
      let s1 := match s.chain.hostQuery with
        | some (a, _) => if a == dst then s.setChain fun c => { c with hostQuery := none, qres := 2 } else s
        | none => s
      match s1.chain.ownQuery with
      | some (a, _) =>
        if a == dst then
          let s2 := s1.setChain fun c => { c with ownQuery := none }
          if s2.pair.silent && s2.sys.mode = .ready then s2.takeDecision 3 else s2
        else s1
      | none => s1
    else s.forward b

def execStatusReq (fr : Frame) (s : State) : Out := .next (s.onDev fun d => d.statusReqOp s.fuses.serial fr.bytes)

/-- STATUS_BROADCAST (R343). -/
def Dev.statusBroadcastOp (s : Dev) (serial : Nat) : Dev :=
  if !s.onChain || s.chain.addr == 0 then s
  else (s.sendFrame 255 0x10 (s.statusPayload serial)).setChain fun c => { c with statusDue := false, ringOk := false }

def execStatusBroadcast (s : State) : Out := .next (s.onDev fun d => d.statusBroadcastOp s.fuses.serial)

/-- MCH_CMD.QUERY (R344): ignored while one runs; unknown at once without an address. DEDUCED, log entry 99. -/
def Dev.queryOp (s : Dev) : Dev :=
  if !s.writable 10 || s.chain.hostQuery.isSome then s
  else if s.chain.addr == 0 then s.setChain fun c => { c with qres := 3 }
  else
    let a := s.regN (MCH + 0x0C)
    (s.sendFrame a 0x11 []).setChain fun c => { c with hostQuery := some (a, s.sys.time), qres := 0 }

def execQuery (s : State) : Out := .next (s.disarm.onDev Dev.queryOp)

/-- QUERY_TIMEOUT (R344): 3 ms with neither an answer nor the request's return. -/
def Dev.queryTimeoutOp (s : Dev) : Dev :=
  let due (q : Option (Nat × Nat)) : Bool := match q with
    | some (_, t) => decide (s.sys.time ≥ t + 3000 * usTicks)
    | none => false
  if !s.onChain then s
  else
    let s1 := if due s.chain.hostQuery then s.setChain fun c => { c with hostQuery := none, qres := 3 } else s
    if due s.chain.ownQuery then
      let s2 := s1.setChain fun c => { c with ownQuery := none }
      if s2.pair.silent && s2.sys.mode = .ready then s2.takeDecision 4 else s2
    else s1

def execQueryTimeout (s : State) : Out := .next (s.onDev Dev.queryTimeoutOp)

/-- CHAIN_FRAME_DROP (R338, R339, R342): a failing CRC is counted; a reserved type is only dropped; a bypassed device passes both on. -/
def Dev.frameDropOp (s : Dev) (b : Bytes) : Dev :=
  if !s.onChain then s.output (.chainFrame b)
  else if frameOk b then s
  else (s.setChain fun c => { c with crcDrops := min (c.crcDrops + 1) 0xFFFFFFFF }).count (ev 12 9) 1

def execChainFrameDrop (fr : Frame) (s : State) : Out := .next (s.onDev fun d => d.frameDropOp fr.bytes)

end Sys2Proof.Machine
end

