-- ==== Sys2Proof/Machine/Models.lean ====
section
/-!
DEFINITION. Model packages (R132 to R134, R145, R146, R149 to R154): MODEL_LOAD and MODEL_UNLOAD.
-/
namespace Sys2Proof.Machine

/-- A step of MODEL_LOAD that fails: status and result field (R150). -/
structure LoadFail where
  status : Nat
  result : Nat
deriving DecidableEq, Repr

def loadFail (reason : Nat) : LoadFail := { status := if reason == 9 then stADMISSION else stFORMAT, result := failCode reason 0xFFFF }

/-- Directory entry i (R133). -/
def dirEntry (file : Bytes) (i : Nat) : Bytes := slice file (64 + 64 * i) 64

/-- Step 2: the header (R132). DEDUCED, log entry 44. -/
def headerOk (file : Bytes) : Bool :=
  let n := u16At file 6
  let total := u64At file 8
  let so := u64At file 16
  let sl := u32At file 24
  decide (64 ≤ file.length) && file.take 4 == [0x48, 0x52, 0x50, 0x4B] && u16At file 4 == 1 && decide (1 ≤ n) && decide (n ≤ 32) &&
    total == file.length && decide (64 + 64 * n ≤ total) && allZero (slice file 28 36) &&
    ((so == 0 && sl == 0) || (sl == 104 && decide (64 + 64 * n ≤ so) && decide (so + 104 ≤ total)))

/-- Two byte ranges do not meet. -/
def disjointRuns (a b : Nat × Nat) : Bool := a.2 == 0 || b.2 == 0 || decide (a.1 + a.2 ≤ b.1) || decide (b.1 + b.2 ≤ a.1)

/-- Step 2: the directory (R133, R134). An unknown TYPE, a reserved bit or byte, and a LENGTH other than STORED_LENGTH without DEFLATE have reason
0x0002. DESIGN CHOICE, log entry 164. -/
def directoryOk (file : Bytes) : Bool :=
  let n := u16At file 6
  let es := (List.range n).map (dirEntry file)
  let types := es.map fun e => u16At e 0
  let runs := (0, 64 + 64 * n) :: (u64At file 16, u32At file 24) :: es.map fun e => (u64At e 8, u64At e 16)
  es.all (fun e =>
    decide (1 ≤ u16At e 0) && decide (u16At e 0 ≤ 12) && decide (u16At e 2 ≤ 1) && zeroAt e 4 4 && u64At e 8 % 64 == 0 &&
      decide (u64At e 8 + u64At e 16 ≤ file.length) && (u16At e 2 == 1 || u64At e 16 == u64At e 24)) &&
    types.all (fun t => (types.filter fun x => x == t).length == 1) && [1, 2, 4, 6, 11].all types.contains &&
    (!types.contains 3 || (types.contains 5 && types.contains 7)) &&
    (List.range runs.length).all fun i => (List.range i).all fun j => disjointRuns (listGet runs i (0, 0)) (listGet runs j (0, 0))

/-- The signed message (R146): the header and the directory. -/
def signedPart (file : Bytes) : Bytes := file.take (64 + 64 * u16At file 6)

/-- The keys and REQUIRE_SIG that apply to a load accepted with number q (R146). -/
def Dev.keysFor (s : Dev) (q : Nat) : List KeySlot × Bool :=
  match s.media.keyHist.find? fun e => decide (q < e.1) with
  | some (_, ks, req) => (ks, req)
  | none => (s.media.keys, bitAt (s.regN (ADM + 0x800)) 0)

/-- Step 3: the signature (R146): the reason where it fails. -/
def signatureFail (file : Bytes) (keys : List KeySlot) (require : Bool) : Option Nat :=
  let so := u64At file 16
  if u32At file 24 == 0 then (if require then some 5 else none)
  else
    let b := slice file so 104
    match (keys.filter fun k => k.valid && keyId k.data == b.take 8) with
    | [] => some 5
    | ks =>
      if ks.any fun k =>
          ecdsaOk (leNat (slice k.data 0 48)) (leNat (slice k.data 48 48)) (leNat (slice b 8 48)) (leNat (slice b 56 48)) (signedPart file)
      then none else some 6

/-- A section of a directory entry as a lossless engine gives it, or as it is stored (R133, R150); none for reason 0x0003. -/
def expandOne (file e : Bytes) : Option Bytes :=
  let stored := slice file (u64At e 8) (u64At e 16)
  if u16At e 2 == 1 then (match inflateRaw stored (u64At e 24) with | .ok b => if b.length == u64At e 24 then some b else none | .error _ => none)
  else some stored

/-- Steps 4 and 5 for the directory entries: the sections by type. -/
def expandAll (file : Bytes) : List Bytes → Except Nat (SMap Bytes)
  | [] => .ok []
  | e :: es =>
    match expandOne file e with
    | none => .error 3
    | some b => (expandAll file es).map fun m => m.put (u16At e 0) b

/-- Bytes that step 4 takes into a lossless engine and out of it (R418), up to the section that fails. -/
def engineBytes (file : Bytes) : List Bytes → Nat × Nat
  | [] => (0, 0)
  | e :: es =>
    let n := if u16At e 2 == 1 then u64At e 16 else 0
    match expandOne file e with
    | none => (n, 0)
    | some b => let (i, o) := engineBytes file es; (n + i, (if u16At e 2 == 1 then b.length else 0) + o)

/-- Step 5: every section's digest (R133). -/
def digestsOk (file : Bytes) (secs : SMap Bytes) : Bool :=
  (List.range (u16At file 6)).all fun i =>
    let e := dirEntry file i
    sha256 (secs.get (u16At e 0) []) == slice e 32 32

/-- Bytes that a package takes in the model store: each section in whole 4 KiB (R149, R151). -/
def Pkg.storeBytes (p : Pkg) : Nat := sumN (p.sections.map fun e => alignUp e.2.length 4096)

/-- The package of a file whose sections are expanded (R145). -/
def pkgOf (file : Bytes) (secs : SMap Bytes) : Pkg :=
  let digests := (List.range (u16At file 6)).foldl (fun m i => let e := dirEntry file i; SMap.put m (u16At e 0) (slice e 32 32)) []
  { pkgDigest := sha256 (signedPart file), modelDigest := modelDigestOf digests sha256, sections := secs, digests := digests }

/-- Steps 2 to 6 of R150. -/
def loadFile (file : Bytes) (keys : List KeySlot) (require : Bool) : Except LoadFail Pkg :=
  if !headerOk file then .error (loadFail 1)
  else if !directoryOk file then .error (loadFail 2)
  else
    match signatureFail file keys require with
    | some r => .error (loadFail r)
    | none =>
      match expandAll file ((List.range (u16At file 6)).map (dirEntry file)) with
      | .error r => .error (loadFail r)
      | .ok secs =>
        if !digestsOk file secs then .error (loadFail 4)
        else
          let p := pkgOf file secs
          match p.check with
          | some c => .error { status := stFORMAT, result := c }
          | none => .ok p

/-- Step 7 (R151): the handle, and the state with the package resident; none where a limit is reached. -/
def Dev.assignHandle (s : Dev) (f : Nat) (p : Pkg) : Option (Nat × Dev) :=
  let x := s.fn f
  let resident := s.media.pkgs.find? fun e => e.2.pkgDigest == p.pkgDigest
  let mine := resident.bind fun e => x.handles.find? fun h => h.2.pkg == e.1
  let fresh (n : Nat) : Handle := { pkg := n, count := 1, since := s.host.nextSeq }
  match mine with
  | some (h, v) => some (h, s.setFn f { x with handles := x.handles.put h { v with count := v.count + 1 } })
  | none =>
    let h := lowestFree x.handles 0x10000
    if x.handles.length ≥ 16 then none
    else
      match resident with
      | some (n, _) => some (h, s.setFn f { x with handles := x.handles.put h (fresh n) })
      | none =>
        let total := sumN (s.media.pkgs.map fun e => e.2.storeBytes) + p.storeBytes
        if s.media.pkgs.length ≥ 64 || total > 2 ^ 32 then none
        else
          let n := lowestFree s.media.pkgs 65
          let t : Dev := { s with media := { s.media with pkgs := s.media.pkgs.put n p } }
          some (h, t.setFn f { x with handles := x.handles.put h (fresh n) })

/-- Steps 1 to 3 of R150 succeed and step 4 has a section to decompress. -/
def needsEngine (file : Bytes) (keys : List KeySlot) (require : Bool) : Bool :=
  headerOk file && directoryOk file && (signatureFail file keys require).isNone &&
    (List.range (u16At file 6)).any fun i => u16At (dirEntry file i) 2 == 1

/-- A lossless engine is free to a load's step 4, behind the host jobs that wait from before it (R150, R277). -/
def Dev.engineFor (s : Dev) (a : Acc) : Bool := decide (s.llAhead a < s.llFree) && (s.findLle fun l => l.job.isNone && !l.segment).isSome

/-- MODEL_LOAD (R150, R151). It waits while step 4 has no engine. DESIGN CHOICE, log entry 50. -/
def Dev.modelLoadOp (a : Acc) (s : Dev) : Dev :=
  let space := bitAt (spacesOf a.raw) 0
  let addr := u64At a.raw 16
  let len := u64At a.raw 24
  if len < 64 || len > 2 ^ 32 || !s.addrOk a.func space addr len then s.complete a stBAD 0 0 none
  else
    match s.readSpace space addr len with
    | none => (s.dataFault a.func a.ring).complete a stABORTED (failCode 10 0xFFFF) 0 none
    | some file =>
      let (ks, req) := s.keysFor a.seq
      let step4 := needsEngine file ks req
      if step4 && !s.engineFor a then s
      else
        let s1 := if space then s else s.count (ev 11 0) len
        let (i, o) := if step4 then engineBytes file ((List.range (u16At file 6)).map (dirEntry file)) else (0, 0)
        let s2 := (s1.count (ev 13 0) i).count (ev 13 1) o
        match loadFile file ks req with
        | .error e => s2.complete a e.status e.result 0 none
        | .ok p =>
          match s2.assignHandle a.func p with
          | none => s2.complete a stADMISSION (failCode 9 0xFFFF) 0 none
          | some (h, t) => t.complete a stDONE h 0 none

def execModelLoad (d : Desc) (s : State) : Out := .next (s.onDev fun v => v.runDesc d 0x10 Dev.modelLoadOp)

/-- Free the packages that no function holds and no contract or stream uses (R151, R152). -/
def Dev.dropPackages (s : Dev) : Dev :=
  let used (n : Nat) : Bool := (s.host.fns.any fun e => e.2.handles.any fun h => h.2.pkg == n) ||
    s.media.contracts.any (fun c => c.2.pkg == n) || s.media.streams.any fun x => x.2.bound && x.2.pkg == n
  { s with media := { s.media with pkgs := s.media.pkgs.filter fun e => used e.1 } }

/-- MODEL_UNLOAD (R152). -/
def Dev.modelUnloadOp (a : Acc) (s : Dev) : Dev :=
  let x := s.fn a.func
  let n := handleOf a.raw
  match x.handleAt a.seq n with
  | none => s.complete a stMISSING 0 0 none
  | some h =>
    if (s.media.contracts.any fun c => c.2.func == a.func && c.2.pkg == h.pkg) ||
        s.media.streams.any fun t => t.2.func == a.func && t.2.bound && t.2.pkg == h.pkg then
      s.complete a stADMISSION 0 0 none
    else if h.count > 1 then (s.setFn a.func { x with handles := x.handles.put n { h with count := h.count - 1 } }).complete a stDONE 0 0 none
    else ((s.setFn a.func { x with handles := x.handles.del n }).dropPackages).complete a stDONE 0 0 none

def execModelUnload (d : Desc) (s : State) : Out := .next (s.onDev fun v => v.runDesc d 0x11 Dev.modelUnloadOp)

end Sys2Proof.Machine
end

