-- ==== Sys2Proof/Machine/Spine.lean ====
section
/-!
DEFINITION. The spine (R15, R16): its stops, the way a transfer takes and the order at a stop; and the credits of the links of the spine, of the
meshes and of PCIe, as the conservation ledger counts them (R324 to R326, R389). Transfers end within their commands, so the flits that an audit
finds on a link are free (log entry 112); the order of flits cycle by cycle is timing (log entry 156).
-/
namespace Sys2Proof.Machine

/-! Stops and ways -/

/-- The units on the spine (R15). -/
inductive SpineUnit where
  | hostInterface
  | serviceProcessors
  | hbm (n : Fin 2)
  | plain (p : Fin 8)
  | coderGroup (n : Fin 4)
  | lossless (n : Fin 4)
  | region (n : Fin 2)
  | pass (n : Fin 2)
  | spareRim
deriving DecidableEq, Repr

/-- The stop of a unit (R15). -/
def SpineUnit.stop : SpineUnit → Nat
  | .hostInterface => 0
  | .serviceProcessors => 1
  | .hbm 0 => 2
  | .hbm _ => 11
  | .plain p => [3, 4, 6, 7, 12, 13, 15, 16].getD p.val 0
  | .coderGroup n => [5, 8, 14, 17].getD n.val 0
  | .lossless _ => 9
  | .region _ => 18
  | .pass 0 => 10
  | .pass _ => 19
  | .spareRim => 20

/-- The coder group of a physical entropy engine: four of each, the spares in groups 1 and 3 (R15). DEDUCED, log entry 156. -/
def coderGroupOf (e : Fin 18) : Fin 4 := if e.val < 16 then ⟨e.val / 4 % 4, by omega⟩ else if e.val = 16 then 1 else 3

/-- The next stop on a ring: 0 is the clockwise one, in increasing stop number (R15). -/
def spineNext (ring stop : Nat) : Nat := if ring == 0 then (stop + 1) % 21 else (stop + 20) % 21

/-- Hops from stop a to stop b on a ring. -/
def spineHops (ring a b : Nat) : Nat := if ring == 0 then (b + 21 - a) % 21 else (a + 21 - b) % 21

/-- The ring of a transfer from stop a to stop b: the one with fewer hops (R16). -/
def spineRing (a b : Nat) : Nat := if spineHops 0 a b < spineHops 1 a b then 0 else 1

/-- The link entering a stop on a ring, as the SPINE ledger numbers it (R325). -/
def spineLink (ring stop : Nat) : Nat := 2 * stop + ring

/-- The links that a transfer of n hops on a ring enters from stop a on. -/
def spineLinks (ring : Nat) : Nat → Nat → List Nat
  | 0, _ => []
  | n + 1, a => spineLink ring (spineNext ring a) :: spineLinks ring n (spineNext ring a)

/-- The links of the way between two units (R16). -/
def spineWay (a b : SpineUnit) : List Nat :=
  let ring := spineRing a.stop b.stop
  spineLinks ring (spineHops ring a.stop b.stop) a.stop

/-- A flit that waits at a stop: its source unit there, and whether its traffic is contracted. -/
structure SpineFlit where
  source     : Nat
  contracted : Bool
deriving DecidableEq, Repr

/-- The next to inject among the flits of one traffic kind: round-robin by source unit, after the one served last (R16). -/
def roundRobin (last : Nat) (l : List SpineFlit) : Option SpineFlit :=
  let least (q : List SpineFlit) : Option SpineFlit :=
    q.find? fun f => q.all fun g => decide (f.source ≤ g.source)
  match least (l.filter fun f => decide (last < f.source)) with
  | some f => some f
  | none => least l

/-- What takes the next place on a ring at a stop: a flit already on the ring, then contracted injections, then best-effort ones (R16). -/
def spinePick (onRing : Option SpineFlit) (waiting : List SpineFlit) (last : Nat) : Option SpineFlit :=
  match onRing with
  | some f => some f
  | none =>
    match roundRobin last (waiting.filter (·.contracted)) with
    | some f => some f
    | none => roundRobin last waiting

/-! Credits (R324 to R326) -/

/-- A mesh link within its plain (R325): between (row, col) and the position to the right or below, or the plain controller's. -/
def meshRight (row col : Nat) : Nat := 16 * row + col
def meshBelow (row col : Nat) : Nat := 256 + 17 * row + col
def meshController : Nat := 511

/-- A mesh link's instance (R325): direction 0 runs towards the higher column or row or into the mesh. -/
def meshInstance (plain link dir : Nat) : Nat := 1024 * plain + 2 * link + dir

/-- The credits of one link (R325): the sender's unused ones, those that the injection unit withholds (R326), occupied receive entries, flits on
the link and credit returns on the link. -/
structure LinkCredits where
  unused   : Nat
  withheld : Nat
  occupied : Nat
  flits    : Nat
  returns  : Nat
deriving DecidableEq, Repr

/-- Held and in flight (R325, R326). -/
def LinkCredits.held (c : LinkCredits) : Nat := c.unused + c.withheld + c.occupied
def LinkCredits.inFlight (c : LinkCredits) : Nat := c.flits + c.returns

/-- The host link is in FLIT mode (R281): always at 64 GT/s, below that where the partner has it. -/
def Dev.flitMode (s : Dev) : Bool := s.host.gts == 64 || (s.host.gts ≥ 16 && Config.partnerFlit)

/-- Credits granted to an instance of ledger 0, 1 or 2 (R325): 32 entries of a spine link, the number of the example (log entry 112); the other depths
are free. Of PCIe none while the link is down, the shared ones in FLIT mode only. -/
def Dev.creditsGranted (s : Dev) (ledger i : Nat) : Nat :=
  match ledger with
  | 0 => 32
  | 1 => Config.creditsGranted (8192 + i)
  | _ => if s.host.gts == 0 || (i ≥ 6 && !s.flitMode) then 0 else Config.creditsGranted (2 * 8192 + i)

/-- Credits of an instance that the injection registers withhold (R389): at most those granted less one. -/
def Dev.withheld (s : Dev) (ledger i : Nat) : Nat :=
  let sel := s.regN (INJ + 0x20)
  if s.sys.inj.unlocked && bits sel 0 4 == ledger && bits sel 4 13 == i then min (bits (s.regN (INJ + 0x24)) 0 8) (s.creditsGranted ledger i - 1)
  else 0

/-- The credits of an instance at the audit of free value v: what is on the link is free, and the rest stands at its ends. -/
def Dev.linkCredits (s : Dev) (v ledger i : Nat) : LinkCredits :=
  let w := s.withheld ledger i
  let room := s.creditsGranted ledger i - w
  let k := ledger * 8192 + i
  let flits := min (Config.creditsInFlight v (4 * k)) room
  let returns := min (Config.creditsInFlight v (4 * k + 1)) (room - flits)
  let occupied := min (Config.creditsInFlight v (4 * k + 2)) (room - flits - returns)
  { unused := room - flits - returns - occupied, withheld := w, occupied := occupied, flits := flits, returns := returns }

/-- Granted, held and in flight of an instance of ledger 0, 1 or 2 at the audit of free value v. -/
def Dev.ledgerCredits (s : Dev) (v ledger i : Nat) : Nat × Nat × Nat :=
  let c := s.linkCredits v ledger i
  (s.creditsGranted ledger i, c.held, c.inFlight)

/-- Instances of ledgers 0, 1 and 2 (R325): 42 links of the spine, 1,024 of each mesh, 12 kinds of PCIe credit. -/
def creditInstances (ledger : Nat) : Nat :=
  match ledger with
  | 0 => 42
  | 1 => 8192
  | _ => 12

/-- The counts of SPINE, MESH and PCIE, by ledger × 8,192 + instance, ascending. -/
def Dev.creditLedgers (s : Dev) (v : Nat) : SMap (Nat × Nat × Nat) :=
  [0, 1, 2].flatMap fun l => (List.range (creditInstances l)).map fun i => (l * 8192 + i, s.ledgerCredits v l i)

end Sys2Proof.Machine
end

