-- ==== Sys2Proof/Machine/Faults.lean ====
section
/-!
DEFINITION. Faults of units (R92, R155, R274, R374 to R383, R405, R406), quiesce (R404), in-service tests (R384 to R386), Function
Level Reset (R307), the ledger audit (R325 to R330), and the clearing of the sticky record and of suspension causes (R280, R370).
-/
namespace Sys2Proof.Machine

/-! Redo (R274, R376) -/

/-- A unit whose slice was aborted: it waits for its seat's next departure and begins again from its table load. DEDUCED, log entry 100. -/
def MUnit.redo (u : MUnit) : MUnit :=
  { u with stage := .released, passes := 0, segs := 0, engine := none, dec := none, entries := [], esc := 0, corrupt := false, usedX := 0
           usedB := 0, wide := false, sat := false, stats := [], maps := [], wrote := [], redone := true }

/-- The reserve interval that a stream's seat is in (R274): the picture, or 16 units. -/
def Stream.interval (x : Stream) (u : MUnit) : Nat := if x.medium == 0 then u.subject else u.number / 16

/-- Count a redo of stream n's seat for a unit (R274): beyond the reserve the seat is no longer covered. -/
def Dev.countRedo (s : Dev) (n : Nat) (x : Stream) (u : MUnit) : Dev :=
  let mark := x.interval u
  let again := match s.seatOf x with
    | some (_, t) => decide (t.redos > 0) && t.redoMark == mark
    | none => false
  let s1 := (s.modSeat x.contract x.seat fun t =>
    { t with redos := if again then t.redos + 1 else 1, redoMark := mark, uncovered := t.uncovered || again }).count (ev 14 6) 1
  if again then (s1.uncover fun k _ => k == n).refreshStreams else s1

/-- Row y of a map as another has it. -/
def FMap.restoreRow (m o : FMap) (y : Nat) : FMap :=
  let mix {α : Type} (a b : SMap α) : SMap α :=
    (b.filter fun e => e.1 / 65536 == y).foldl (fun c e => c.put e.1 e.2) (a.filter fun e => e.1 / 65536 != y)
  { m with cells := mix m.cells o.cells, wides := mix m.wides o.wides }

/-- The rows that an aborted unit wrote, as its checkpoint has them (R375, R376). -/
def MUnit.restore (u : MUnit) (maps : SMap FMap) : SMap FMap :=
  u.wrote.foldl (fun (m : SMap FMap) k => match m.find k.1 with
    | some a => m.put k.1 (a.restoreRow (u.ckpt.get k.1 (FMap.zero 0 0 0)) k.2)
    | none => m) maps

/-- The slices of stream n in flight, and those of more units, are aborted and redone (R155, R274, R376), each tile's state restored from the fault
checkpoint. -/
def Dev.redoUnits (s : Dev) (n : Nat) (more : MUnit → Bool) : Dev :=
  match s.stream n with
  | none => s
  | some x =>
    let lost (v : MUnit) : Bool := v.stage == .flying || more v
    match x.units.filter lost with
    | [] => s
    | u :: us =>
      let s1 := (u :: us).foldl (fun (t : Dev) v => t.releaseEngine n v.number) s
      let back (maps : SMap FMap) : SMap FMap := (u :: us).foldr MUnit.restore maps
      let s2 := s1.modStream n fun y =>
        { y with
          units := y.units.map fun v => if lost v then v.redo else v
          scratch := back y.scratch
          pic := y.pic.map fun p => { p with maps := back p.maps } }
      s2.countRedo n x u

/-- The slices of stream n in flight are aborted and redone. -/
def Dev.redoStream (s : Dev) (n : Nat) : Dev := s.redoUnits n fun _ => false

/-- Redo the slices in flight on seat k of contract cn. -/
def Dev.redoSeat (s : Dev) (cn k : Nat) : Dev :=
  match ((s.media.contracts.find cn).bind fun c => c.seats[k]?).bind fun t => t.stream with
  | some n => s.redoStream n
  | none => s

/-! Relocation (R383) -/

/-- Place one virtual plain of n tiles in a plain other than the one given (R261, R383). -/
def Dev.placeAvoid (s : Dev) (avoid : Nat) (held : List Nat) (n : Nat) : Option (Nat × List Nat) :=
  ((List.range 8).find? fun p =>
    let free := s.freeTiles held p
    p != avoid && !(s.plain p).failed && decide (n ≤ free.length) && (n == 0 || decide (256 - free.length + n ≤ 243))).map
    fun p => (p, (s.freeTiles held p).take n)

/-- The tiles and plains of a seat with the virtual plains that stand in plain bad placed elsewhere. DEDUCED, log entry 103. -/
def Dev.placeAnew (s : Dev) (bad : Nat) (held : List Nat) : List Nat → List Nat → List Nat → Option (List Nat × List Nat)
  | n :: ns, p :: ps, tiles =>
    let here := if p == bad then s.placeAvoid bad held n else some (p, tiles.take n)
    match here with
    | none => none
    | some (q, ts) => (Dev.placeAnew s bad (held ++ ts) ns ps (tiles.drop n)).map fun r => (ts ++ r.1, q :: r.2)
  | _, _, _ => some ([], [])

/-- The instance that takes a seat's booking on a resource: its own while it works, the new plain's rim or warp, or another of the
kind at the same slots (R269, R382, R383). -/
def Dev.rebook (s : Dev) (oldV newV : Nat) (others : List Booking) (b : Booking) : Option Booking :=
  let onto (r : Nat) : Option Booking := some { b with res := r }
  if b.res ≥ 38 then some b
  else
    let r := if b.res == 16 + oldV then 16 + newV else if b.res == 24 + oldV then 24 + newV else b.res
    if r == b.res && s.unitUp r then some b
    else
      let k : SegKind := if r < 16 then .eng else if r < 24 then .rim else if r < 32 then .warp else if r < 34 then .reg else .ll
      ((segInstances k newV).find? fun q => s.runFree others q b.slot b.len).bind onto

/-- Book a seat's bookings again, one after another. -/
def Dev.rebookAll (s : Dev) (oldV newV : Nat) (others : List Booking) : List Booking → Option (List Booking)
  | [] => some []
  | b :: bs =>
    match s.rebook oldV newV others b with
    | none => none
    | some c => (Dev.rebookAll s oldV newV (c :: others) bs).map (c :: ·)

/-- A seat of contract c placed anew, out of plain bad where one is given; none where something does not fit (R383). -/
def Dev.replan (s : Dev) (c : Contract) (t : Seat) (bad : Option Nat) : Option Seat :=
  let p := s.media.pkgs.get c.pkg Pkg.empty
  let d := mapAt p.budget c.mapping
  let placed := match bad with
    | none => some (t.tiles, t.plains)
    | some q => s.placeAnew q s.media.seatTiles ((List.range p.vplains).map (mapTiles d)) t.plains t.tiles
  match placed with
  | none => none
  | some (tiles, plains) =>
    let v := c.serviceVplain p
    let others := s.media.allBookings.foldl (fun l b => if l.2.contains b then (l.1, l.2.erase b) else (l.1 ++ [b], l.2)) ([], t.bookings)
    (s.rebookAll (listGet t.plains v 0) (listGet plains v 0) others.1 t.bookings).map fun bs =>
      { t with tiles := tiles, plains := plains, bookings := bs, moving := t.moving || plains != t.plains }

/-- The mirror of stream n at the loss of its seat (R383): an active stream relinquishes, a standby stream's WATCH ends. -/
def Dev.loseMirror (s : Dev) (n : Nat) : Dev :=
  let waits := s.pair.waiting.filter fun w => w.stream == n
  let s0 := { s with pair := { s.pair with waiting := s.pair.waiting.filter fun w => w.stream != n } }
  let s1 := waits.foldl (fun (t : Dev) w => t.finish (some w.seq) stABORTED 0 0) s0
  match s1.slotOf n with
  | none => s1
  | some (k, t) =>
    if t.role == .standby then ((s1.endWatch k stABORTED none).finish t.attachSeq stABORTED 0 0).endMirror n false
    else
      let s2 := if s1.mirrors then s1.sendRecord (.relinquishRec k) else s1
      ((((s2.finish t.attachSeq stABORTED 0 0).finish t.switchSeq stABORTED 0 0).dropUnacked k).freeSlot k).settleFeatures n

/-- The stream is lost with its seat or its data: relinquished where it is mirrored, and evicted (R382, R383). -/
def Dev.loseStream (s : Dev) (n : Nat) : Dev := (s.loseMirror n).evict n

/-- Seat k of contract cn is lost (R383). -/
def Dev.loseSeat (s : Dev) (cn k : Nat) : Dev :=
  let n := ((s.media.contracts.find cn).bind fun c => c.seats[k]?).bind fun t => t.stream
  let s1 := s.modSeat cn k fun t => { t with lost := true, moving := false }
  match n with
  | some m => s1.loseStream m
  | none => s1

/-- Relocate seat k of contract cn (R383): its interrupted slice is redone; a seat that is struck again while it moves is lost. -/
def Dev.relocate (s : Dev) (bad : Option Nat) (cn k : Nat) : Dev :=
  match (s.media.contracts.find cn).bind fun c => c.seats[k]?.map fun t => (c, t) with
  | none => s
  | some (c, t) =>
    if t.lost then s
    else if t.moving then s.loseSeat cn k
    else
      let s1 := s.redoSeat cn k
      match s1.replan c t bad with
      | none => s1.loseSeat cn k
      | some y =>
        s1.modSeat cn k fun z =>
          { z with tiles := y.tiles, plains := y.plains, bookings := y.bookings, moving := y.moving }

/-- The seats that a predicate admits: contract handle and seat number, ascending (R383). -/
def Dev.seatsWhere (s : Dev) (p : Contract → Seat → Bool) : List (Nat × Nat) :=
  s.media.contracts.flatMap fun e => (List.range e.2.seats.length).filterMap fun k =>
    match e.2.seats[k]? with
    | some t => if p e.2 t then some (e.1, k) else none
    | none => none

/-- Relocate seats, one at a time (R383). -/
def Dev.relocateAll (s : Dev) (bad : Option Nat) (l : List (Nat × Nat)) : Dev :=
  let s1 := l.foldl (fun (t : Dev) e => t.relocate bad e.1 e.2) s
  ((s1.wakeSeats (s1.media.allSeats.map (·.2))).seatsChanged).pumpWaiting

/-- A seat books a unit instance. -/
def Seat.books (t : Seat) (res : Nat) : Bool := t.bookings.any fun b => b.res == res

/-- Seats that book an instance are relocated (R382). -/
def Dev.loseInstance (s : Dev) (res : Nat) (bad : Option Nat) : Dev := s.relocateAll bad (s.seatsWhere fun _ t => t.books res)

/-! Tests in progress (R386) -/

/-- The test is abandoned (R386): its unit is no longer under test. -/
def Dev.abandonTest (s : Dev) : Dev :=
  match s.units.test with
  | none => s
  | some t =>
    let s1 := s.testOver 7
    if t.waiting then s1
    else if t.cls < 2 then s1.setPlain t.plain { s1.plain t.plain with testPos := none }
    else if t.cls == 2 then { s1 with units := { s1.units with engines := listMod s1.units.engines t.inst fun e => { e with withdrawn := false } } }
    else if t.cls == 3 then
      if t.inst < 8 then { s1 with units := { s1.units with rimSpare := none } } else s1
    else if t.cls == 4 && t.pos < 8 then s1.modLink t.inst fun l => { l with failLane := none }
    else s1

/-- Abandon the test where it bears on the unit that a fault strikes or needs (R386). -/
def Dev.abandonIf (s : Dev) (p : Test → Bool) : Dev :=
  match s.units.test with
  | some t => if p t then s.abandonTest else s
  | none => s

/-! Tiles -/

/-- The seat's work on a lost logical tile moves to the lowest unreserved logical tile of the plain, else the seat is relocated (R377). -/
def Dev.moveWork (s : Dev) (tile : Nat) : Dev :=
  let p := tile / 256
  match s.seatsWhere fun _ t => t.tiles.contains tile with
  | [] => s
  | (cn, k) :: _ =>
    match s.freeTiles s.media.seatTiles p with
    | n :: _ => (s.modSeat cn k fun t => { t with tiles := t.tiles.map fun m => if m == tile then n else m }).seatsChanged
    | [] => s.relocateAll (some p) [(cn, k)]

/-- A physical tile cannot serve its logical tile any more (R375 to R378): TILE_UE, replacement, the test of the old physical tile,
and the redo of the slices of its seat. -/
def Dev.tileFaultOp (s : Dev) (tile : Nat) : Dev :=
  let p := tile / 256
  let t := tile % 256
  let x := s.plain p
  let pos := x.posOf t
  if !s.clocked || x.failed || x.lost.contains t then s
  else
    let s1 := s.sticky 0 p (firstDet 0 pos p 0)
    let s2 := s1.abandonIf fun e => decide (e.cls < 2) && e.plain == p && (e.pos == pos || x.freePos.isEmpty)
    let (s3, ok) := s2.replaceTile p t
    let s4 := (s3.seatsWhere fun _ y => y.tiles.contains tile).foldl (fun (v : Dev) e =>
      if (((v.media.contracts.find e.1).bind fun c => c.seats[e.2]?).map (·.moving)).getD false then v.loseSeat e.1 e.2 else v.redoSeat e.1 e.2) s3
    let s5 := if ok then s4 else s4.moveWork tile
    (s5.testWithdrawn p pos).seatsChanged

/-- A tile's state after a fault aborted its slice: the weights and settings filled again, the line buffers and halo counters of the
fault checkpoint, no sums (R375, R376). -/
def Tile.restore (t : Tile) : Tile :=
  { t with sram := t.ckpt, halos := t.ckptHalos, arrays := t.arrays.map fun a => { a with acc := [] }, win := [], winRho := [], epi := [], rowQ := [], rowRho := 0
           vregs := [], cells := [], stats := [], stored := [], inbox := [], begun := [], ended := [], stall := none, planted := [] }

/-- The tiles of the seats that hold a tile restore their state (R376). -/
def State.restoreTiles (s : State) (tile : Nat) : State :=
  let held := tile :: (s.dev.media.allSeats.filter fun e => e.2.tiles.contains tile).flatMap fun e => e.2.tiles
  { s with tiles := { s.tiles with tiles := s.tiles.tiles.map fun e => if held.contains e.1 then (e.1, e.2.restore) else e } }

/-- A tile fault (R92, R376). -/
def State.tileFault (s : State) (tile : Nat) : State :=
  let x := s.dev.plain (tile / 256)
  if !s.dev.clocked || x.failed || x.lost.contains (tile % 256) then s
  else (s.restoreTiles tile).onDev fun d => d.tileFaultOp tile

/-- TILE_FAULT; a weight parity error and a double-bit SRAM error have the same consequences (R92). -/
def execTileFault (tile : Fin 2048) (_parity : Bool) (s : State) : Out := .next (s.tileFault tile)

/-! Shared units -/

/-- ENGINE_FAULT (R155, R274, R374, R382). -/
def Dev.engineFaultOp (s : Dev) (n : Nat) : Dev :=
  let e := listGet s.units.engines n (Engine.reset n)
  if !s.clocked || e.failed then s
  else
    let s1 := s.abandonIf fun t => t.cls == 2 && (t.inst == n || (e.role.isSome && (spareEngine s.units.engines).isNone && !t.waiting))
    let s2 := match e.held with
      | some u => s1.redoUnits u.stream.val fun v => v.number == u.number && v.stage == UStage.coded
      | none => s1
    let (s3, ok) := (s2.holdEngine n none).loseEngine n
    match e.role with
    | some r => if ok then s3 else s3.loseInstance r none
    | none => s3

def execEngineFault (phys : Fin 18) (s : State) : Out := .next (s.onDev fun d => d.engineFaultOp phys)

/-- The slices in flight on the seats that book an instance are redone (R274). DEDUCED, log entry 101. -/
def Dev.redoBooked (s : Dev) (res : Nat) : Dev :=
  (s.seatsWhere fun _ t => t.books res && !t.moving).foldl (fun (t : Dev) e => t.redoSeat e.1 e.2) s

def Dev.setRimDown (s : Dev) (p : Nat) : Dev := s.setPlain p { s.plain p with rimDown := true }

/-- RIM_FAULT (R374, R382): the rim engine that serves plain p fails; the spare takes over, or the plain is left without. -/
def Dev.rimFaultOp (s : Dev) (p : Nat) : Dev :=
  if !s.clocked || (s.plain p).rimDown then s
  else
    let s0 := s.abandonIf fun t => t.cls == 3
    let spare := s0.units.rimSpare == some p
    let det := firstDet (if spare then 8 else p) 0 p 0
    let s1 := s0.sticky 1 2 det
    if !spare && s1.units.rimSpare.isNone && !s1.units.rimSpareFailed then
      (({ s1 with units := { s1.units with rimSpare := some p } }).soft (repairEntry 6 p 0 0 0)).redoBooked (16 + p)
    else
      let s2 := if spare then { s1 with units := { s1.units with rimSpare := none, rimSpareFailed := true } } else s1
      ((s2.setRimDown p).sticky 1 3 det).loseInstance (16 + p) (some p)

def execRimFault (p : Fin 8) (s : State) : Out := .next (s.onDev fun d => d.rimFaultOp p)

/-- WARP_FAULT (R371, R382). -/
def execWarpFault (p : Fin 8) (s : State) : Out :=
  .next (s.onDev fun d =>
    if d.clocked && !(d.plain p).warpDown then
      ((d.sticky 1 4 (firstDet p 0 p 0)).setPlain p { d.plain p with warpDown := true }).loseInstance (24 + p) (some p)
    else d)

/-- REGION_FAULT (R371, R382). -/
def execRegionFault (u : Fin 2) (s : State) : Out :=
  .next (s.onDev fun d =>
    if d.clocked && !(listGet d.units.regionDown u false) then
      let d1 := d.sticky 1 5 (firstDet u 0 0 0)
      ({ d1 with units := { d1.units with regionDown := listSet d1.units.regionDown u true } }).loseInstance (32 + u) none
    else d)

/-- LLE_FAULT (R371, R382): a host job on the engine ends with ABORTED_FAULT. DEDUCED, log entry 116. -/
def execLleFault (e : Fin 4) (s : State) : Out :=
  .next (s.onDev fun d =>
    let l := d.lle e
    if d.clocked && !l.failed then
      let d1 := (d.sticky 1 6 (firstDet e 0 0 0)).setLle e { job := none, suspended := false, segment := false, failed := true }
      let d2 := match l.job.bind d1.accOf with
        | some a => if d1.working then d1.llFail a stABORTED else d1
        | none => d1
      d2.loseInstance (34 + e) none
    else d)

/-- The address lies in a reference feature buffer of stream x (R217). -/
def Stream.holdsRef (x : Stream) (a : Nat) : Bool :=
  x.featSpans.any fun b => decide (b ≤ a) && decide (a < b + x.featGran * granule)

/-- HBM_UE (R17, R371, R382): the reading job ends with ABORTED_FAULT; a stream whose state or references are struck is lost. DEDUCED, log entry 104. -/
def Dev.hbmUeOp (s : Dev) (a : Nat) (reader : Option Nat) (state : Bool) : Dev :=
  if !s.clocked then s
  else
    let st := a / 256 % 2
    let s1 := s.sticky 2 st (firstDet st 0 0 0)
    match reader with
    | none => s1
    | some n =>
      match s1.stream n with
      | none => s1
      | some x =>
        if state || x.holdsRef a then (s1.loseStream n).pumpWaiting
        else match x.jobs with
          | [] => s1
          | j :: _ => ((s1.modStream n fun y => y.modJob j.seq fun k => { k with aborted := true }).pump n false).pumpWaiting

def execHbmUe (addr : BitVec 36) (reader : Option (Fin 1025)) (state : Bool) (s : State) : Out :=
  .next (s.onDev fun d => d.hbmUeOp addr.toNat (reader.map (·.val)) state)

/-! Plains, rails, the root PLL -/

/-- A plain fails (R382, R407): its tiles, rim and warp are gone, and its seats are relocated. DEDUCED, log entry 105. -/
def Dev.plainFailOp (s : Dev) (p : Nat) : Dev :=
  if !s.clocked || (s.plain p).failed then s
  else
    let s1 := s.abandonIf fun t => (decide (t.cls < 2) && t.plain == p) || (t.cls == 3 && t.inst == p)
    let s2 := s1.sticky 0 (24 + p) (firstDet 0 0 p 0)
    let s3 := s2.setPlain p { s2.plain p with failed := true, gated := true, pool := [], rimDown := true, warpDown := true, testPos := none }
    let s4 := if s3.units.rimSpare == some p then { s3 with units := { s3.units with rimSpare := none } } else s3
    s4.relocateAll (some p) (s4.seatsWhere fun _ t => t.plains.contains p || t.books (16 + p) || t.books (24 + p))

/-- A plain fails: its tiles' contents go with it. -/
def State.plainFail (s : State) (p : Nat) : State :=
  if !s.dev.clocked || (s.dev.plain p).failed then s
  else
    { s with dev := s.dev.plainFailOp p
             tiles := { tiles := s.tiles.tiles.filter fun e => e.1 / 256 != p, mesh := s.tiles.mesh.filter fun m => m.dest / 256 != p } }

def execPlainFail (p : Fin 8) (s : State) : Out := .next (s.plainFail p)

/-- RAIL_FAULT (R405, R406): a plain's rail takes the plain, any other rail the device. DEDUCED, log entry 108. -/
def execRailFault (r : Rail) (s : State) : Out :=
  if !s.dev.clocked then .next s
  else
    let i := match r with
      | .plain p => p.val
      | .common n => 8 + n.val
    let s1 := { s with clk := { s.clk with railsOut := s.clk.railsOut ||| 2 ^ i }, dev := s.dev.sticky 3 7 (firstDet i 0 0 0) }
    match r with
    | .plain p => .next (s1.plainFail p)
    | .common _ => .next (s1.onDev Dev.failStop)

/-- The pause of a root PLL switch counts as one redo of every seat with a slice in flight (R379). -/
def Dev.pauseRedo (s : Dev) : Dev :=
  s.media.streams.foldl (fun (t : Dev) e =>
    match e.2.units.filter fun u => u.stage == .flying with
    | [] => t
    | u :: _ =>
      (t.modStream e.1 fun y => { y with units := y.units.map fun v => if v.stage == .flying then { v with redone := true } else v }).countRedo
        e.1 e.2 u) s

/-- PLL_SWITCH (R379): the domains pause for at most 5 µs and the timebase goes on over the pause; without a standby the device fails
stop. DEDUCED, log entry 109. -/
def execPllSwitch (standbyLocks : Bool) (pauseTicks : Nat) (s : State) : Out :=
  if !s.dev.clocked then .next s
  else if s.clk.standby || !standbyLocks then .next (s.onDev Dev.failStop)
  else
    .next { s with
      clk := { s.clk with standby := true }
      dev :=
        let d := ((s.dev.sticky 3 4 0).soft (repairEntry 9 0 0 0 0)).count (ev 15 4) 1
        let d1 := { d with sys := { d.sys with time := (d.sys.time + min pauseTicks (5 * usTicks)) % 2 ^ 64 } }
        d1.pauseRedo }

/-! Quiesce (R404) -/

/-- Units of stream n that have started run to their end. -/
def Dev.drainUnits (n : Nat) : Nat → Dev → Dev
  | 0, s => s
  | f + 1, s =>
    match (s.stream n).bind fun x => x.units.find? fun u => u.stage == .flying with
    | none => s
    | some u =>
      let r : UnitRef := { stream := Fin.ofNat 1025 n, number := u.number }
      Dev.drainUnits n f (((((s.contextPassOp r).decodeSegmentOp r).encodeUnitOp r).unitEmitOp n).pump n false)

/-- What stream n has to write is written. -/
def Dev.drainOut (n : Nat) : Nat → Dev → Dev
  | 0, s => s
  | f + 1, s =>
    Dev.drainOut n f (((((((s.trainOp n).unitEmitOp n).pictureRecordOp n).autoCopyOp n).outputRecordOp n).blockRecordOp n).pump n false)

/-- Drain stream n; the jobs with a unit undelivered end with ABORTED_FAULT. -/
def Dev.drainStream (s : Dev) (n : Nat) : Dev :=
  match s.stream n with
  | none => s
  | some x =>
    let s1 := Dev.drainUnits n (20 * x.units.length + 20) s
    let s2 := Dev.drainOut n (2 * x.units.length + x.emits.length + x.recs.length + 4) s1
    let s3 := s2.modStream n fun y =>
      { y with units := y.units.filter fun u => u.stage != .queued && u.stage != .released, emits := [], recs := [], pic := none
               jobs := y.jobs.map fun j => { j with aborted := true, read := true, touched := true, unitsDue := 0 } }
    Dev.endJobs n ((s3.stream n).map (·.jobs.length) |>.getD 0) (s3.modStream n fun y => { y with units := [] })

/-- QUIESCE (R404). DESIGN CHOICE, log entry 30. -/
def Dev.quiesceOp (s : Dev) : Dev :=
  let s1 := (s.setMode .quiesced).sticky 3 3 0
  let off (l : PassLink) : PassLink := { l with up := false }
  let s2 := { s1 with chain := { s1.chain with statusDue := true }, pair := { s1.pair with links := s1.pair.links.map off } }
  let s3 := s2.media.streams.foldl (fun (t : Dev) e => t.drainStream e.1) s2
  (List.range 8).foldl (fun (t : Dev) p => if (t.plain p).gated then t else t.gatePlain p) s3

/-- QUIESCE comes when holdover has lasted 10 ms (R404). -/
def execQuiesce (s : State) : Out :=
  let d := s.dev
  let due := s.clk.holdover && decide (s.clk.holdFrom + 10000 * usTicks ≤ d.sys.time)
  if due && (d.sys.mode = .ready || d.sys.mode = .boot) then
    .next { s with dev := d.quiesceOp
                   tiles := { s.tiles with tiles := s.tiles.tiles.map fun e => (e.1, { e.2 with sram := [] }) } }
  else .next s

/-! In-service tests (R384 to R386) -/

/-- The test that DBG_TSTSEL and KIND spell; none where KIND does not suit CLASS or the selection names no unit. -/
def Dev.testNamed (s : Dev) (kind : Nat) : Option Test :=
  let r := s.regN (DBG + 0x100)
  let cls := bits r 0 4
  let p := bits r 4 3
  let inst := bits r 8 8
  let pos := bits r 16 9
  let tile (q : Nat) : Option Test := some { kind := kind, cls := cls, plain := p, inst := inst, pos := q, waiting := true }
  if kind ≤ 3 && cls == 0 then tile ((s.plain p).posOf inst)
  else if kind ≤ 3 && cls == 1 then (if pos < 272 then tile pos else none)
  else if kind == 4 && cls == 2 then (if inst < 18 then tile pos else none)
  else if kind == 4 && cls == 3 then (if inst ≤ 8 then tile pos else none)
  else if kind == 5 && cls == 4 then (if inst < 2 && pos < 9 then tile pos else none)
  else if kind == 5 && cls == 5 then (if inst < 2 then tile pos else none)
  else none

/-- The spare rim engine takes over from plain p's rim engine, or is itself tested (R385). -/
def Dev.withdrawRim (s : Dev) (t : Test) : Dev :=
  if s.units.rimSpare.isSome || s.units.rimSpareFailed || (t.inst < 8 && (s.plain t.inst).rimDown) then s.testOver 6
  else if t.inst < 8 then ({ s with units := { s.units with rimSpare := some t.inst } }).testRuns t
  else s.testRuns t

/-- A pass lane's traffic moves to the spare lane, or the spare lane is itself tested (R385). -/
def Dev.withdrawLane (s : Dev) (t : Test) : Dev :=
  if (s.link t.inst).failLane.isSome then s.testOver 6
  else if t.pos < 8 then (s.modLink t.inst fun l => { l with failLane := some t.pos }).testRuns t
  else s.testRuns t

/-- Withdraw a tile (R385): at once where no seat holds its logical tile, else at an idle departure of the seat. -/
def Dev.startTile (s : Dev) (t : Test) : Dev :=
  let x := s.plain t.plain
  if x.failed || x.bad.contains t.pos then s.testOver 6
  else
    match x.tileAt t.pos with
    | none => s.testTile t
    | some l =>
      if s.media.seatTiles.contains (t.plain * 256 + l) then
        (if x.freePos.isEmpty then s.testOver 6 else ({ s with units := { s.units with test := some t } }).testState 1)
      else s.testTile t

/-- Withdraw an entropy engine (R385): one in use waits for its next unit boundary. -/
def Dev.startEngine (s : Dev) (t : Test) : Dev :=
  let e := listGet s.units.engines t.inst (Engine.reset t.inst)
  if e.failed then s.testOver 6
  else if e.role.isSome && (spareEngine s.units.engines).isNone then s.testOver 6
  else if e.held.isSome then ({ s with units := { s.units with test := some t } }).testState 1
  else s.withdrawEngine t

/-- DBG_TSTCMD with a KIND (R384, R385): ignored while a test runs and during boot (R436). DEDUCED, log entry 106. -/
def Dev.testCmd (s : Dev) (kind : Nat) : Dev :=
  if !s.writable 0x20 || s.sys.mode = .boot || s.units.test.isSome then s
  else
    let s1 := s.setRegN (DBG + 0x10C) 0
    match s1.testNamed kind with
    | none => s1.testOver 6
    | some t =>
      match t.cls with
      | 0 => s1.startTile t
      | 1 => s1.startTile t
      | 2 => s1.startEngine t
      | 3 => s1.withdrawRim t
      | 4 => s1.withdrawLane t
      | _ => s1.testRuns t

def execTileBist (s : State) : Out := .next (s.disarm.onDev fun d => d.testCmd 1)
def execMbist (s : State) : Out := .next (s.disarm.onDev fun d => d.testCmd 2)
def execArrayTest (s : State) : Out := .next (s.disarm.onDev fun d => d.testCmd 3)
def execEngineTest (s : State) : Out := .next (s.disarm.onDev fun d => d.testCmd 4)
def execLaneTest (s : State) : Out := .next (s.disarm.onDev fun d => d.testCmd 5)

/-- The unit of a test that it passed returns (R386): a tile is free, an engine is a spare, a lane carries traffic again. -/
def Dev.testReturn (s : Dev) (t : Test) : Dev :=
  match t.cls with
  | 2 => { s with units := { s.units with engines := listMod s.units.engines t.inst fun e => { e with withdrawn := false } } }
  | 3 => if t.inst < 8 then { s with units := { s.units with rimSpare := none } } else s
  | 4 => if t.pos < 8 then s.modLink t.inst fun l => { l with failLane := none } else s
  | 5 => s
  | _ => ((s.setPlain t.plain { s.plain t.plain with testPos := none }).freed t.plain).refreshIdle

/-- A unit fails its test (R386): it is marked failed, and its sticky bit is set. -/
def Dev.testFailed (s : Dev) (t : Test) : Dev :=
  match t.cls with
  | 2 => (s.loseEngine t.inst).1
  | 3 =>
    let s1 := s.sticky 1 2 (firstDet t.inst 0 0 0)
    if t.inst < 8 then s1.soft (repairEntry 6 t.inst 0 0 0) else { s1 with units := { s1.units with rimSpareFailed := true } }
  | 4 => (s.sticky 1 (8 + t.inst) (firstDet t.inst t.pos 0 0)).soft (repairEntry 7 0 t.inst 0 t.pos)
  | 5 =>
    let (v, s1) := s.draw
    let s2 := (s1.sticky 2 (2 + t.inst) (firstDet t.inst (v % 512) 0 0)).soft (repairEntry 8 0 t.inst (t.pos % 8) (v % 512))
    { s2 with units := { s2.units with hbmRep := listMod s2.units.hbmRep t.inst (· + 1) } }
  | _ =>
    let s1 := s.setPlain t.plain { s.plain t.plain with testPos := none }
    let s2 := s1.markBad t.plain t.pos
    (match (s2.plain t.plain).tileAt t.pos with
     | some l => (s2.replaceTile t.plain l).1
     | none => s2).refreshIdle

/-- DBG_TSTRES of a test that found faults, which are free (R386; log entry 2). DESIGN CHOICE, log entry 107. -/
def Dev.testFound (s : Dev) : Dev :=
  let (v, s1) := s.draw
  s1.setRegN (DBG + 0x10C) (v % 2 ^ 32)

/-- TEST_COMPLETE (R386). A repair is one of a tile; unitBits gives DBG_TSTRES. -/
def Dev.testCompleteOp (s : Dev) (o : TestOutcome) : Dev :=
  match s.units.test with
  | none => s
  | some t =>
    if !s.clocked || t.waiting then s
    else
      match o with
      | .passed => (s.testOver 3).testReturn t
      | .repaired r =>
        if t.cls < 2 then
          let (v, s1) := s.draw
          if s1.overRepair (fixFound t.plain t.pos v).toNat then ((s1.testOver 5).setReg (DBG + 0x10C) r).testFailed t
          else (((s1.testOver 4).setReg (DBG + 0x10C) r).softFix t.plain t.pos v).testReturn t
        else s
      | .failed => ((s.testOver 5).testFound).testFailed t
      | .abandoned => s.abandonTest

def execTestComplete (o : TestOutcome) (s : State) : Out := .next (s.onDev fun d => d.testCompleteOp o)

/-! Function Level Reset (R307) -/

/-- Retire the descriptors of function f without completions, and disable its rings. DEDUCED, log entry 111. -/
def Dev.retireFn (s : Dev) (f : Nat) : Dev :=
  let x := s.fn f
  let mine := s.host.accepted.filter fun a => a.func == f
  let held := sumN (x.crings.map fun e => e.2.queue.length)
  let s1 := { s with host := { s.host with accepted := s.host.accepted.filter fun a => a.func != f } }
  let s2 := s1.setFn f { Fn.reset with accepts := x.accepts, completes := x.completes, retires := x.retires + mine.length + held }
  let lles := s2.units.lles.map fun l => if mine.any (fun a => l.job == some a.seq) then { l with job := none, suspended := false } else l
  { s2 with units := { s2.units with lles := lles } }

/-- RNG_FCTL, RNG_TBL, RNG_DB, RNG_POLL and the MSI-X registers of function f go back to their reset values. -/
def Dev.clearFnRegs (s : Dev) (f : Nat) : Dev :=
  let gone (a : Nat) : Bool := [0, 0x10, 0x14, 0x18, 0x1C, 0x20].any (fun o => a == WINF f + o) || (decide (MSI f ≤ a) && decide (a < MSI (f + 1)))
  { s with regs := s.regs.filter fun e => !gone e.1 }

/-- Stream n ends with its function (R216, R262, R307). -/
def Dev.killStream (s : Dev) (n : Nat) : Dev :=
  match s.stream n with
  | none => s
  | some x =>
    let s1 := x.units.foldl (fun (t : Dev) u => t.releaseEngine n u.number) s
    (s1.endMirror n true).removeStream n x

/-- Reset function f (R307). -/
def Dev.resetFn (s : Dev) (f : Nat) : Dev :=
  let s1 := (s.retireFn f).clearFnRegs f
  let s2 := (s1.media.streams.filter fun e => e.2.func == f).foldl (fun (t : Dev) e => t.killStream e.1) s1
  let s3 := (s2.media.contracts.filter fun e => e.2.func == f).foldl (fun (t : Dev) e => t.dropContract e.1) s2
  let s4 := (s3.media.pool.filter fun e => e.2.owner == f && e.2.state != .free).foldl (fun (t : Dev) e => t.freeBuf e.1) s3
  s4.dropPackages

/-- Reset functions n to 1 above the physical function. -/
def Dev.resetVfs : Nat → Dev → Dev
  | 0, s => s
  | n + 1, s => Dev.resetVfs n (s.resetFn (n + 1))

/-- FUNCTION_LEVEL_RESET (R307, R388): of function f, or of every virtual function where VF Enable is cleared; one of the physical
function takes the virtual functions with it and locks the injection registers. PRESUMED, log entry 110. -/
def Dev.flrOp (s : Dev) (f : Nat) (vfClear : Bool) : Dev :=
  if !s.clocked then s
  else if vfClear then { Dev.resetVfs s.host.vfs s with host := { (Dev.resetVfs s.host.vfs s).host with vfs := 0 } }
  else if f == 0 then
    let t := (Dev.resetVfs s.host.vfs s.injRelock).resetFn 0
    { t with host := { t.host with vfs := 0 } }
  else if s.exists f then s.resetFn f
  else s

def execFunctionLevelReset (f : Fin 64) (vfClear : Bool) (s : State) : Out := .next (s.onDev fun d => (d.flrOp f vfClear).pumpWaiting)

/-! The ledger (R325 to R330) -/

/-- DESC of function f: granted, held, in flight. -/
def Dev.ledgerDesc (s : Dev) (f : Nat) : Nat × Nat × Nat :=
  let x := s.fn f
  (x.accepts - x.completes - x.retires, (s.host.accepted.filter fun a => a.func == f).length, sumN (x.crings.map fun e => e.2.queue.length))

/-- POOL: buffer records. -/
def Dev.ledgerRecords (s : Dev) : Nat × Nat × Nat :=
  let used := (s.media.pool.filter fun e => e.2.state != .free).length
  let due := (s.media.pool.filter fun e => e.2.releaseDue).length
  (4096, (4096 - used) + (used - due), due)

/-- POOL: granules. -/
def Dev.ledgerGranules (s : Dev) : Nat × Nat × Nat :=
  let used := sumN (s.poolTaken.map (·.2))
  let due := sumN ((s.media.pool.filter fun e => e.2.releaseDue).map fun e => e.2.granules)
  (s.poolGranules, s.poolFree + (used - due), due)

/-- WHEEL of a resource: booked and free. A booking holds at most what the capacity of its slot still is, and what a capacity has lost is no free
bandwidth. DEDUCED, log entry 113. -/
def Dev.ledgerWheel (s : Dev) (res : Nat) : Nat × Nat × Nat :=
  if res < 38 then (1024, s.media.bookedSlots res + (1024 - s.media.bookedSlots res), 0)
  else
    let cap := if res == 38 then hbmCap else s.pcieCap
    let booked := sumN ((List.range 1024).map fun j => min (s.media.bookedBytes res j) cap)
    let free := sumN ((List.range 1024).map fun j => cap - s.media.bookedBytes res j)
    (1024 * cap, booked + free, 0)

/-- SLICEBUF (R325, R326): buffers free, held by a unit, and withdrawn or failed. -/
def Units.ledgerBuffers (u : Units) : Nat × Nat × Nat :=
  let out (e : Engine) : Bool := e.failed || e.withdrawn
  let free := (u.engines.filter fun e => !out e && e.held.isNone).length
  let held := (u.engines.filter fun e => !out e && e.held.isSome).length
  (18, free + held + (u.engines.filter out).length, 0)

/-- EPOCH of a mirror slot. -/
def Slot.ledger (t : Slot) : Nat × Nat × Nat :=
  if t.role == .standby then (t.opened, t.acked + t.discarded + b2n t.incoming, 0) else (t.opened, t.acked, t.sent.length)

/-- The counts of every ledger (R325) at the audit of free value v, by ledger × 8,192 + instance, ascending. -/
def Dev.ledgers (s : Dev) (v : Nat) : SMap (Nat × Nat × Nat) :=
  s.creditLedgers v ++ ((List.range 64).map fun f => (3 * 8192 + f, s.ledgerDesc f)) ++
    [(4 * 8192, s.ledgerRecords), (4 * 8192 + 1, s.ledgerGranules), (5 * 8192, s.units.ledgerBuffers)] ++
    ((List.range 40).map fun r => (6 * 8192 + r, s.ledgerWheel r)) ++
    s.pair.slots.map fun e => (7 * 8192 + e.1, e.2.ledger)

/-- A count over a pair of registers of the ledger (R331). -/
def Dev.setCount (s : Dev) (a n : Nat) : Dev := (s.setRegN (ERR + a) n).setRegN (ERR + a + 4) (bits n 32 16)

/-- A mismatch (R328): the capture, LEDGER_FAULT, fail-stop, in this order. -/
def Dev.ledgerFault (s : Dev) (k : Nat) (c : Nat × Nat × Nat) : Dev :=
  let s1 := s.setRegN (ERR + 0x220) (k / 8192 + k % 8192 * 2 ^ 8 + 2 ^ 31)
  let s2 := ((s1.setCount 0x224 c.1).setCount 0x22C c.2.1).setCount 0x234 c.2.2
  ((s2.setReg64 (ERR + 0x23C) (ERR + 0x240) s.sys.time).sticky 3 0 0).failStop

/-- LEDGER_AUDIT (R327, R328): once in each revolution of the wheel. DEDUCED, log entry 25. -/
def Dev.auditOp (s : Dev) : Dev :=
  let rev := s.sys.time / 1200000
  if !s.clocked || s.sys.mode = .failStop || (s.inst.audited.map (·.1)) == some rev then s
  else
    let (v, s1) := s.draw
    let l := s1.ledgers v
    let s2 := ({ s1 with inst := { s1.inst with ledger := l, audited := some (rev, v) } }).count (ev 15 1) 1
    match l.find? fun e => e.2.1 != e.2.2.1 + e.2.2.2 with
    | some e => s2.ledgerFault e.1 e.2
    | none => s2.bump (ERR + 0x200) 1

def execLedgerAudit (s : State) : Out := .next (s.onDev Dev.auditOp)

/-! Clearing -/

/-- Bits of a sticky register whose cause lasts (R370). DEDUCED, log entry 114. -/
def State.stickyHolds (s : State) (g : Nat) : Nat :=
  let d := s.dev
  let set (l : List (Nat × Bool)) : Nat := l.foldl (fun a e => a + b2n e.2 * 2 ^ e.1) 0
  match g with
  | 0 => set ((List.range 8).map fun p => (24 + p, (d.plain p).failed))
  | 1 =>
    let orphan := (List.range 16).any fun r => !(d.units.engines.any fun e => e.role == some r && !e.failed)
    let down (l : Nat) : Bool := (d.link l).everUp && !(d.link l).up
    set [(1, orphan), (3, (List.range 8).any fun p => (d.plain p).rimDown && !(d.plain p).failed), (10, down 0), (11, down 1)]
  | 2 => set [(13, d.host.gts != 0 && !(d.host.gts == 64 && d.host.width == 16))]
  | _ =>
    set [(1, s.clk.holdover), (2, s.clk.holdover), (3, d.sys.mode = .quiesced), (5, !s.clk.neighbours.isEmpty),
         (6, s.clk.plains.any (·.thermal)), (7, s.clk.railsOut != 0), (10, d.sys.inj.unlocked)]

/-- The registers of a ledger mismatch clear together with LEDGER_FAULT (R331). -/
def Dev.clearLedger (s : Dev) : Dev :=
  ([0x220, 0x224, 0x228, 0x22C, 0x230, 0x234, 0x238, 0x23C, 0x240] : List Nat).foldl (fun (t : Dev) o => t.setRegN (ERR + o) 0) s

/-- The sticky registers take writes (R329, R391, R436). -/
def Dev.stickyWritable (s : Dev) : Bool := s.writable 4 || (s.sys.mode = .failStop && !(s.fn 0).d3)

/-- A W1C write to ERR_STICKYg (R370, R372). -/
def State.clearSticky (s : State) (g w : Nat) : State :=
  if !s.dev.stickyWritable then s
  else
    let was := s.dev.regN (stickyAddr g)
    let d1 := s.dev.setRegN (stickyAddr g) (was - (was &&& w))
    let d2 := if g == 3 && bitAt (was &&& w) 0 then d1.clearLedger else d1
    let again := s.stickyHolds g &&& (was &&& w)
    { s with dev := (List.range 32).foldl (fun (t : Dev) b => if bitAt again b then t.sticky g b 0 else t) d2 }

/-- STICKY_CLEAR. -/
def execStickyClear (group : Fin 4) (w : Word) (s : State) : Out := .next (s.disarm.clearSticky group w.toNat)

/-- A W1C write to ADM_SUSP (R280): a bit whose cause holds is set again at once. -/
def Dev.clearSusp (s : Dev) (w : Nat) : Dev :=
  if !s.writable 6 then s
  else
    let was := s.regN (ADM + 0x20)
    let left := was - (was &&& w)
    let again := s.media.suspNow &&& (was &&& w)
    let s1 := s.setRegN (ADM + 0x20) (left ||| again)
    if left == 0 && again != 0 then s1.setReg64 (ADM + 0x28) (ADM + 0x2C) s.sys.time else s1

def execAdmSuspClear (w : Word) (s : State) : Out := .next (s.disarm.onDev fun d => d.clearSusp w.toNat)

end Sys2Proof.Machine
end

