-- ==== Sys2Proof/Machine/Instruments.lean ====
section
/-!
DEFINITION. Performance counters, dumps, sampling and trace (R418 to R431), and the capturing reads (R433, R435).
-/
namespace Sys2Proof.Machine

/-- The instruments' memory can be written now: not in fail-stop, frozen or quiesced (R424). -/
def Dev.instMay (s : Dev) : Bool := s.serving && s.mayWrite 0

/-- An instrument's address range is one the physical function may name (R424). -/
def Dev.instOk (s : Dev) (space : Bool) (a n : Nat) : Bool := !space || s.permitted 0 a n

/-- Address of the dump ring's counters and the ring (R423). -/
def Dev.pmcPtr (s : Dev) : Nat := s.reg64 (PMC + 0x1C) (PMC + 0x20)
def Dev.pmcRing (s : Dev) : Nat := s.reg64 (PMC + 0x10) (PMC + 0x14)

/-- SATMAP of a dump (R422). -/
def satMap (i : Inst) (time : Nat) : Bytes :=
  (List.range 128).map fun k => BitVec.ofNat 8 ((List.range 8).foldl (fun a j => a + b2n (i.sat time (8 * k + j)) * 2 ^ j) 0)

/-- The 8,448 bytes of a dump record (R422). -/
def dumpRecord (i : Inst) (time interval dflags : Nat) : Bytes :=
  [0x50, 0x4D, 0x43, 0x44] ++ leBytes 4 i.seq ++ leBytes 8 time ++ leBytes 4 interval ++ leBytes 4 (min i.skipped 0xFFFFFFFF) ++
    leBytes 1 dflags ++ leBytes 7 0 ++ leBytes 8 i.clearTime ++ leBytes 24 0 ++ satMap i time ++ leBytes 64 0 ++
    (List.range 1024).flatMap fun n => leBytes 8 (i.counter time n)

/-- DFLAGS of a dump (R422). -/
def Dev.dumpFlags (s : Dev) (hold now : Bool) : Nat :=
  let i := s.inst
  b2n i.cleared + 2 * b2n i.first + 4 * b2n (i.injSince || s.sys.inj.unlocked) + 8 * b2n (i.holdSince || hold) + 16 * b2n now

/-- The state after a capture: SEQ advances, the interval restarts, the marks since the previous capture restart (R422). -/
def Dev.afterCapture (s : Dev) (hold : Bool) : Dev :=
  { s with inst := { s.inst with lastDump := s.sys.time, injSince := s.sys.inj.unlocked, holdSince := hold } }

/-- A dump that is not written (R423, R424). -/
def Dev.skipDump (s : Dev) (hold : Bool) : Dev :=
  (({ s with inst := { s.inst with skipped := s.inst.skipped + 1 } }).count (ev 15 6) 1).afterCapture hold

/-- Capture and write, or skip, a dump record (R420 to R424). DEDUCED, log entry 26. -/
def Dev.dump (s : Dev) (hold now : Bool) : Dev :=
  if !s.instMay then s
  else
    let s1 := { s with inst := { s.inst with seq := (s.inst.seq + 1) % 2 ^ 32 } }
    let space := bitAt (s1.regN (PMC + 0x04)) 1
    let log2 := s1.regN (PMC + 0x18)
    let slot := s1.pmcRing + 8448 * (s1.inst.dumped % 2 ^ log2)
    if !(s1.instOk space slot 8448 && s1.instOk space s1.pmcPtr 16) then
      ({ s1 with inst := { s1.inst with cfgErr := true } }).skipDump hold
    else
      let s2 := { s1 with inst := { s1.inst with cfgErr := false } }
      match s2.readSpace space (s2.pmcPtr + 8) 8 with
      | none => (s2.dataFault 0 0).skipDump hold
      | some cb =>
        if (s2.inst.dumped + 2 ^ 64 - leNat cb) % 2 ^ 64 ≥ 2 ^ log2 then s2.skipDump hold
        else
          let b := dumpRecord s2.inst s2.sys.time (s2.regN (PMC + 0x0C)) (s2.dumpFlags hold now)
          match s2.writeSpace space slot b with
          | none => (s2.dataFault 0 0).skipDump hold
          | some s3 =>
            match s3.writeSpace space s3.pmcPtr (leBytes 8 (s3.inst.dumped + 1)) with
            | none => (s3.dataFault 0 0).skipDump hold
            | some s4 =>
              ({ s4 with inst := { s4.inst with dumped := s4.inst.dumped + 1, skipped := 0, first := false, cleared := false } }).afterCapture hold

/-- PMC_CMD.CLEAR (R421). -/
def Dev.clearCounters (s : Dev) : Dev :=
  if s.serving || s.sys.mode = .quiesced then
    ({ s with inst := { s.inst with cnt := [], cleared := true, clearTime := s.sys.time } }).trace 11 38 0 none []
  else s

def execClear (s : State) : Out := .next (s.disarm.onDev Dev.clearCounters)

/-- PMC_CMD.DUMP_NOW, ignored while DUMP_EN is 0 (R422, R430). -/
def State.dumpNow (s : State) : State :=
  if bitAt (s.dev.regN (PMC + 0x04)) 0 then s.onDev fun d => d.dump s.clk.holdover true else s

def execDumpNow (s : State) : Out := .next s.disarm.dumpNow

/-- Expiry of the dump interval (R422). -/
def execDump (s : State) : Out :=
  let d := s.dev
  if bitAt (d.regN (PMC + 0x04)) 0 && decide (d.inst.lastDump + d.regN (PMC + 0x0C) * usTicks ≤ d.sys.time) then
    .next (s.onDev fun d => d.dump s.clk.holdover false)
  else .next s

/-- The value of a read of n bytes from a 64-bit pair (R433): 1, 2 or 4 bytes of the lower register, 8 of both, else 0. -/
def pairRead (n lo hi : Nat) : Nat :=
  if n == 1 || n == 2 || n == 4 then lo % 2 ^ (8 * n) else if n == 8 then lo + 2 ^ 32 * hi else 0

/-- Whether a read of n bytes at a capturing register is an access (R433). -/
def sizeOk (n : Nat) : Bool := n == 1 || n == 2 || n == 4 || n == 8

/-- Read of PMC_VAL0: captures the selected counter (R420, R433, R435). -/
def execPmcValCapture (size : Fin 9) (s : State) : Out :=
  let d := s.dev
  let served := d.serving || d.sys.mode = .quiesced || d.sys.mode = .failStop
  if !(served && sizeOk size) then .next (s.onDev fun d => { d with sys := { d.sys with busData := 0 } })
  else
    let e := bits (d.regN (PMC + 0x24)) 0 10
    let v := d.inst.counter d.sys.time e
    let hi := v / 2 ^ 32 + 2 ^ 16 * b2n (d.inst.sat d.sys.time e)
    .next (s.onDev fun d =>
      { d with sys := { d.sys with busData := pairRead size (v % 2 ^ 32) hi }, inst := { d.inst with capture := hi } })

/-- Read of GLB_TIME0: captures the timebase (R433, R435, R438). -/
def execGlbTimeCapture (size : Fin 9) (s : State) : Out :=
  let d := s.dev
  if !(d.clocked && sizeOk size) then .next (s.onDev fun d => { d with sys := { d.sys with busData := 0 } })
  else
    .next (s.onDev fun d =>
      { d with sys := { d.sys with busData := pairRead size (d.sys.time % 2 ^ 32) (d.sys.time / 2 ^ 32), timeCap := d.sys.time } })

/-- TRC_MARK (R427, R431). -/
def Dev.markOp (s : Dev) (w : Nat) : Dev :=
  if (s.serving || s.sys.mode = .quiesced) && bitAt (s.regN TRC) 0 then s.trace 13 38 0 none (leBytes 4 w) else s

def execMark (w : Word) (s : State) : Out := .next (s.disarm.onDev fun d => d.markOp w.toNat)

/-- Domain of a sample's unit class (R395, R418; log entry 15). -/
def classDomain (c : Nat) : Nat :=
  if c < 8 then c else listGet [17, 16, 29, 31, 32, 34, 16, 36] (c - 8) 38

/-- SAMPLE (R425, R426): the sample whose trigger was taken first is recorded, later ones still due are lost. -/
def Dev.sampleOp (s : Dev) (e : Nat) : Dev :=
  let sel := s.regN (PMC + 0x30)
  let due := s.inst.sampCount / (s.regN (PMC + 0x34))
  if s.clocked && bitAt sel 31 && bits sel 0 10 == e && decide (s.inst.sampTaken < due) then
    let tile := decide (e / 64 < 8)
    let (u, code, rcd, n) := s.inst.sampAt
    let lost := due - s.inst.sampTaken - 1
    let s1 := { s with inst := { s.inst with sampTaken := due } }
    let s2 := (s1.count (ev 15 5) lost).setRegN (TRC + 0x24) (min (s.regN (TRC + 0x24) + lost) 0xFFFFFFFF)
    let s3 := s2.trace 6 (classDomain (e / 64)) (if tile then u else 0) none
      (leBytes 2 e ++ leBytes 1 (if tile then code else 0xFF) ++ leBytes 1 0 ++ leBytes 2 (if tile then rcd else 0) ++ leBytes 2 (if tile then n else 0))
    let ctl := s.regN (PMC + 0x04)
    if bitAt ctl 2 then s3.trigger 0 (bits ctl 3 5) else s3
  else s

def execSample (e : Fin 1024) (s : State) : Out := .next (s.onDev fun d => d.sampleOp e)

/-- The 32 bytes of a trace record (R427). -/
def TRec.bytes (r : TRec) : Bytes :=
  leBytes 8 r.time ++ leBytes 1 r.typ ++ leBytes 1 r.domain ++ leBytes 2 r.source ++ slice r.payload 0 20

/-- Order of trace records in the ring: TIME, then DOMAIN, then SOURCE (R428). -/
def TRec.before (a b : TRec) : Bool :=
  decide (a.time < b.time) || (a.time == b.time && (decide (a.domain < b.domain) ||
    (a.domain == b.domain && decide (a.source < b.source))))

/-- The record that enters the ring next. -/
def firstTrace : List TRec → Option TRec
  | [] => none
  | r :: rs => match firstTrace rs with
    | some x => if x.before r then some x else some r
    | none => some r

/-- A record finds no room (R428). -/
def Dev.dropTrace (s : Dev) (r : TRec) : Dev :=
  let i := s.inst
  let s1 := { s with inst := { i with dropped := i.dropped + 1, dropTime := if i.dropped == 0 then r.time else i.dropTime } }
  (s1.count (ev 15 5) 1).setRegN (TRC + 0x24) (min (s1.regN (TRC + 0x24) + 1) 0xFFFFFFFF)

/-- Write one record to the ring, or nothing where there is no room or the access fails (R423, R424, R428). -/
def Dev.putTrace (s : Dev) (b : Bytes) : Option Dev :=
  let space := bitAt (s.regN TRC) 1
  let log2 := s.regN (TRC + 0x14)
  let ptr := s.reg64 (TRC + 0x18) (TRC + 0x1C)
  let slot := s.reg64 (TRC + 0x0C) (TRC + 0x10) + 32 * (s.inst.written % 2 ^ log2)
  if !(s.instOk space slot 32 && s.instOk space ptr 16) then none
  else
    match s.readSpace space (ptr + 8) 8 with
    | none => none
    | some cb =>
      if (s.inst.written + 2 ^ 64 - leNat cb) % 2 ^ 64 ≥ 2 ^ log2 then none
      else
        match s.writeSpace space slot b with
        | none => none
        | some s1 =>
          (s1.writeSpace space ptr (leBytes 8 (s1.inst.written + 1))).map fun s2 =>
            { s2 with inst := { s2.inst with written := s2.inst.written + 1 } }

/-- A host access of the trace ring fails (R301, R424): the read of CONSUMED, or with room a write. -/
def Dev.traceFails (s : Dev) : Bool :=
  let log2 := s.regN (TRC + 0x14)
  let ptr := s.reg64 (TRC + 0x18) (TRC + 0x1C)
  let slot := s.reg64 (TRC + 0x0C) (TRC + 0x10) + 32 * (s.inst.written % 2 ^ log2)
  !bitAt (s.regN TRC) 1 &&
    match s.hostRead (ptr + 8) 8 with
    | none => true
    | some cb =>
      decide ((s.inst.written + 2 ^ 64 - leNat cb) % 2 ^ 64 < 2 ^ log2) && (s.hostFails true slot 32 || s.hostFails true ptr 8)

/-- A record that could not be written is lost; a failed access sets DATA_FAULT (R424, R428). -/
def Dev.loseTrace (s : Dev) (r : TRec) : Dev := (if s.traceFails then s.dataFault 0 0 else s).dropTrace r

/-- TRACE_WRITE (R428): the record whose hold has ended enters the ring, after a DROP record where records were lost. DEDUCED, log entry 28. -/
def Dev.traceWriteOp (s : Dev) : Dev :=
  match firstTrace s.inst.trace with
  | none => s
  | some r =>
    if !s.instMay || decide (s.sys.time < r.time + 2 * usTicks) then s
    else
      let s1 := { s with inst := { s.inst with trace := s.inst.trace.erase r } }
      let s2 : Option Dev :=
        if s1.inst.dropped == 0 then some s1
        else (s1.putTrace (TRec.bytes ⟨s1.inst.dropTime, 10, 38, 0, leBytes 8 s1.inst.dropped⟩)).map fun t =>
          { t with inst := { t.inst with dropped := 0 } }
      match s2 with
      | none => s1.loseTrace r
      | some t => (t.putTrace r.bytes).getD (t.loseTrace r)

def execTraceWrite (s : State) : Out := .next (s.onDev Dev.traceWriteOp)

end Sys2Proof.Machine
end

