-- ==== Sys2Proof/Machine/RegWrite.lean ====
section
/-!
DEFINITION. REGISTER_WRITE (R7, R9, R433, R434, R436, R437, R442): a write of 1, 2, 4 or 8 bytes to a function's registers, and what
each register does with it.
-/
namespace Sys2Proof.Machine

/-! Access -/

/-- The bits of a register that an access of n bytes at byte b of it enables (R433). -/
def laneMask (b n : Nat) : Nat := (2 ^ (8 * n) - 1) * 2 ^ (8 * b) % 2 ^ 32

/-- A register's value with the enabled bits taken from v (R433). -/
def mergeBits (old v en : Nat) : Nat := (old &&& (0xFFFFFFFF ^^^ en)) ||| (v &&& en)

/-- A size and offset that R433 lets act: 1, 2, 4 or 8 bytes, naturally aligned. -/
def accessOk (off n : Nat) : Bool := sizeOk n && off % n == 0

/-- The register number that an offset of a function's BAR names (R437, R442): the physical function reads every window and
writes its own; a virtual function has its window alone. -/
def regAddrOf (f : Nat) (space : RegSpace) (off : Nat) : Option Nat :=
  match space with
  | .bar0 =>
    if f == 0 then (if RNG + 0x200 ≤ off && off < RNG + 0x8000 then none else some off)
    else if off < 0x200 then some (WINF f + off) else none
  | .bar4 => if off < 0x1000 then some (MSI f + off) else none
  | _ => none

/-- Function f takes register writes to block blk (R436): the physical function's blocks as the mode serves them, a virtual function's
window while the device is ready or quiesced. DEDUCED, log entry 141. -/
def Dev.regServed (s : Dev) (f : Nat) (space : RegSpace) (blk : Nat) : Bool :=
  s.exists f && !(s.fn f).d3 &&
    match s.sys.mode with
    | .ready => true
    | .quiesced => true
    | .boot => f == 0 && (space != .bar0 || blk ≤ 4 || blk == 0xE || blk == 0x20)
    | _ => false

/-! Registers with a rule of their own -/

/-- CLK_PLREQ (R415): a field outside 4 to 6 stores 4. -/
def plReq (v : Nat) : Nat :=
  sumN ((List.range 8).map fun p =>
    let d := bits v (4 * p) 4
    (if d < 4 || d > 6 then 4 else d) * 2 ^ (4 * p))

/-- A calibration item of R416. -/
def calItem (kind index : Nat) : Bool :=
  match kind with
  | 1 => index < 20
  | 2 => index < 15
  | 3 => index < 34
  | 4 => index < 8
  | 5 => index == 0
  | _ => false

/-- The key of the item that CAL_SEL selects, where there is one (R417). -/
def Dev.calKey (s : Dev) : Option Nat :=
  let v := s.regN CAL
  if calItem (bits v 8 4) (bits v 0 8) then some (bits v 8 4 * 256 + bits v 0 8) else none

/-- CAL_USER (R417). -/
def State.calUserWrite (s : State) (v en : Nat) : State :=
  match s.dev.calKey with
  | none => s
  | some k =>
    let x := mergeBits (toCode 16 (s.clk.calUser.get k 0)) v en
    { s with clk := { s.clk with calUser := s.clk.calUser.put k (sext 16 x) } }

/-- Word w of ADM_KEYDATA of the selected slot (R146). The slot's bit in ADM_KEYSTAT stays as INSTALL left it, and the bytes as they then stand are the
key. DESIGN CHOICE, log entry 171. -/
def Dev.keyDataWrite (s : Dev) (w v en : Nat) : Dev :=
  if s.keyLocked then s
  else
    s.noteKeys.setKey fun k =>
      let x := leBytes 4 (mergeBits (u32At k.data (4 * w)) v en)
      { k with data := k.data.take (4 * w) ++ x ++ k.data.drop (4 * w + 4) }

/-- ADM_KEYCTL (R146): REQUIRE_SIG, and LOCK by writing 1. -/
def Dev.keyCtlWrite (s : Dev) (v en : Nat) : Dev :=
  if s.keyLocked then s
  else
    let s1 := s.noteKeys.setRegN (ADM + 0x800) (mergeBits (s.regN (ADM + 0x800)) v (en &&& 1))
    if bitAt (v &&& en) 1 then s1.keyLock else s1

/-- PMC_CTL (R422, R430): the interval and FIRST start with DUMP_EN. -/
def Dev.pmcCtlWrite (s : Dev) (v : Nat) : Dev :=
  let s1 := s.setRegN (PMC + 0x04) v
  if bitAt v 0 && !bitAt (s.regN (PMC + 0x04)) 0 then
    { s1 with inst := { s1.inst with first := true, lastDump := s1.sys.time } }
  else s1

/-- PMC_SAMPSEL (R425): the count of occurrences starts when EN is set, and anew with another event (log entry 15). -/
def Dev.sampSelWrite (s : Dev) (v : Nat) : Dev :=
  let old := s.regN (PMC + 0x30)
  let s1 := s.setRegN (PMC + 0x30) v
  if bitAt v 31 && (!bitAt old 31 || bits old 0 10 != bits v 0 10) then
    { s1 with inst := { s1.inst with sampCount := 0, sampTaken := 0 } }
  else s1

/-- PMC_SAMPPER (R430): 0 stores 1; multiples already past bring no sample (log entry 15). -/
def Dev.sampPerWrite (s : Dev) (v : Nat) : Dev :=
  let p := max v 1
  let s1 := s.setRegN (PMC + 0x34) p
  { s1 with inst := { s1.inst with sampTaken := s1.inst.sampCount / p } }

/-- PWR_GATE as it stands: one bit per plain (R415). -/
def Dev.gateBits (s : Dev) : Nat := sumN ((List.range 8).map fun p => b2n (s.plain p).gated * 2 ^ p)

/-- TRC_CTL (R427, R429): a START record when EN is set. -/
def Dev.trcCtlWrite (s : Dev) (v : Nat) : Dev :=
  let s1 := s.setRegN TRC v
  if bitAt v 0 && !bitAt (s.regN TRC) 0 then s1.trace 14 38 0 none [BitVec.ofNat 8 s1.gateBits] else s1

/-- Store unless a condition makes the device ignore the write (R434). -/
def Dev.storeUnless (s : Dev) (ignore : Bool) (a v : Nat) : Dev := if ignore then s else s.setRegN a v

/-- The pool registers are held (R214). -/
def Dev.poolHeld (s : Dev) : Bool := s.poolInUse != 0 || s.media.streams.any fun e => !e.2.featSpans.isEmpty || !e.2.outSpans.isEmpty

/-- PWR_RSTCMD (R409). -/
def State.rstCmd (s : State) (v : Nat) : State :=
  if v == 0x5A02 then s.coldCmd else if v == 0x5A01 then s.warmCmd else s

/-- FUS_CMD (R381). -/
def State.fusCmd (s : State) (v : Nat) : State :=
  if bitAt v 8 then (if bits v 6 2 == 0 then s.burnRevoke (bits v 0 6) else s)
  else
    let i := bits v 0 8
    if 64 ≤ i && i < 192 then s.burnSoft (i - 64) else s

/-! Writes by access code (R9) -/

/-- A register of a function's window, or of the windows' bases and sizes (R308, R309), with the value after the write. -/
def Dev.rngWrite (s : Dev) (a v : Nat) : Dev :=
  let o := a - RNG
  if o ≥ 0x8000 then
    let f := (o - 0x8000) / 0x10
    s.storeUnless (bitAt (s.regN (WINF f)) 0) a v
  else
    let f := o / 0x200
    let w := o % 0x200
    if w == 0x20 then s.setRegN a (min v 10000)
    else s.storeUnless (0x10 ≤ w && w < 0x20 && bitAt (s.regN (WINF f)) 0) a v

/-- A whole RW register with its new value: the registers whose rule bounds it, makes the write ignored or has an effect. DEDUCED, log entry 139. -/
def State.rwWrite (s : State) (a v : Nat) : State :=
  s.onDev fun d =>
    if a == CLK + 0x08 then d.setRegN a (plReq v)
    else if a == PWR then (d.setRegN a v).refreshIdle
    else if a == PWR + 0x08 then d.setRegN a (min (max v 400) 650)
    else if a / 0x10000 == 5 then d.rngWrite a v
    else if a == MCH then d.setHead s.fuses.serial (bitAt v 0)
    else if a == PMC + 0x04 then d.pmcCtlWrite v
    else if a == PMC + 0x0C then d.setRegN a (min (max v 10) 1000000)
    else if PMC + 0x10 ≤ a && a ≤ PMC + 0x20 then d.storeUnless (bitAt (d.regN (PMC + 0x04)) 0) a v
    else if a == PMC + 0x30 then d.sampSelWrite v
    else if a == PMC + 0x34 then d.sampPerWrite v
    else if a == TRC then d.trcCtlWrite v
    else if TRC + 0x0C ≤ a && a ≤ TRC + 0x1C then d.storeUnless (bitAt (d.regN TRC) 0) a v
    else if a == HBM + 0x100 || a == HBM + 0x104 then d.storeUnless d.poolHeld a v
    else d.setRegN a v

/-- A W1C register: v holds the enabled ones (R433). -/
def State.w1cWrite (s : State) (a v : Nat) : State :=
  if a == ADM + 0x20 then s.onDev fun d => d.clearSusp v
  else s.onDev fun d => d.setRegN a (d.regN a - (d.regN a &&& v))

/-- Take the two commands of a write in the order of their bits. DEDUCED, log entry 140. -/
def State.cmdBit (s : State) (v b : Nat) (f : State → State) : State := if bitAt v b then f s else s

/-- A WO register: v holds the enabled ones (R433). DEDUCED, log entry 138. -/
def State.woWrite (s : State) (a v : Nat) : State :=
  if a == PWR + 0x18 then s.rstCmd v
  else if a == PWR + 0x10C then s.cmdBit v 0 fun t => t.startBoot ⟨[], [], [], [], [], false⟩
  else if a / 0x10000 == 5 then s.cmdBit v 0 fun t => t.onDev fun d => d.loadOp ((a - RNG) / 0x200)
  else if a == ADM + 0x80C then
    (s.cmdBit v 0 fun t => t.onDev Dev.keyInstall).cmdBit v 1 fun t => t.onDev Dev.keyErase
  else if a == MCH + 0x04 then
    ((s.cmdBit v 0 fun t => t.onDev fun d => d.enumOp s.fuses.serial).cmdBit v 1 fun t => t.onDev Dev.releaseAddr).cmdBit v 2
      fun t => t.onDev Dev.queryOp
  else if a == PMC + 0x08 then (s.cmdBit v 0 fun t => t.onDev Dev.clearCounters).cmdBit v 1 State.dumpNow
  else if a == TRC + 0x20 then s.onDev fun d => d.markOp v
  else if a == INJ then s.cmdBit v 1 fun t => t.onDev Dev.injLock
  else if a == INJ + 0x08 then s.onDev fun d => d.injWord v
  else if a == FUS + 0x0C then s.fuseArm v
  else if a == FUS + 0x10 then s.fusCmd v
  else if a == DBG + 0x04 then s.cmdBit v 0 fun t => t.onDev Dev.freezeCmd
  else if a == DBG + 0x104 then s.onDev fun d => d.testCmd (bits v 0 3)
  else s

/-- A write ends an arming, unless it is to FUS_ARM or FUS_CMD (R381). -/
def State.disarmFor (s : State) (a : Nat) : State := if a == FUS + 0x0C || a == FUS + 0x10 then s else s.disarm

/-- A write of the bits of v that en enables to register a, which the device serves. -/
def State.regWrite (s : State) (a v en : Nat) (r : RegSpec) : State :=
  match r.access with
  | .ro => s
  | .fx => s
  | .lk => if s.dev.sys.inj.unlocked then s.onDev fun d => d.setRegN a (mergeBits (d.regN a) v (en &&& r.mask)) else s
  | .wo => s.woWrite a (v &&& en)
  | .w1c => s.w1cWrite a (v &&& en &&& r.mask)
  | .rw =>
    if a == CAL + 0x08 then s.calUserWrite v (en &&& r.mask)
    else if a == ADM + 0x800 then s.onDev fun d => d.keyCtlWrite v en
    else if ADM + 0x810 ≤ a && a < ADM + 0x870 then s.onDev fun d => d.keyDataWrite ((a - (ADM + 0x810)) / 4) v en
    else s.rwWrite a (mergeBits (s.dev.regN a) v (en &&& r.mask))

/-- A write of n bytes v at an offset of one register (R433, R434, R436). ERR_STICKY0 to ERR_STICKY3 take writes in fail-stop too. -/
def State.writeWithin (s : State) (f : Nat) (space : RegSpace) (off n v : Nat) : State :=
  let en := laneMask (off % 4) n
  let w := v * 2 ^ (8 * (off % 4)) % 2 ^ 32
  match regAddrOf f space (off / 4 * 4) with
  | none => s.disarm
  | some a =>
    let t := s.disarmFor a
    match regSpec a with
    | none => t
    | some r =>
      if ERR ≤ a && a < ERR + 0x10 then t.clearSticky ((a - ERR) / 4) (w &&& en)
      else if t.dev.regServed f space (a / 0x10000) then t.regWrite a w en r
      else t

/-- A write of n bytes v (R433): an aligned 8-byte access is two of 4 bytes, the lower offset first. -/
def State.writeRegs (s : State) (f : Nat) (space : RegSpace) (off n v : Nat) : State :=
  if n == 8 then
    (s.writeWithin f space off 4 (v % 2 ^ 32)).writeWithin f space (off + 4) 4 (v / 2 ^ 32 % 2 ^ 32)
  else s.writeWithin f space off n (v % 2 ^ (8 * n))

/-- MSI-X Enable (bit 15) and Function Mask (bit 14) of function f's Message Control (R302; log entry 3). -/
def Dev.msixControlWrite (s : Dev) (f v : Nat) : Dev :=
  if s.clocked && s.exists f then
    s.setFn f { s.fn f with msixEn := bitAt v 15, fmask := bitAt v 14 }
  else s

/-- REGISTER_WRITE (R433, R434, R436, R437, R442): an access that is not aligned or not of 1, 2, 4 or 8 bytes is ignored. WAKE is
served apart (R290). The identity words of configuration space are read-only (R439). -/
def execRegisterWrite (f : Fin 64) (space : RegSpace) (off : BitVec 24) (size : Fin 9) (value : BitVec 64) (s : State) : Out :=
  if !accessOk off.toNat size then .next s
  else
    match space with
    | .msixControl => .next (s.onDev fun d => d.msixControlWrite f value.toNat)
    | .config => .next s
    | .bar2 => .next (if off.toNat < 4 then s.disarm.onDev fun d => d.wakeOp f else s.disarm)
    | _ => .next (s.writeRegs f space off.toNat size value.toNat)

end Sys2Proof.Machine
end

