-- ==== Sys2Proof/Machine/Tiles.lean ====
section
/-!
DEFINITION. Logical tiles (R76 to R104): the sequencer's records, tile SRAM, dispatch and retirement, and the sequencer's own micro-instructions. What a
record delivers is computed by whole executions (R100: results do not depend on how a record is expanded); micro-instructions act on the tile's own
state, and the counters they alone advance (R418).
-/
namespace Sys2Proof.Machine

/-! The sequencer's records -/

/-- A record in a tile's sequencer: package, program and index, its bytes, the sliver part that the tile holds (R53, R457), its
stream, its input and output grids (R109), and the logical tiles of its sliver parts in order (R140). -/
structure RecCtx where
  pkg    : Pkg
  kr     : Nat × Nat
  r      : Rec
  part   : Nat
  stream : Nat
  inGrid  : Nat × Nat
  outGrid : Nat × Nat
  tiles  : List Nat
deriving DecidableEq, Repr

/-- The sliver and the channel part that the tile holds (R457). -/
def RecCtx.sliver (c : RecCtx) : Nat := c.part / c.r.parts
def RecCtx.chPart (c : RecCtx) : Nat := c.part % c.r.parts

/-- First output channel of the tile's part. -/
def RecCtx.ch0 (c : RecCtx) : Nat := c.chPart * c.r.partCh

/-- Bias of output channel o as the bias registers hold it (R99): INT32 sign-extended, or the accumulator format. -/
def RecCtx.biasAt (c : RecCtx) (o : Nat) : Nat :=
  if c.r.biasOff == noOff then 0
  else if c.r.exact then toCode 64 (c.pkg.biasInt c.kr.1 c.r o)
  else c.pkg.biasFloat c.kr.1 c.r o

/-- The generators at the start of an execution (R52, R53, R97), changed by a cell's key in a wide re-run. -/
def RecCtx.seeds (c : RecCtx) (key : Nat) : List Nat := (List.range 16).map fun v => srSeed (c.r.seed ^^^ key) (c.part * 16 + v)

/-- Generators and scale registers at record issue (R97, R99). -/
def RecCtx.issue (c : RecCtx) : SavedRec :=
  { gens := c.seeds 0
    kappa := (List.range c.r.partCh).map fun o => c.pkg.kappaOf c.kr.1 c.r (c.ch0 + o)
    bias := (List.range c.r.partCh).map fun o => c.biasAt (c.ch0 + o) }

def SavedRec.none : SavedRec := { gens := [], kappa := [], bias := [] }

def ArrayState.blank : ArrayState := { activeW := [], shadow := [], acc := [] }

/-- A tile that nothing has touched: SRAM as it reads with nothing written (log entry 5), no record. -/
def Tile.blank : Tile :=
  { arrays := List.replicate 4 ArrayState.blank, sram := [], win := [], winRho := [], winGroup := 0, winWide := false, rhoW := 0, owner := none, stack := 0
    recs := [], cur := 0, begun := [], ended := [], kappa := [], bias := [], gens := [], saved := [], epi := [], rowQ := [], rowRho := 0
    rowWide := false, vregs := [], cells := [], stats := [], stored := [], inbox := [], rowIn := [], halos := [], stall := none, retired := 0, ckpt := []
    ckptHalos := [], planted := [] }

/-- The virtual plain and virtual tile that position i of a seat's tiles is (R148), given the tiles of each virtual plain. -/
def virtualTile : List Nat → Nat → Nat × Nat
  | [], i => (0, i)
  | n :: ns, i => if i < n then (0, i) else ((virtualTile ns (i - n)).1 + 1, (virtualTile ns (i - n)).2)

/-- Records cut into fused stacks (R118). -/
def fusedStacks (p : Pkg) : List (Nat × Nat) → List (List (Nat × Nat))
  | [] => []
  | kr :: rest =>
    match fusedStacks p rest with
    | [] => [[kr]]
    | st :: more => if (p.rcd kr.1 kr.2).fuse then (kr :: st) :: more else [kr] :: st :: more

/-- The sliver part of a record that a virtual tile holds under mapping m (R140, R457). -/
def Pkg.sliverPart (p : Pkg) (m v t : Nat) (kr : Nat × Nat) : Option Nat :=
  let r := p.rcd kr.1 kr.2
  if r.vplain == v then (tileListOf (p.prog kr.1) r m).findIdx? (· == t) else none

/-- What a tile serves: its seat's contract, stream and tiles, the stream's number, and its virtual plain and tile. -/
structure TileSeat where
  contract : Contract
  n        : Nat
  stream   : Stream
  v        : Nat
  t        : Nat
  tiles    : List Nat
deriving DecidableEq, Repr

/-- The seat of logical tile number tile, with a stream (R261, R262). -/
def Dev.tileSeat (s : Dev) (tile : Nat) : Option TileSeat :=
  match s.media.allSeats.find? fun e => e.2.tiles.contains tile with
  | none => none
  | some (c, t) =>
    match t.stream.bind fun n => (s.stream n).map fun x => (n, x) with
    | none => none
    | some (n, x) =>
      let p := s.pkgOf x
      let d := mapAt p.budget c.mapping
      let (v, k) := virtualTile ((List.range p.vplains).map (mapTiles d)) ((t.tiles.findIdx? (· == tile)).getD 0)
      some { contract := c, n := n, stream := x, v := v, t := k, tiles := t.tiles }

/-- The fused stacks of the stream's entry that a tile runs records of. DEDUCED, log entry 120. -/
def Dev.tileStacks (s : Dev) (q : TileSeat) : List (List (Nat × Nat)) :=
  let p := s.pkgOf q.stream
  let recs := ((p.entry (q.stream.entryKind q.stream.intra)).map (·.recs)).getD []
  (fusedStacks p recs).filter fun st => st.any fun kr => (p.sliverPart q.contract.mapping q.v q.t kr).isSome

/-- The input and output grids of a record of the stream's entry (R109). -/
def Dev.recGrids (s : Dev) (x : Stream) (kr : Nat × Nat) : (Nat × Nat) × (Nat × Nat) :=
  let p := s.pkgOf x
  let (w, h, _) := x.geo
  let recs := ((p.entry (x.entryKind x.intra)).map (·.recs)).getD []
  let e := (recs.takeWhile (· != kr)).foldl (fun t k => t.prepare true k) (Exec.start p recs w h)
  let r := p.rcd kr.1 kr.2
  let (iw, ih) := e.inDims kr r
  ((iw, ih), r.outDims iw ih)

/-- The logical tiles of a record's sliver parts (R140, R148). -/
def TileSeat.partTiles (q : TileSeat) (p : Pkg) (kr : Nat × Nat) : List Nat :=
  let r := p.rcd kr.1 kr.2
  let first := sumN ((List.range r.vplain).map (mapTiles (mapAt p.budget q.contract.mapping)))
  (tileListOf (p.prog kr.1) r q.contract.mapping).map fun k => listGet q.tiles (first + k) 0

/-- The context of a record on a tile's seat. -/
def Dev.recCtx (s : Dev) (q : TileSeat) (kr : Nat × Nat) : RecCtx :=
  let p := s.pkgOf q.stream
  let (i, o) := s.recGrids q.stream kr
  { pkg := p, kr := kr, r := p.rcd kr.1 kr.2, part := (p.sliverPart q.contract.mapping q.v q.t kr).getD 0, stream := q.n, inGrid := i, outGrid := o
    tiles := q.partTiles p kr }

/-- The next stack's records in the sequencer, their generators and scale registers at record issue (R97, R99, R100): their executions start, each
with its halo counters at zero (R116). -/
def Dev.loadStack (s : Dev) (q : TileSeat) (t : Tile) (k : Nat) : Tile :=
  let run := s.tileStacks q
  let recs := (listGet run (k % max 1 run.length) []).take 24
  let saved := (List.range recs.length).map fun i => (i, (s.recCtx q (listGet recs i (0, 0))).issue)
  let first := (saved.map (·.2)).headD SavedRec.none
  { t with owner := some (q.n, q.stream.gen), stack := k, recs := recs, cur := 0, begun := [], ended := [], saved := saved
           gens := first.gens, kappa := first.kappa, bias := first.bias, cells := [], stats := [], stored := [], inbox := [], rowIn := [], halos := [] }

/-- A tile as it stands; the first stack of its seat's stream is loaded where it holds another's records (R276). -/
def State.tileOf (s : State) (tile : Nat) : Tile :=
  let t := s.tiles.tiles.get tile Tile.blank
  match s.dev.tileSeat tile with
  | none => { t with owner := none, recs := [] }
  | some q => if t.owner == some (q.n, q.stream.gen) then t else s.dev.loadStack q t 0

def State.setTile (s : State) (tile : Nat) (t : Tile) : State := { s with tiles := { s.tiles with tiles := s.tiles.tiles.put tile t } }

/-- A tile dispatches micro-instructions: the block serves, its plain is up, it is not lost, and no halo wait stalls it (R100, R116). DEDUCED, log
entry 136. -/
def State.tileRuns (s : State) (tile : Nat) : Bool :=
  let x := s.dev.plain (tile / 256)
  s.dev.serving && !x.gated && !x.failed && !x.lost.contains (tile % 256) && (s.tileOf tile).stall.isNone

/-- Record number n of a tile's sequencer. -/
def State.ctxOf (s : State) (tile n : Nat) : Option RecCtx :=
  match s.dev.tileSeat tile, (s.tileOf tile).recs[n]? with
  | some q, some kr => some (s.dev.recCtx q kr)
  | _, _ => none

/-- Count n occurrences of a plain's event of the tile's plain (R418). -/
def State.tileCount (s : State) (tile e n : Nat) : State := s.onDev fun d => d.count (ev (tile / 256) e) n

/-! Tile SRAM (R89, R92, R389) -/

/-- The planted errors in the 64-bit groups that bytes a to a + n - 1 touch. -/
def Tile.errorsIn (t : Tile) (a n : Nat) : SMap Bool := t.planted.filter fun e => decide (a / 8 ≤ e.1) && decide (e.1 ≤ (a + n - 1) / 8)

/-- Read n bytes of a tile's SRAM from address a: none for a double-bit error; single-bit errors are corrected and counted (R92). What a program reads
of halo data before its halo wait is undefined (R91): it is what stands there at that moment. DESIGN CHOICE, log entry 165. -/
def State.sramRead (s : State) (tile a n : Nat) : Option (Bytes × State) :=
  let t := s.tileOf tile
  let es := t.errorsIn a n
  if es.any (·.2) then none
  else if es.isEmpty then some (t.sram.readN a n, s)
  else
    let s1 := s.setTile tile { t with planted := t.planted.filter fun e => !es.has e.1 }
    let s2 := s1.onDev fun d =>
      let x := d.plain (tile / 256)
      d.setPlain (tile / 256) { x with ecc := x.ecc.put (tile % 256) (min 0xFFFF (x.ecc.get (tile % 256) 0 + es.length)) }
    some (t.sram.readN a n, s2.tileCount tile 14 es.length)

/-- INJ_ERR is armed for the bank of a tile that byte address a lies in (R89, R389). -/
def Dev.injArmed (s : Dev) (tile a : Nat) : Bool :=
  let w := s.regN (INJ + 0x30)
  bitAt w 0 && bits w 2 3 == tile / 256 && bits w 5 8 == tile % 256 && bits w 13 2 == a / 128 % 4

/-- Write bytes to a tile's SRAM within one word from address a: the word is written atomically (R91), an armed error is planted in
its first group (R389), and errors under what is written are gone. DEDUCED, log entry 131. -/
def State.sramWrite (s : State) (tile a : Nat) (b : Bytes) : State :=
  let t := s.tileOf tile
  let b1 := b.take (128 - a % 128)
  let left := t.planted.filter fun e => !(decide (a / 8 ≤ e.1) && decide (e.1 ≤ (a + b1.length - 1) / 8))
  let t1 := { t with sram := t.sram.writeN a b1 }
  if s.dev.injArmed tile a then
    let w := s.dev.regN (INJ + 0x30)
    (s.setTile tile { t1 with planted := SMap.put left (a / 8) (bitAt w 1) }).onDev fun d => d.setRegN (INJ + 0x30) (putBits w 0 1 0)
  else s.setTile tile { t1 with planted := left }

/-! Dispatch and retirement (R100 to R102) -/

/-- Name the micro-instruction now dispatched, for sampling (R426). -/
def State.naming (s : State) (tile code rcd stream : Nat) : State :=
  s.onDev fun d => { d with inst := { d.inst with lastU := (tile, code, rcd, stream) } }

/-- A micro-instruction retires (R102, R418). DEDUCED, log entry 119. -/
def State.retire (s : State) (tile : Nat) : State :=
  let t := s.tileOf tile
  (s.setTile tile { t with retired := t.retired + 1 }).tileCount tile 16 1

/-- What follows a micro-instruction's effect: it retires; none is a double-bit error, which aborts the slice (R92, R376). -/
def State.finish (s : State) (tile : Nat) : Option State → State
  | some t => t.retire tile
  | none => s.tileFault tile

/-- Dispatch a micro-instruction that belongs to no record. DEDUCED, log entry 118. -/
def State.dispatch (s : State) (tile code : Nat) (body : State → Option State) : State :=
  if s.tileRuns tile then
    let s1 := s.naming tile code 0 0
    s1.finish tile (body s1)
  else s

/-- REC_START and REC_END (R427). -/
def State.recTrace (s : State) (tile typ : Nat) (c : RecCtx) : State :=
  s.onDev fun d =>
    let func := ((d.stream c.stream).map (·.func)).getD 0
    let unit := ((d.stream c.stream).bind fun x => (x.units.find? fun u => u.stage == .flying).map (·.number)).getD 0
    d.trace typ (tile / 256) tile (some (tile / 256)) (leBytes 2 (recCode c.kr.1 c.kr.2) ++ leBytes 2 c.stream ++ leBytes 8 unit ++ leBytes 1 func)

/-- The first micro-instruction of the execution of record n finds its generators seeded, in a redo as well (R97). -/
def Tile.startRecord (t : Tile) (c : RecCtx) (n : Nat) : Tile :=
  { t with begun := n :: t.begun, saved := t.saved.put n { t.saved.get n c.issue with gens := c.seeds 0 }
           gens := if t.cur == n then c.seeds 0 else t.gens }

/-- The execution of record n begins with its first micro-instruction. -/
def State.beginRec (s : State) (tile n : Nat) (c : RecCtx) : State :=
  let t := s.tileOf tile
  if t.begun.contains n then s else (s.setTile tile (t.startRecord c n)).recTrace tile 1 c

/-- Dispatch a micro-instruction of record n of the tile's sequencer; with no such record nothing is dispatched. -/
def State.dispatchRec (s : State) (tile code n : Nat) (body : RecCtx → State → Option State) : State :=
  match s.ctxOf tile n with
  | none => s
  | some c =>
    if s.tileRuns tile then
      let s1 := (s.naming tile code (recCode c.kr.1 c.kr.2) c.stream).beginRec tile n c
      s1.finish tile (body c s1)
    else s

/-- Change a tile. -/
def State.modTile (s : State) (tile : Nat) (f : Tile → Tile) : State := s.setTile tile (f (s.tileOf tile))

/-- Change an array of a tile. -/
def Tile.modArray (t : Tile) (a : Nat) (f : ArrayState → ArrayState) : Tile := { t with arrays := listMod t.arrays a f }

/-- NOP (R101). -/
def execUinstrNop (tile : Fin 2048) (s : State) : Out := .next (s.dispatch tile 0x00 some)

/-! Record switch, statistics, end (R69, R97, R99, R102) -/

/-- SRS: save the generators and scale registers of the current record, or restore those of record n (R97, R99). -/
def Tile.switchRec (t : Tile) (n : Nat) (restore : Bool) : Tile :=
  if restore then
    let x := t.saved.get n SavedRec.none
    { t with cur := n, gens := x.gens, kappa := x.kappa, bias := x.bias }
  else { t with saved := t.saved.put n { gens := t.gens, kappa := t.kappa, bias := t.bias } }

def execSrs (tile : Fin 2048) (rec : Fin 24) (restore : Bool) (s : State) : Out :=
  .next (s.dispatchRec tile 0x0F rec fun _ t => some (t.modTile tile fun x => x.switchRec rec restore))

/-- Write a statistics entry (R69); address 0 writes none. A failed host write is a data fault of the stream's first job (R301). -/
def State.writeStat (s : State) (n : Nat) (space : Bool) (a : Nat) (b : Bytes) : State :=
  s.onDev fun d =>
    match d.stream n with
    | none => d
    | some x =>
      if a == 0 || !d.mayWrite x.func || !d.addrOk x.func space a b.length then d
      else
        match d.writeSpace space a b with
        | some d1 => d1
        | none => match x.jobs with
          | j :: _ => d.jobFault n j.seq
          | [] => d.dataFault x.func 0

/-- A cell exceeds its record's threshold (R71). -/
def CellRun.exceeds (x : CellRun) (r : Rec) : Bool := decide (x.clipped * 65536 > r.clipThr * x.total)

/-- The record's statistics with the events of its cells on the tile (R69, R71, R75): over the threshold, re-run, narrow with the allowance spent,
Tamli. DEDUCED, log entry 162. -/
def Tile.statOf (t : Tile) (c : RecCtx) (n : Nat) : RecStat :=
  let high := (t.cells.filter fun e => e.1 / 2 ^ 64 == n && e.2.exceeds c.r).map (·.2)
  { t.stats.get n RecStat.zero with
    excess := !high.isEmpty, spent := c.r.rerun == 1 && high.any fun x => x.gens.isNone, tamli := c.r.rerun == 2 && !high.isEmpty }

/-- STAT (R69). DEDUCED, log entry 133. -/
def execStat (tile : Fin 2048) (rec : Fin 24) (space : Bool) (addr : BitVec 64) (s : State) : Out :=
  .next (s.dispatchRec tile 0x10 rec fun c t => some (t.writeStat c.stream space addr.toNat ((t.tileOf tile).statOf c rec).entry))

/-- The execution of record n ends on a tile (R97, R102, R375): its statistics and cells are done with, and the fault checkpoint takes the rows and halo
counters that carry over. DEDUCED, log entry 135. -/
def Tile.endRecord (t : Tile) (n : Nat) : Tile :=
  { t with begun := t.begun.filter (· != n), ended := n :: t.ended.filter (· != n), stats := t.stats.del n
           cells := t.cells.filter (fun e => e.1 / 2 ^ 64 != n), stored := t.stored.filter (fun e => e.1 / 2 ^ 64 != n)
           ckpt := t.sram, ckptHalos := t.halos }

/-- The next stack is loaded when every record of the present one has ended (R100, R119). -/
def State.nextStack (s : State) (tile : Nat) : State :=
  let t := s.tileOf tile
  match s.dev.tileSeat tile with
  | none => s
  | some q => if (List.range t.recs.length).all t.ended.contains then s.setTile tile (s.dev.loadStack q t (t.stack + 1)) else s

/-- END (R102). -/
def execEndRec (tile : Fin 2048) (rec : Fin 24) (s : State) : Out :=
  .next (s.dispatchRec tile 0x11 rec fun c t =>
    some (((t.modTile tile fun x => x.endRecord rec).recTrace tile 2 c).nextStack tile))

end Sys2Proof.Machine
end

