-- ==== Sys2Proof/Machine/Lines.lean ====
section
/-!
DEFINITION. Feature map rows in a tile and between tiles (R88, R91, R109 to R111, R115 to R117, R120, R121, R457): line buffers and row layout in
tile SRAM, the window register, position units, and the micro-instructions LDA, ST, HSND, HWT and XFR.
-/
namespace Sys2Proof.Machine

/-! Codes in words (R28, R110) -/

/-- Codes of w bits packed from the least significant bit upwards (R28). -/
def packCodes (w : Nat) (l : List Nat) : Bytes := leBytes (ceilDiv (l.length * w) 8) (l.foldr (fun c a => c + a * 2 ^ w) 0)

/-- Code i of a run of packed codes (R28). -/
def codeAt (w : Nat) (b : Bytes) (i : Nat) : Nat := bits (fieldAt b (i * w / 8) (ceilDiv (i * w % 8 + w) 8)) (i * w % 8) w

/-- Element i of a run of packed codes: the integer of an exact record, or the raw code. DEDUCED, log entry 122. -/
def elemAt (exact : Bool) (width : Nat) (b : Bytes) (i : Nat) : Int := if exact then sext width (codeAt width b i) else (codeAt width b i : Int)

/-- A row exponent byte: u8 in the exact class, i8 in the bounded class (R110). -/
def expByte (exact : Bool) (b : Nat) : Int := if exact then (b : Int) else sext 8 b

/-- Where the line buffer keeps slot r (word, byte) and the exponent of slot 0 (word, byte), by element width (R110). The table has no row for 2-bit
codes: they take the places of 4-bit ones, in the low bytes of each. DESIGN CHOICE, log entry 166. -/
def slotPlace (width r : Nat) : Nat × Nat :=
  match width with
  | 2 => (0, 8 * r)
  | 4 => (0, 8 * r)
  | 8 => (0, 16 * r)
  | 16 => (r / 4, 32 * (r % 4))
  | 32 => (r / 2, 64 * (r % 2))
  | _ => (r, 0)

def expPlace (width : Nat) : Nat × Nat :=
  match width with
  | 2 => (0, 112)
  | 4 => (0, 112)
  | 8 => (0, 112)
  | 16 => (1, 96)
  | 32 => (3, 64)
  | _ => (7, 0)

/-- The bytes of word k of a line buffer place that are reserved, or of row slots beyond KH (R110). -/
def lineReserved (width kh k : Nat) : List Nat :=
  (List.range 128).filter fun b => !(List.range kh).any fun j =>
    let (w, o) := slotPlace width j
    (w == k && decide (o ≤ b) && decide (b < o + 2 * width)) || ((expPlace width).1 == k && b == (expPlace width).2 + j)

/-! Places in tile SRAM -/

/-- Phase and row slot of input row y (R110). -/
def Rec.phaseOf (r : Rec) (y : Nat) : Nat := y % r.dil
def Rec.slotOf (r : Rec) (y : Nat) : Nat := y / r.dil % r.kh

/-- The columns of sliver i on a grid of width w: first, and one past the last (R114). -/
def sliverCols (r : Rec) (w i : Nat) : Nat × Nat := (i * r.sliverW, min ((i + 1) * r.sliverW) w)

/-- The input columns that sliver i reads (R115): first, and one past the last. -/
def RecCtx.readCols (c : RecCtx) (i : Nat) : Nat × Nat :=
  let (lo, hi) := sliverCols c.r c.outGrid.1 i
  let (a, b) := c.r.colsRead (lo : Int) ((hi : Int) - 1)
  if hi ≤ lo then (0, 0) else ((max a 0).toNat, (min (b + 1) c.inGrid.1).toNat)

/-- Address of a line buffer word (R110): by phase, column, 16-channel group and word, columns from the first that the sliver's kernel reaches. A line
buffer that a wide re-run may widen keeps the places of the 16-bit layout apart. DEDUCED, log entry 167. -/
def RecCtx.lineAddr (c : RecCtx) (y : Nat) (col : Int) (g k : Nat) : Nat :=
  let first := (c.r.colsRead ((c.sliver * c.r.sliverW : Nat) : Int) 0).1
  c.r.lbAddr + 128 * (((c.r.phaseOf y * c.r.lbCols + (col - first).toNat) * c.r.lbGroups + g) * lbWords (c.pkg.lbBits c.kr.1 c.r) + k)

/-- Row layout at OUT_ADDR (R110, R459): the codes of row y, in one of two buffers by turns, then its exponent bytes. DEDUCED, log entry 167. -/
def RecCtx.rowCodes (c : RecCtx) : Nat := ceilDiv (c.r.sliverW * c.r.partCh * c.r.outBits) 8
def RecCtx.rowBase (c : RecCtx) (y : Nat) : Nat := c.r.outAddr + y % 2 * (c.rowCodes + c.r.sliverW)

/-- The first bit of channel ch of column x in a row of row layout, and the address of the column's exponent byte. -/
def RecCtx.rowBit (c : RecCtx) (width x ch : Nat) : Nat := ((x - c.sliver * c.r.sliverW) * c.r.partCh + ch) * width
def RecCtx.rowExp (c : RecCtx) (y x : Nat) : Nat := c.rowBase y + c.rowCodes + (x - c.sliver * c.r.sliverW)

/-- The record's outputs go into the line buffer of the record after it. -/
def RecCtx.toLines (c : RecCtx) : Bool := intoLines (c.pkg.prog c.kr.1) c.kr.2 c.r

/-- Write at most 128 bytes to tile SRAM, whole words at a time (R91). -/
def State.sramPut (s : State) (tile a : Nat) (b : Bytes) : State :=
  let n := 128 - a % 128
  let s1 := s.sramWrite tile a (b.take n)
  if b.length ≤ n then s1 else s1.sramWrite tile (a + n) (b.drop n)

/-- Write codes into a run at a bit of the byte at address a (R89: byte enables). -/
def State.codesPut (s : State) (tile a bit width : Nat) (codes : List Nat) : State :=
  let n := ceilDiv (bit + codes.length * width) 8
  let old := leNat ((s.tileOf tile).sram.readN a n)
  s.sramPut tile a (leBytes n (putBits old bit (codes.length * width) (leNat (packCodes width codes))))

/-- Zero the bytes of a word that the line buffer layout reserves (R110). -/
def Tile.zeroBytes (t : Tile) (a : Nat) (bs : List Nat) : Tile := { t with sram := bs.foldl (fun m b => m.writeN (a + b) [0]) t.sram }

/-- Write codes of row y, column col, from channel ch on, into a line buffer, up to the end of their 16-channel group, with their exponent. -/
def State.linePut (s : State) (tile : Nat) (c : RecCtx) (width y col ch : Nat) (codes : List Nat) (rho : Nat) : State :=
  let slot := c.r.slotOf y
  let (w, off) := slotPlace width slot
  let (ew, eoff) := expPlace width
  let at_ (k : Nat) : Nat := c.lineAddr y col (ch / 16) k
  let s1 := s.codesPut tile (at_ w + off + ch % 16 * width / 8) (ch % 16 * width % 8) width (codes.take (16 - ch % 16))
  let s2 := s1.sramWrite tile (at_ ew + eoff + slot) [BitVec.ofNat 8 rho]
  s2.modTile tile fun t => [w, ew].foldl (fun t k => t.zeroBytes (at_ k) (lineReserved width c.r.kh k)) t

/-- Write a position's channels from ch on, group by group. -/
def State.linePutAll (tile : Nat) (c : RecCtx) (width y col rho : Nat) : Nat → Nat → List Nat → State → State
  | 0, _, _, s => s
  | n + 1, ch, codes, s =>
    if codes.isEmpty then s
    else State.linePutAll tile c width y col rho n (ch / 16 * 16 + 16) (codes.drop (16 - ch % 16)) (s.linePut tile c width y col ch codes rho)

/-! The window register (R109 to R111) -/

/-- Channels of a tap in the window register: those of one issue (R81, R111). -/
def Rec.span (r : Rec) (wide : Bool) : Nat := 16 * r.perCell (wide && !r.exact)

/-- The largest exponent of the real taps, 0 with none (R64, R111). -/
def windowRho (m : SMap Int) : Int :=
  match m with
  | [] => 0
  | e :: rest => rest.foldl (fun a x => max a x.2) e.2

/-- The window shifted left by n columns, for a kernel of kw columns (R111). -/
def shiftWin {α : Type} (per kw n : Nat) (m : SMap α) : SMap α :=
  m.filterMap fun e =>
    let tap := e.1 / per
    if tap % kw < n then none else some ((tap - n) * per + e.1 % per, e.2)

/-- The window with the shift of a load made. -/
def Tile.shifted (t : Tile) (r : Rec) (o : LdaOp) : Tile :=
  { t with win := shiftWin (r.span o.wide) r.kw o.shift t.win, winRho := shiftWin 256 r.kw o.shift t.winRho }

/-- The element width of a record's input: 16 bits in a wide layout (R110). -/
def ldaWidth (o : LdaOp) (r : Rec) : Nat := if o.wide then 16 else r.fmtA.width

/-- Input row of tap row j for output row yo, and input column of a load for output column xo (R109). -/
def Rec.tapRow (r : Rec) (yo j : Nat) : Int := (yo * r.stride : Nat) - (r.padT : Int) + (j * r.dil : Nat)
def Rec.tapCol (r : Rec) (xo kx : Nat) : Int := (xo * r.stride : Nat) - (r.padL : Int) + (kx * r.dil : Nat)

/-- The rows of a tap column that lie inside the grid: tap row and input row (R109). -/
def RecCtx.realRows (c : RecCtx) (yo xo kx : Nat) : List (Nat × Nat) :=
  let col := c.r.tapCol xo kx
  if col < 0 || decide (col ≥ c.inGrid.1) then []
  else (List.range c.r.kh).filterMap fun j =>
    let y := c.r.tapRow yo j
    if y < 0 || decide (y ≥ c.inGrid.2) then none else some (j, y.toNat)

/-- The window with one tap column loaded from word part b of a line buffer column; padding is code 0, and plays no part in the exponent (R109 to R111).
The exponent of the position is that of all its channel groups. DEDUCED, log entry 125. -/
def Tile.loadColumn (t : Tile) (c : RecCtx) (o : LdaOp) (yo xo : Nat) (b : Bytes) : Tile :=
  let r := c.r
  let width := ldaWidth o r
  let rows := c.realRows yo xo o.kx
  let col := r.tapCol xo o.kx
  let tap (j : Nat) : Nat := j * r.kw + o.kx
  let sub := 16 * (o.group.val % r.perCell (o.wide && !r.exact))
  let blank := (List.range r.kh).filter fun j => !rows.any fun e => e.1 == j
  let run (m : SMap Int) (j : Nat) (f : Nat → Int) : SMap Int :=
    (List.range 16).foldl (fun (a : SMap Int) i => a.put (tap j * r.span o.wide + sub + i) (f i)) m
  let w0 := blank.foldl (fun m j => run m j fun _ => 0) t.win
  let win := rows.foldl (fun m e =>
    let (w, off) := slotPlace width (r.slotOf e.2)
    if w == o.part.val then run m e.1 (elemAt r.exact width (b.drop off)) else m) w0
  let rho0 := t.winRho.filter fun e => !blank.contains (e.1 / 256 / r.kw) || e.1 / 256 % r.kw != o.kx.val
  let (ew, eoff) := expPlace width
  let rho := rows.foldl (fun m e => (List.range r.lbGroups).foldl (fun (a : SMap Int) g =>
    a.put (tap e.1 * 256 + g) (expByte r.exact (u8At (t.sram.readN (c.lineAddr e.2 col g ew + eoff + r.slotOf e.2) 1) 0))) m) rho0
  { t with win := win, winRho := rho, winGroup := o.group.val - o.group.val % r.perCell (o.wide && !r.exact), winWide := o.wide, rhoW := windowRho rho }

/-- The window with elements loaded from place n on, and the exponents of the position's channel groups. -/
def Tile.loadElems (t : Tile) (o : LdaOp) (n : Nat) (es : List Int) (rho : SMap Int) : Tile :=
  { t with win := (List.range es.length).foldl (fun (a : SMap Int) i => a.put (n + i) (listGet es i 0)) t.win
           winRho := rho, winGroup := o.group, winWide := o.wide, rhoW := windowRho rho }

/-- Channel and exponent key of window element n (R111). -/
def Tile.winCh (t : Tile) (r : Rec) (n : Nat) : Nat := 16 * t.winGroup + if r.lineBuf then n % r.span t.winWide else n
def Tile.winKey (t : Tile) (r : Rec) (n : Nat) : Nat := (if r.lineBuf then n / r.span t.winWide * 256 else 0) + t.winCh r n / 16

/-! Rows in row layout, and what other tiles sent of them (R110, R457) -/

/-- Key of a position that another tile sent: consuming record, sending part, row, column. -/
def rowInKey (rcd part y x : Nat) : Nat := ((rcd * 4 + part) * 2 ^ 32 + y) * 2 ^ 32 + x

/-- Key of a position or a cell of record n: column or band, and row (R68). -/
def cellKey (n x y : Nat) : Nat := (n * 2 ^ 32 + x) * 2 ^ 32 + y

/-- The record of a tile's sequencer that IN_A of another names. -/
def State.producer (s : State) (tile : Nat) (c : RecCtx) : Option (Nat × RecCtx) :=
  if srcKind c.r.inA != 1 then none
  else ((s.tileOf tile).recs.findIdx? (· == (c.kr.1, srcIdx c.r.inA))).bind fun n => (s.ctxOf tile n).map fun p => (n, p)

/-- Load from the producer's output rows (R110, R459), or from what another part or sliver sent. -/
def State.loadRows (s : State) (tile n : Nat) (c : RecCtx) (o : LdaOp) (y x elem : Nat) : Option State :=
  match s.producer tile c with
  | none => some s
  | some (_, p) =>
    let r := c.r
    let width := ldaWidth o r
    let t := s.tileOf tile
    let (x0, x1) := sliverCols p.r p.outGrid.1 p.sliver
    let own := decide (x0 ≤ x) && decide (x < x1)
    let sent (g : Nat) : List Int × Int × Bool := t.rowIn.get (rowInKey n g y x) ([], 0, false)
    let expOf (g : Nat) : Int :=
      if own && g == p.chPart then expByte r.exact (u8At (t.sram.readN (p.rowExp y x) 1) 0) else (sent g).2.1
    let rho : SMap Int := (List.range r.lbGroups).foldl (fun (m : SMap Int) g => m.put g (expOf (16 * g / max 1 p.r.partCh))) []
    let g := elem / max 1 p.r.partCh
    let ch := elem % max 1 p.r.partCh
    let first := elem - 16 * o.group.val
    if own && g == p.chPart then
      let bit := p.rowBit width x ch
      let a := p.rowBase y + bit / 8
      let w := a / 128 * 128
      let k := min ((8 * (w + 128 - a) - bit % 8) / width) (p.r.partCh - ch)
      (s.sramRead tile w 128).map fun e =>
        let b := e.1.drop (a - w)
        e.2.modTile tile fun z => (z.shifted r o).loadElems o first ((List.range k).map fun i =>
          let v := bits (leNat b) (bit % 8 + i * width) width
          if r.exact then sext width v else (v : Int)) rho
    else some (s.modTile tile fun z => (z.shifted r o).loadElems o first ((sent g).1.drop ch) rho)

/-- Load a word that the tile fetched, in row layout, from an element on (R110, R115). -/
def State.loadWord (s : State) (tile : Nat) (c : RecCtx) (o : LdaOp) (w elem rho : Nat) : Option State :=
  match s.sramRead tile (128 * w) 128 with
  | none => none
  | some (b, t) => (t.sramRead tile rho 1).map fun e =>
    let width := ldaWidth o c.r
    match o.toLine with
    | some (y, col) => e.2.linePut tile c width y col (16 * o.group.val) ((List.range 16).map fun i => codeAt width b (elem + i)) (u8At e.1 0)
    | none =>
      let k := min (1024 / width - elem) (c.r.cIn - 16 * o.group.val)
      let m : SMap Int := (List.range c.r.lbGroups).foldl (fun (m : SMap Int) g => m.put g (expByte c.r.exact (u8At e.1 0))) []
      e.2.modTile tile fun z => (z.shifted c.r o).loadElems o 0 ((List.range k).map fun i => elemAt c.r.exact width b (elem + i)) m

/-- Load a tap column from the record's line buffer; a column outside the grid reads no word (R109). -/
def State.loadLine (s : State) (tile : Nat) (c : RecCtx) (o : LdaOp) (yo xo : Nat) : Option State :=
  match c.realRows yo xo o.kx with
  | [] => some (s.modTile tile fun z => (z.shifted c.r o).loadColumn c o yo xo [])
  | e :: _ => (s.sramRead tile (c.lineAddr e.2 (c.r.tapCol xo o.kx) o.group o.part) 128).map fun r =>
    r.2.modTile tile fun z => (z.shifted c.r o).loadColumn c o yo xo r.1

/-- LDA: one word of activations into the window register or the line buffer (R110, R111). DEDUCED, log entry 125. -/
def execLda (tile : Fin 2048) (rec : Fin 24) (o : LdaOp) (s : State) : Out :=
  .next (s.dispatchRec tile 0x03 rec fun c t =>
    match o.src with
    | .line yo xo => t.loadLine tile c o yo xo
    | .rows y x elem => t.loadRows tile rec c o y x elem
    | .word w elem rho => t.loadWord tile c o w elem rho.toNat)

/-! Stores (R89, R110) -/

/-- Store codes of a position in row layout, as many as the word takes, and its exponent. -/
def State.rowPut (s : State) (tile : Nat) (c : RecCtx) (width y x ch : Nat) (codes : List Nat) (rho : Nat) : State :=
  let bit := c.rowBit width x ch
  let a := c.rowBase y + bit / 8
  let s1 := s.codesPut tile a (bit % 8) width (codes.take ((8 * (128 - a % 128) - bit % 8) / width))
  s1.sramWrite tile (c.rowExp y x) [BitVec.ofNat 8 rho]

/-- Width of the current row's codes, and the codes (R28). The row stage has flushed what R44 flushes. DEDUCED, log entry 130. -/
def Tile.rowWidth (t : Tile) (r : Rec) : Nat := if t.rowWide then 16 else r.fmtOut.width
def Tile.storeCodes (t : Tile) (r : Rec) (first count : Nat) : List Nat :=
  ((rangeFrom first count).filter (· < r.partCh)).map fun i => toCode (t.rowWidth r) (listGet t.rowQ i 0)

/-- Store a position's outputs where the record's consumer reads them (R89, R110, R459). -/
def State.store (s : State) (tile n : Nat) (c : RecCtx) (o : StOp) : State :=
  let x := s.tileOf tile
  let codes := x.storeCodes c.r o.first o.count
  let rho := toCode 8 x.rowRho
  let s1 :=
    if c.toLines then match s.ctxOf tile (n + 1) with
      | some m => s.linePut tile m (x.rowWidth c.r) o.y o.x (c.ch0 + o.first) codes rho
      | none => s
    else s.rowPut tile c (x.rowWidth c.r) o.y o.x o.first codes rho
  s1.modTile tile fun t => { t with stored := t.stored.put (cellKey n o.x o.y) x.rowWide }

/-- ST: one word of outputs, and the row's exponent byte (R89, R110). -/
def execSt (tile : Fin 2048) (rec : Fin 24) (o : StOp) (s : State) : Out :=
  .next (s.dispatchRec tile 0x0B rec fun c t => some (t.store tile rec c o))

/-! Position units (R120, R121) -/

/-- The codes of a group of 16 channels with its mask of those that are not zero (R120). -/
def unitGroup (w : Nat) (codes : List Nat) : Bytes :=
  leBytes 2 (sumN ((List.range codes.length).map fun i => if listGet codes i 0 == 0 then 0 else 2 ^ i)) ++ packCodes w (codes.filter (· != 0))

/-- A position unit (R120): exponent, Z and WIDE, and codes; compressed exactly when ZC is 1 and the compressed unit is shorter (R121). -/
def positionUnit (zc : Bool) (w : Nat) (wide : Bool) (rho : Nat) (codes : List Nat) : Bytes :=
  let plain := packCodes w codes
  let short := (chunks 16 (ceilDiv codes.length 16) codes).flatMap (unitGroup w)
  let z := zc && decide (short.length < plain.length)
  leBytes 1 rho ++ leBytes 1 (b2n z + 2 * b2n wide) ++ if z then short else plain

/-- The codes of n channels in groups of 16 (R120), and the bytes after them; none where bytes are missing. -/
def readGroups (w : Nat) : Nat → Nat → Bytes → Option (List Nat × Bytes)
  | 0, _, b => some ([], b)
  | k + 1, n, b =>
    let m := u16At b 0
    let c := min n 16
    let live := (List.range c).filter fun i => bitAt m i
    let len := 2 + ceilDiv (live.length * w) 8
    if b.length < len then none
    else
      let codes := (List.range c).map fun i => if bitAt m i then codeAt w (b.drop 2) (live.findIdx (· == i)) else 0
      (readGroups w k (n - c) (b.drop len)).map fun r => (codes ++ r.1, r.2)

/-- A position unit of C channels read back (R120): exponent byte, WIDE, codes, and the bytes after it. -/
def readUnit (w C : Nat) (b : Bytes) : Option ((Nat × Bool × List Nat) × Bytes) :=
  let f := u8At b 1
  let wide := bitAt f 1
  let ww := if wide then 16 else w
  let n := ceilDiv (C * ww) 8
  if b.length < 2 then none
  else if bitAt f 0 then (readGroups ww (ceilDiv C 16) C (b.drop 2)).map fun r => ((u8At b 0, wide, r.1), r.2)
  else if b.length < 2 + n then none
  else some ((u8At b 0, wide, (List.range C).map (codeAt ww (b.drop 2))), b.drop (2 + n))

/-- n position units in a row. -/
def readUnits (w C : Nat) : Nat → Bytes → Option (List (Nat × Bool × List Nat))
  | 0, _ => some []
  | n + 1, b => (readUnit w C b).bind fun u => (readUnits w C n u.2).map (u.1 :: ·)

/-- Read runs of tile SRAM one after another (R92). -/
def State.readRuns (tile : Nat) : List (Nat × Nat) → State → Option (List Bytes × State)
  | [], s => some ([], s)
  | (a, n) :: rest, s => (s.sramRead tile a n).bind fun r => (State.readRuns tile rest r.2).map fun q => (r.1 :: q.1, q.2)

/-- Read n channels from ch on of row y, column col, in a line buffer: codes and exponent byte. -/
def State.lineGet (s : State) (tile : Nat) (c : RecCtx) (width y col ch n : Nat) : Option ((List Nat × Nat) × State) :=
  let slot := c.r.slotOf y
  let (w, off) := slotPlace width slot
  let (ew, eoff) := expPlace width
  let g0 := ch / 16
  let gs := rangeFrom g0 ((ch + n - 1) / 16 + 1 - g0)
  (State.readRuns tile ((c.lineAddr y col g0 ew + eoff + slot, 1) :: gs.map fun g => (c.lineAddr y col g w + off, 2 * width)) s).map fun r =>
    (((rangeFrom ch n).map fun i => codeAt width (listGet r.1 (1 + i / 16 - g0) []) (i % 16), u8At (r.1.headD []) 0), r.2)

/-- Read the tile's part of an output position of record n where the record stored it: codes, exponent byte and WIDE; zeros where no record reads
them. -/
def State.outGet (s : State) (tile n : Nat) (c : RecCtx) (y x : Nat) : Option ((List Nat × Nat × Bool) × State) :=
  let wide := (s.tileOf tile).stored.get (cellKey n x y) false
  let width := if wide then 16 else c.r.fmtOut.width
  if c.toLines then match s.ctxOf tile (n + 1) with
    | some m => (s.lineGet tile m width y x c.ch0 c.r.partCh).map fun r => ((r.1.1, r.1.2, wide), r.2)
    | none => some ((List.replicate c.r.partCh 0, 0, wide), s)
  else
    let bit := c.rowBit width x 0
    (State.readRuns tile [(c.rowBase y + bit / 8, ceilDiv (bit % 8 + c.r.partCh * width) 8), (c.rowExp y x, 1)] s).map fun r =>
      (((List.range c.r.partCh).map fun i => bits (leNat (r.1.headD [])) (bit % 8 + i * width) width, u8At (listGet r.1 1 []) 0, wide), r.2)

/-- The units of the positions given, and the bytes they take uncompressed (R120, R121). -/
def State.outUnits (tile n y : Nat) (c : RecCtx) : List Nat → State → Option ((Bytes × Nat) × State)
  | [], s => some (([], 0), s)
  | x :: xs, s => (s.outGet tile n c y x).bind fun r =>
    let (codes, rho, wide) := r.1
    let w := if wide then 16 else c.r.fmtOut.width
    (State.outUnits tile n y c xs r.2).map fun q =>
      ((positionUnit c.r.zc w wide rho codes ++ q.1.1, 2 + ceilDiv (codes.length * w) 8 + q.1.2), q.2)

/-! Halos (R115, R116, R457) -/

/-- Row y of record n is complete on its tile (R116): every position is stored, and every cell is final. -/
def Tile.rowFinal (t : Tile) (c : RecCtx) (n y : Nat) : Bool :=
  let (x0, x1) := sliverCols c.r c.outGrid.1 c.sliver
  (rangeFrom x0 (x1 - x0)).all (fun x => t.stored.has (cellKey n x y)) &&
    t.cells.all fun e => e.1 / 2 ^ 64 != n || e.1 % 2 ^ 32 != y || e.2.gens.isNone || decide (e.2.total ≤ e.2.wide)

/-- Record m reads record c of its stack as an input that has halos (R115). -/
def RecCtx.readsHalo (m c : RecCtx) : Bool :=
  let names (x : Nat) : Bool := srcKind x == 1 && srcIdx x == c.kr.2
  m.kr.1 == c.kr.1 && decide (1 ≤ m.r.op) && decide (m.r.op ≤ 4) && c.r.op != 5 && (names m.r.inA || (m.r.op == 4 && names m.r.inB))

/-- The columns that a sliver of a producer sends to a sliver of its consumer: those that the one produces and the other reads (R115, R457). -/
def haloCols (c m : RecCtx) (src dst : Nat) : List Nat :=
  let (a, b) := sliverCols c.r c.outGrid.1 src
  let (lo, hi) := m.readCols dst
  rangeFrom (max a lo) (min b hi - max a lo)

/-- The sliver that a transfer goes to. -/
def haloSliver (sliver side : Nat) : Option Nat :=
  if side == 2 then some sliver else if side == 1 then some (sliver + 1) else if sliver == 0 then none else some (sliver - 1)

/-- The tile that a transfer of record c to record m goes to, and its sliver: a neighbour's part, or another part of the tile's own sliver (R116,
R457). -/
def haloDest (c m : RecCtx) (o : HaloOp) : Option (Nat × Nat) :=
  (haloSliver c.sliver o.side).bind fun d =>
    if o.part.val ≥ m.r.parts || (o.side.val == 2 && o.part.val == c.chPart) then none else (m.tiles[d * m.r.parts + o.part.val]?).map fun t => (t, d)

/-- A word of a row's transfer goes on the mesh (R13, R116, R120). The flits of a transfer are free (R418; log entry 2). -/
def State.sendHalo (s : State) (tile n : Nat) (c m : RecCtx) (o : HaloOp) : Option State :=
  match haloDest c m o with
  | none => some s
  | some (dest, d) =>
    (State.outUnits tile n o.y c (haloCols c m c.sliver d) s).map fun r =>
      let words := ceilDiv r.1.1.length 128
      if o.k.val ≥ words then r.2
      else
        let last := o.k.val + 1 == words
        let msg : HaloMsg :=
          { dest := dest, prod := n, rcd := o.cons, side := if o.side.val == 2 then 2 else 1 - o.side.val, part := c.chPart, y := o.y, last := last
            data := slice r.1.1 (128 * o.k.val) 128 }
        let t1 : State := { r.2 with tiles := { r.2.tiles with mesh := r.2.tiles.mesh ++ [msg] } }
        ((t1.onDev fun v => v.draw.2).tileCount tile 12 (t1.dev.draw.1 % 65536)).tileCount tile 13 (if last then ceilDiv r.1.2 128 - words else 0)

/-- HSND: one word of halo data to a named neighbour (R116). The sequencer dispatches it once the row is complete. DEDUCED, log entry 168. -/
def execHsnd (tile : Fin 2048) (rec : Fin 24) (o : HaloOp) (s : State) : Out :=
  match s.ctxOf tile rec, s.ctxOf tile o.cons with
  | some c, some m =>
    if (s.tileOf tile).rowFinal c rec o.y && m.readsHalo c then .next (s.dispatchRec tile 0x0C rec fun c t => t.sendHalo tile rec c m o) else .next s
  | _, _ => .next s

/-- Key of a halo counter: record, side, sending part (R116, R457). -/
def haloKey (rcd side part : Nat) : Nat := rcd * 16 + side * 4 + part

/-- Write a received position: into the line buffer of the record that reads it, or beside its row layout (R110, R457; log entry 169). -/
def State.putPosition (s : State) (tile rcd part y x : Nat) (c m : RecCtx) (u : Nat × Bool × List Nat) : State :=
  let width := if u.2.1 then 16 else c.r.fmtOut.width
  if m.r.lineBuf then State.linePutAll tile m width y x u.1 (u.2.2.length + 1) (part * c.r.partCh) u.2.2 s
  else
    let es := u.2.2.map fun v => if c.r.exact then sext width v else (v : Int)
    s.modTile tile fun t => { t with rowIn := t.rowIn.put (rowInKey rcd part y x) (es, expByte c.r.exact u.1, u.2.1) }

/-- A row's transfer is complete on tile: its positions are written (R116, R120). -/
def State.putHalo (s : State) (tile : Nat) (m : HaloMsg) (b : Bytes) : State :=
  match s.ctxOf tile m.prod, s.ctxOf tile m.rcd with
  | some c, some r =>
    match haloSliver r.sliver m.side with
    | none => s
    | some src =>
      let xs := haloCols c r src r.sliver
      match readUnits c.r.fmtOut.width c.r.partCh xs.length b with
      | none => s
      | some us => (xs.zip us).foldl (fun t e => t.putPosition tile m.rcd m.part m.y e.1 c r e.2) s
  | _, _ => s

/-- HALO_RECEIVE: the first halo word for a tile arrives; the last of a row writes the row's positions and counts the row, and a satisfied wait ends
(R91, R116). -/
def execHaloReceive (tile : Fin 2048) (s : State) : Out :=
  let x := s.dev.plain (tile.val / 256)
  if !s.dev.serving || x.gated || x.failed then .next s
  else
    match s.tiles.mesh.find? fun m => m.dest == tile.val with
    | none => .next s
    | some m =>
      let s1 := { s with tiles := { s.tiles with mesh := s.tiles.mesh.erase m } }
      let key := haloKey m.rcd m.side m.part
      let b := (s1.tileOf tile).inbox.get key [] ++ m.data
      if !m.last then .next (s1.modTile tile fun t => { t with inbox := t.inbox.put key b })
      else
        let s2 := s1.putHalo tile m b
        let t := s2.tileOf tile
        let n := t.halos.get key 0 + 1
        let done := match t.stall with
          | some w => w.1 == key && decide (w.2 ≤ n)
          | none => false
        let s3 := s2.setTile tile { t with inbox := t.inbox.del key, halos := t.halos.put key n, stall := if done then none else t.stall }
        .next (if done then s3.retire tile else s3)

/-- HWT: wait until a halo counter reaches a value; it retires when the wait ends (R100, R116). DEDUCED, log entry 132. -/
def execHwt (tile : Fin 2048) (rec : Fin 24) (side : Fin 3) (part : Fin 4) (value : Nat) (s : State) : Out :=
  match s.ctxOf tile rec with
  | none => .next s
  | some c =>
    if !s.tileRuns tile then .next s
    else
      let s1 := (s.naming tile 0x0D (recCode c.kr.1 c.kr.2) c.stream).beginRec tile rec c
      let t := s1.tileOf tile
      let key := haloKey rec side part
      if value ≤ t.halos.get key 0 then .next (s1.retire tile)
      else .next (s1.setTile tile { t with stall := some (key, value) })

/-! Spills and fills (R14, R88, R117, R120) -/

/-- 16 accumulator entries as they spill (R88), consecutive ones in the order of the columns. DESIGN CHOICE, log entry 170. -/
def Tile.accBytes (t : Tile) (arr first : Nat) : Bytes :=
  (List.range 16).flatMap fun i => leBytes 8 ((listGet t.arrays arr ArrayState.blank).acc.get (16 * first + i) 0)

/-- The halo counters of a record as they spill (R117). DESIGN CHOICE, log entry 163. -/
def Tile.counterBytes (t : Tile) (n : Nat) : Bytes := (List.range 16).flatMap fun i => leBytes 8 (t.halos.get (16 * n + i) 0)

/-- The word at a transfer's place. -/
def State.placeRead (s : State) (tile : Nat) : XferPlace → Bytes
  | .pool w => (s.dev.plain (tile / 256)).pool.readN (128 * w) 128
  | .hbm a => s.dev.dmem.readN a.toNat 128

/-- Store a word at a transfer's place. -/
def State.placeWrite (s : State) (tile : Nat) (p : XferPlace) (b : Bytes) : State :=
  s.onDev fun d =>
    match p with
    | .pool w => d.setPlain (tile / 256) { d.plain (tile / 256) with pool := (d.plain (tile / 256)).pool.writeN (128 * w) b }
    | .hbm a => d.putDev a.toNat b

/-- A transfer's place exists, and a record that goes to HBM names a spill address (R14, R149). DEDUCED, log entry 134. -/
def placeOk (r : Rec) : XferPlace → Bool
  | .pool _ => true
  | .hbm a => r.stateAddr != 0 && decide (a.toNat + 128 ≤ modelStore)

/-- The units of the columns given of a row in the record's line buffer, from channel ch on, in the form of the producer's transfers. -/
def State.lineUnits (tile : Nat) (c : RecCtx) (zc wide : Bool) (width y ch n : Nat) : List Nat → State → Option (Bytes × State)
  | [], s => some ([], s)
  | x :: xs, s => (s.lineGet tile c width y x ch n).bind fun r =>
    (State.lineUnits tile c zc wide width y ch n xs r.2).map fun q => (positionUnit zc width wide r.1.2 r.1.1 ++ q.1, q.2)

/-- What feeds a record's line buffer, as its spills see it (R117, R120): channels of a part, element width, ZC. -/
def State.feed (s : State) (tile : Nat) (c : RecCtx) : Nat × Nat × Bool :=
  match s.producer tile c with
  | some (_, p) => (p.r.partCh, p.r.fmtOut.width, p.r.zc)
  | none => (c.r.cIn, c.r.fmtA.width, false)

/-- The input columns of the tile's sliver. -/
def RecCtx.lineCols (c : RecCtx) : List Nat := let (lo, hi) := c.readCols c.sliver; rangeFrom lo (hi - lo)

/-- A word of a line buffer row arrives from its spill; with the last, the row is in the line buffer again (R117, R120). -/
def State.fillLine (s : State) (tile n : Nat) (c : RecCtx) (y part k : Nat) (b : Bytes) : State :=
  let (ch, width, _) := s.feed tile c
  let key := 2 ^ 16 + haloKey n 0 part
  let all := (if k == 0 then [] else (s.tileOf tile).inbox.get key []) ++ b
  let xs := c.lineCols
  match readUnits width ch xs.length all with
  | none => s.modTile tile fun t => { t with inbox := t.inbox.put key all }
  | some us =>
    (xs.zip us).foldl (fun t e => State.linePutAll tile c (if e.2.2.1 then 16 else width) y e.1 e.2.1 (e.2.2.2.length + 1) (part * ch) e.2.2.2 t)
      (s.modTile tile fun t => { t with inbox := t.inbox.del key })

/-- Spill one word, or fill it (R88, R101, R117). -/
def State.transfer (s : State) (tile : Nat) (c : RecCtx) (o : XfrOp) : Option State :=
  let n := o.record.val
  match o.unit, o.fill with
  | .sram w, false => (s.sramRead tile (128 * w) 128).map fun r => r.2.placeWrite tile o.place r.1
  | .sram w, true => some (s.sramWrite tile (128 * w) (s.placeRead tile o.place))
  | .acc arr first, false => some (s.placeWrite tile o.place ((s.tileOf tile).accBytes arr first))
  | .acc arr first, true =>
    let b := s.placeRead tile o.place
    some (s.modTile tile fun x => x.modArray arr fun a =>
      { a with acc := (List.range 16).foldl (fun (m : SMap Nat) i => m.put (16 * first + i) (fieldAt b (8 * i) 8)) a.acc })
  | .line y part wide k, false =>
    let (ch, width, zc) := s.feed tile c
    if !c.r.lineBuf then some s
    else (State.lineUnits tile c zc wide (if wide then 16 else width) y (part * ch) ch c.lineCols s).map fun r =>
      if k.val * 128 ≥ r.1.length then r.2 else r.2.placeWrite tile o.place (slice r.1 (128 * k.val) 128)
  | .line y part _ k, true => some (if c.r.lineBuf then s.fillLine tile n c y part k (s.placeRead tile o.place) else s)
  | .counters, false => some (s.placeWrite tile o.place ((s.tileOf tile).counterBytes n))
  | .counters, true =>
    let b := s.placeRead tile o.place
    some (s.modTile tile fun x => { x with halos := (List.range 16).foldl (fun (m : SMap Nat) i => m.put (16 * n + i) (fieldAt b (8 * i) 8)) x.halos })

/-- XFR (R88, R117, R418). -/
def execXfr (tile : Fin 2048) (o : XfrOp) (s : State) : Out :=
  .next (s.dispatchRec tile 0x0E o.record fun c t =>
    if placeOk c.r o.place then (t.transfer tile c o).map fun u => u.tileCount tile 19 1 else some t)

end Sys2Proof.Machine
end

