-- ==== Sys2Proof/Machine/Arrays.lean ====
section
/-!
DEFINITION. The arrays of a tile (R77 to R88, R101, R103): weight loads and swaps, issues, accumulators and read-out, through the repair map of
the physical tile.
-/
namespace Sys2Proof.Machine

/-! Weights (R78) -/

/-- Physical cell of logical row i and column j of an array (R103): 66 columns a row. -/
def ArrayRepair.cell (m : ArrayRepair) (i j : Nat) : Nat := m.row i * 66 + m.col j

/-- The repair of array an of a logical tile: that of the physical tile which serves it (R103, R375). -/
def State.repairOf (s : State) (tile an : Nat) : ArrayRepair :=
  let x := s.dev.plain (tile / 256)
  x.arrays.get (4 * x.posOf (tile % 256) + an) ArrayRepair.none

/-- The shadow words with part p of 64 of the logical cells replaced by the 16 words of 64 bits of a 128-byte word. -/
def loadShadow (rep : ArrayRepair) (m : SMap Nat) (p : Nat) (b : Bytes) : SMap Nat :=
  (List.range 16).foldl (fun (a : SMap Nat) i => a.put (rep.cell ((16 * p + i) / 64) ((16 * p + i) % 64)) (fieldAt b (8 * i) 8)) m

/-- LDW: one word into the shadow words of 1/64 of an array (R78). DEDUCED, log entry 121. -/
def execLdw (tile : Fin 2048) (arr : Fin 4) (part : Fin 64) (word : Fin 2048) (s : State) : Out :=
  .next (s.dispatch tile 0x01 fun t =>
    (t.sramRead tile (128 * word) 128).map fun r =>
      r.2.modTile tile fun x => x.modArray arr fun a => { a with shadow := loadShadow (t.repairOf tile arr) a.shadow part r.1 })

/-- Active and shadow words exchanged. -/
def ArrayState.swap (a : ArrayState) : ArrayState := { a with activeW := a.shadow, shadow := a.activeW }

/-- SWP: swap the words of the named arrays (R78). -/
def execSwp (tile : Fin 2048) (arrs : BitVec 4) (s : State) : Out :=
  .next (s.dispatch tile 0x02 fun t =>
    some (t.modTile tile fun x => (List.range 4).foldl (fun (y : Tile) a => if arrs.getLsbD a then y.modArray a ArrayState.swap else y) x))

/-! Issues (R77 to R88) -/

/-- The shape of a record: one for its whole execution (R80). -/
def Rec.shapeOf (r : Rec) : Shape := if r.shape == 1 then .d8 else if r.shape == 2 then .d4 else .d16

/-- Array splits of a shape: parts of a column, rows of a part (R79). -/
def shapeSplit : Shape → Nat
  | .d16 => 1
  | .d8 => 2
  | .d4 => 4

/-- Accumulator entry e of part h of column j (R86). -/
def accKey (sh : Shape) (j h e : Nat) : Nat := (j * shapeSplit sh + h) * (16 / shapeSplit sh) + e % (16 / shapeSplit sh)

/-- Output channel of column j, part h, of array a, within the tile's channel part (R77, R79). -/
def chanOf (sh : Shape) (group a j h : Nat) : Nat := 256 * shapeSplit sh * group + 64 * shapeSplit sh * a + 64 * h + j

/-- Code number k of a weight word (R78). -/
def wordCode (f : Fmt) (word k : Nat) : Nat := bits word (k * f.width) f.width

/-- Start slots of an issue (R84): limb pairs of a bounded issue, the two passes of an INT16 issue. -/
def Rec.slots (r : Rec) (act16 wide : Bool) : Nat :=
  if r.exact then (if act16 then 2 else 1)
  else
    match (if wide then Fmt.fp16 else r.fmtA) with
    | .fp16 => 9
    | .fp32 => 36
    | .fp64 => 196
    | _ => 1

/-- A window element lies within the record's reduction length: the products of others are zero (R80). -/
def Tile.live (t : Tile) (r : Rec) (n : Nat) : Bool := decide (t.winCh r n < r.cIn)

/-- Aligned window element n of an exact issue in a pass (R31, R64): the whole code, its signed high byte or its low byte. -/
def Tile.actInt (t : Tile) (r : Rec) (act16 : Bool) (pass n : Nat) : Int :=
  let rho := (SMap.find t.winRho (t.winKey r n)).getD t.rhoW
  let a := if t.live r n then rshiftRne (t.win.get n 0) (t.rhoW - rho).toNat else 0
  if !act16 then a else if pass == 0 then a / 256 else a % 256

/-- Window element n of a bounded issue in the cell operand form, its row exponent added (R37, R39). -/
def Tile.actOp (t : Tile) (r : Rec) (n : Nat) : CellOp :=
  (cellOp (windowFmt r.fmtA t.winWide) (t.win.get n 0).toNat).scale (t.winRho.get (t.winKey r n) 0)

/-- Weight words of an array read by logical row and column (R103). -/
def ArrayState.word (a : ArrayState) (rep : ArrayRepair) (i j : Nat) : Nat := a.activeW.get (rep.cell i j) 0

/-- The terms of one part of a column: window element and weight code (R77, R79, R81). -/
def macTerms (rep : ArrayRepair) (sh : Shape) (per first code : Nat) (f : Fmt) (a : ArrayState) (j h : Nat) : List (Nat × Nat) :=
  let d := 16 / shapeSplit sh
  (List.range d).flatMap fun i => (List.range per).map fun k =>
    (first + per * i + k, wordCode f (a.word rep (h * d + i) j) (per * code + k))

/-- The exact group sum of an issue (R31, R83, R85). -/
def Tile.exactSum (t : Tile) (r : Rec) (act16 : Bool) (pass : Nat) (ts : List (Nat × Nat)) : Int :=
  (ts.foldl (fun (s : Int) x => s + t.actInt r act16 pass x.1 * intCode r.fmtW x.2) 0) * (if act16 && pass == 0 then 256 else 1)

/-- The group value of a bounded issue (R41, R43, R45); the window is that of what the issue reads (R39). -/
def Tile.boundedSum (t : Tile) (r : Rec) (wide : Bool) (kappa : Int) (ts : List (Nat × Nat)) : FVal :=
  groupValue (ts.map fun x => if t.live r x.1 then ((cellOp r.fmtW x.2).scale kappa).mul (t.actOp r x.1) else .fin false 0 0)
    (windowBits (windowFmt r.fmtA (wide || t.winWide)))

/-- An exact accumulator entry as it is held (R86): 48 bits, sign-extended to 64. -/
def accCode (x : Int) : Nat := toCode 64 (sext 48 (toCode 48 x))

/-- One accumulation into an array's entry of the exact class (R65, R86). -/
def accExact (m : SMap Nat) (k : Nat) (init : Option Int) (sum : Int) : SMap Nat :=
  m.put k (accCode (init.getD (sext 64 (m.get k 0)) + sum))

/-- One accumulation of the bounded class (R42). -/
def accBounded (f : Fmt) (m : SMap Nat) (k : Nat) (init : Option Nat) (g : FVal) : SMap Nat :=
  m.put k (accAdd f (init.getD (m.get k 0)) g)

/-- The columns of an array, each part of a column. -/
def columnsOf (sh : Shape) : List (Nat × Nat) := (List.range 64).flatMap fun j => (List.range (shapeSplit sh)).map fun h => (j, h)

/-- A normal issue on array number an (R77 to R86, R103). DEDUCED, log entry 123. -/
def Tile.macArray (t : Tile) (r : Rec) (rep : ArrayRepair) (o : MacOp) (an : Nat) (a : ArrayState) : ArrayState :=
  let sh := r.shapeOf
  let last := decide (o.pass.val + 1 = r.slots o.act16 o.wide)
  (columnsOf sh).foldl (fun (b : ArrayState) c =>
    let ts := macTerms rep sh (r.perCell (o.wide && !r.exact)) o.first o.code r.fmtW a c.1 c.2
    let key := accKey sh c.1 c.2 o.entry
    let ch := chanOf sh o.group an c.1 c.2
    let bias := listGet t.bias ch 0
    if r.exact then
      let init := if o.init && o.pass.val == 0 then some (rshiftRne (sext 64 bias) t.rhoW.toNat) else none
      { b with acc := accExact b.acc key init (t.exactSum r o.act16 o.pass ts) }
    else if last then
      { b with acc := accBounded r.accFmt b.acc key (if o.init then some bias else none) (t.boundedSum r o.wide (listGet t.kappa ch 0) ts) }
    else b) a

/-- A normal issue on all four arrays, each through its repair. -/
def Tile.mac (t : Tile) (r : Rec) (rep : Nat → ArrayRepair) (o : MacOp) : Tile :=
  { t with arrays := (List.range t.arrays.length).map fun n => t.macArray r (rep n) o n (listGet t.arrays n ArrayState.blank) }

/-- MAC (R83, R84): the first start slot counts as an issue, later ones as extra slots. -/
def execMac (tile : Fin 2048) (rec : Fin 24) (o : MacOp) (s : State) : Out :=
  .next (s.dispatchRec tile 0x04 rec fun c t =>
    some ((t.modTile tile fun x => x.mac c.r (t.repairOf tile) o).tileCount tile (if o.pass.val == 0 then 1 else 3) 1))

/-- The group value of row i of array number an in a transposed issue (R82). -/
def Tile.rowGroup (t : Tile) (r : Rec) (rep : Nat → ArrayRepair) (o : MactOp) (kappa : Int) (i an : Nat) : FVal :=
  let a := listGet t.arrays an ArrayState.blank
  t.boundedSum r o.wide kappa ((List.range 64).map fun j => (o.first + 64 * an + j, wordCode r.fmtW (a.word (rep an) i j) o.code))

/-- A transposed issue (R82): the four arrays' group values for row i are added one after another to output i's entry. -/
def Tile.mact (t : Tile) (r : Rec) (rep : Nat → ArrayRepair) (o : MactOp) : Tile :=
  let acc := (List.range 16).foldl (fun (m : SMap Nat) i =>
    let ch := 16 * o.group.val + i
    let key := accKey .d16 i 0 o.entry
    (List.range 4).foldl (fun (b : SMap Nat) an =>
      accBounded r.accFmt b key (if o.init && an == 0 then some (listGet t.bias ch 0) else none) (t.rowGroup r rep o (listGet t.kappa ch 0) i an)) m)
    (listGet t.arrays 0 ArrayState.blank).acc
  t.modArray 0 fun a => { a with acc := acc }

/-- MACT (R82, R84): bounded records only; the products accumulate with the last limb pair. -/
def execMact (tile : Fin 2048) (rec : Fin 24) (o : MactOp) (s : State) : Out :=
  .next (s.dispatchRec tile 0x05 rec fun c t =>
    let last := decide (o.pass.val + 1 = c.r.slots false o.wide)
    let t1 := if last && !c.r.exact then t.modTile tile fun x => x.mact c.r (t.repairOf tile) o else t
    some (t1.tileCount tile (if o.pass.val == 0 then 2 else 3) 1))

/-- The value of an accumulator entry (R86, R88): the 48-bit sum, or the code. -/
def accValue (exact : Bool) (v : Nat) : Int := if exact then sext 64 v else (v : Int)

/-- One entry of all columns in the epilogue (R86, R87), for the group of output channels that the arrays hold; a transposed record reads the 16
outputs of a group of rows. DEDUCED, log entry 124. -/
def Tile.readout (t : Tile) (r : Rec) (e group rows : Nat) : Tile :=
  let sh := r.shapeOf
  let get (a j h : Nat) : Int := accValue r.exact ((listGet t.arrays a ArrayState.blank).acc.get (accKey sh j h e) 0)
  let epi :=
    if r.trans then (List.range 16).foldl (fun (m : SMap Int) i => m.put (16 * rows + i) (get 0 i 0)) t.epi
    else (List.range 4).foldl (fun (m : SMap Int) a =>
      (columnsOf sh).foldl (fun (n : SMap Int) c => n.put (chanOf sh group a c.1 c.2) (get a c.1 c.2)) m) t.epi
  { t with epi := epi }

/-- ARD (R86 to R88). -/
def execArd (tile : Fin 2048) (rec : Fin 24) (entry : Fin 16) (group : Fin 4) (rows : Fin 64) (s : State) : Out :=
  .next (s.dispatchRec tile 0x06 rec fun c t => some (t.modTile tile fun x => x.readout c.r entry group rows))

end Sys2Proof.Machine
end

