-- ==== Sys2Proof/Machine/Vector.lean ====
section
/-!
DEFINITION. The epilogue, the rotation unit, the row stage and the vector unit of a tile (R33, R35, R46, R51 to R58, R62 to R69, R94 to R98).
-/
namespace Sys2Proof.Machine

/-! The epilogue (R35, R46, R62 to R67) -/

/-- The channel stage and the pre-operation on the read-out values of record n (R59, R66); a bounded record's raise vector-unit flags (R57). -/
def Tile.epilogue (t : Tile) (n : Nat) (r : Rec) : Tile :=
  if r.exact then { t with epi := t.epi.mapVals fun ch v => r.preOp.onInt r.wrap (channelStage v (listGet t.kappa ch 0) r.wrap) }
  else
    let st := t.stats.get n RecStat.zero
    { t with epi := t.epi.mapVals fun _ v => ((r.preFloatBy r.accFmt v.toNat).1 : Int)
             stats := t.stats.put n { st with fp := t.epi.foldl (fun a v => a.or (r.preFloatBy r.accFmt v.2.toNat).2) st.fp } }

/-- EPI (R66). -/
def execEpi (tile : Fin 2048) (rec : Fin 24) (s : State) : Out :=
  .next (s.dispatchRec tile 0x07 rec fun c t => some (t.modTile tile fun x => x.epilogue rec c.r))

/-- One rotation group (R62, R63). The spec gives the bounded rotation on binary32 values only: of binary64 ones the results are free, but a function of
the record and its inputs (R48). DESIGN CHOICE, log entry 126. -/
def Tile.rotate (t : Tile) (c : RecCtx) (g : Nat) : Tile :=
  let n := c.r.rotN
  let u := (rangeFrom (g * n) n).map fun ch => t.epi.get ch 0
  let sgn := (rangeFrom (g * n) n).map fun ch => c.pkg.signOf c.kr.1 c.r (c.ch0 + ch)
  let y : List Int :=
    if c.r.exact then rotateExact u n sgn c.r.wrap
    else if c.r.accFmt = .fp64 then (List.range n).map fun k => ((Config.boundedValue (c.pkg.pkgDigest ++ c.r) (g :: u) k % 2 ^ 64 : Nat) : Int)
    else (rotateBounded (u.map Int.toNat) n sgn).map fun (x : Nat) => (x : Int)
  { t with epi := (List.range n).foldl (fun (m : SMap Int) k => m.put (g * n + k) (listGet y k 0)) t.epi }

/-- ROT (R98). -/
def execRot (tile : Fin 2048) (rec : Fin 24) (group : Fin 64) (s : State) : Out :=
  .next (s.dispatchRec tile 0x08 rec fun c t => some (t.modTile tile fun x => x.rotate c group))

/-- A row of the record at a position: codes, exponent, clipped elements, flags, and the generators after (R66, R67, R96). -/
def Tile.rowStage (t : Tile) (c : RecCtx) (wide : Bool) (gens : List Nat) : RowOutB × List Int × List Nat :=
  let u := (List.range c.r.partCh).map fun ch => t.epi.get ch 0
  if c.r.exact then
    let o := rowExactFrom (c.pkg.rowCfg c.r) u t.rhoW wide
    ({ q := [], rho := o.rho, clipped := o.clipped, flags := {} }, o.q, gens)
  else
    let f := c.r.accFmt
    let lanes := (rangeFrom c.ch0 u.length).map (· % lanesOf f)
    let (mds, g1) := if c.r.draws f wide then drawLanes c.r.srBits lanes gens else ([], gens)
    let o := rowBounded f c.r.fmtOut c.r.rowMin c.r.rowMax wide (u.map Int.toNat) mds
    (o, o.q.map fun (x : Nat) => (x : Int), g1)

/-- The statistics after a row (R69, R97): a wide re-run's first row takes back what the cell's narrow pass clipped. -/
def RecStat.addRow (st : RecStat) (wide first : Bool) (n clipped before : Nat) (fl : FpFlags) : RecStat :=
  if wide then
    { st with clipped := st.clipped - (if first then before else 0) + clipped, fp := st.fp.or fl, excess := true, ran := true
              reruns := st.reruns + b2n first }
  else { st with total := st.total + n, clipped := st.clipped + clipped, fp := st.fp.or fl }

/-- ROW on a tile: the row, the cell's and the record's account, and the draws made. DEDUCED, log entry 129. -/
def Tile.rowOp (t : Tile) (c : RecCtx) (n x y : Nat) (wide : Bool) : Tile × Nat :=
  let band := x / c.r.bandCols
  let key := cellKey n band y
  let cell := t.cells.get key { total := 0, clipped := 0, wide := 0, gens := none }
  let gens := if wide then cell.gens.getD (c.seeds (wideKey band y)) else t.gens
  let (o, q, g1) := t.rowStage c wide gens
  let st := (t.stats.get n RecStat.zero).addRow wide cell.gens.isNone q.length o.clipped cell.clipped o.flags
  let draws := if g1 == gens then 0 else q.length
  let t1 := { t with rowQ := q, rowRho := o.rho, rowWide := wide, stats := t.stats.put n st }
  if wide then ({ t1 with cells := t1.cells.put key { cell with wide := cell.wide + q.length, gens := some g1 } }, draws)
  else
    ({ t1 with gens := g1, cells := t1.cells.put key { cell with total := cell.total + q.length, clipped := cell.clipped + o.clipped } }, draws)

/-- ROW (R66, R67, R69, R97): the row at an output column and row. -/
def execRow (tile : Fin 2048) (rec : Fin 24) (x y : Nat) (wide : Bool) (s : State) : Out :=
  .next (s.dispatchRec tile 0x09 rec fun c t =>
    let (u, n) := (t.tileOf tile).rowOp c rec x y wide
    some ((t.setTile tile u).tileCount tile 15 n))

/-! The vector unit (R55 to R58, R94) -/

/-- Lane i of a vector operand. -/
def Tile.lane (t : Tile) (v : VReg) (i : Nat) : Int :=
  match v with
  | .temp n => listGet (t.vregs.get n []) i 0
  | .epi off => t.epi.get (off + i) 0

/-- Write the lanes of a vector result. -/
def Tile.setLanes (t : Tile) (v : VReg) (xs : List Int) : Tile :=
  match v with
  | .temp n => { t with vregs := t.vregs.put n xs }
  | .epi off => { t with epi := (List.range xs.length).foldl (fun (m : SMap Int) i => m.put (off + i) (listGet xs i 0)) t.epi }

/-- Lanes of an operation (R94): 64 integer lanes, 16 of binary32, 8 of binary64. DEDUCED, log entry 128. -/
def vopLanes (o : VopOp) : Nat :=
  match o.fn with
  | .iadd => 64
  | .ishl _ => 64
  | .irsh _ => 64
  | .inarrow _ => 64
  | .icmp => 64
  | .itable => 64
  | _ => if o.fp64 then 8 else 16

/-- The order of two integers as the quiet comparisons give it: less, equal, greater as 0, 1, 2. -/
def cmpInt (a b : Int) : Int := if a < b then 0 else if a = b then 1 else 2

/-- One lane of an operation (R33 to R35, R46, R51, R55), in the record's overflow mode: the result and its flags. -/
def vopLane (o : VopOp) (wrap : Bool) (table : Int → Int) (md : Rounding) (a b c : Int) : Int × FpFlags :=
  let f := if o.fp64 then Fmt.fp64 else Fmt.fp32
  let code (p : Nat × FpFlags) : Int × FpFlags := ((p.1 : Int), p.2)
  let plain (x : Int) : Int × FpFlags := (x, {})
  match o.fn with
  | .add => code (f.add a.toNat b.toNat)
  | .sub => code (f.sub a.toNat b.toNat)
  | .mul => code (f.mul a.toNat b.toNat)
  | .fma => code (f.fma a.toNat b.toNat c.toNat)
  | .div => code (f.div a.toNat b.toNat)
  | .sqrt => code (f.sqrt a.toNat)
  | .cmp => code (f.cmp a.toNat b.toNat)
  | .minNum => code (f.minNum a.toNat b.toNat)
  | .maxNum => code (f.maxNum a.toNat b.toNat)
  | .convert src dst sat _ =>
    code (convert ((Fmt.ofCode src).getD .fp32) ((Fmt.ofCode dst).getD .fp32) md sat (toCode ((Fmt.ofCode src).getD .fp32).width a))
  | .iadd => plain (narrow (a + b) 32 wrap)
  | .ishl n => plain (narrow (a * 2 ^ n.val) 32 wrap)
  | .irsh n => plain (rshiftRne a n)
  | .inarrow n => plain (narrow a (n + 1) wrap)
  | .icmp => plain (cmpInt a b)
  | .itable => plain (table (min (max a (-128)) 127))

/-- Whether the operation rounds stochastically: converts to a narrower format only (R50). -/
def vopStoch (o : VopOp) : Bool :=
  match o.fn with
  | .convert src dst _ st => st && Fmt.narrows ((Fmt.ofCode src).getD .fp32) ((Fmt.ofCode dst).getD .fp32)
  | _ => false

/-- A vector operation on a tile, with the draws made (R52, R57). -/
def Tile.vop (t : Tile) (c : RecCtx) (n : Nat) (o : VopOp) : Tile × Nat :=
  let lanes := List.range (vopLanes o)
  let (mds, g1) := if vopStoch o then drawLanes c.r.srBits lanes t.gens else ([], t.gens)
  let cfg := c.pkg.rowCfg c.r
  let table (x : Int) : Int := match cfg.table with
    | some tb => listGet tb (x + 128).toNat 0
    | none => x
  let rs := lanes.map fun i => vopLane o (c.r.exact && c.r.wrap) table (listGet mds i .rne) (t.lane o.a i) (t.lane o.b i) (t.lane o.c i)
  let fl := rs.foldl (fun (a : FpFlags) x => a.or x.2) {}
  let st := t.stats.get n RecStat.zero
  (({ t with gens := g1, stats := t.stats.put n { st with fp := st.fp.or fl } }).setLanes o.dst (rs.map fun (x : Int × FpFlags) => x.1),
    if vopStoch o then vopLanes o else 0)

/-- VOP (R55 to R58, R94). -/
def execVop (tile : Fin 2048) (rec : Fin 24) (o : VopOp) (s : State) : Out :=
  .next (s.dispatchRec tile 0x0A rec fun c t =>
    let (x, n) := (t.tileOf tile).vop c rec o
    some ((t.setTile tile x).tileCount tile 15 n))

end Sys2Proof.Machine
end

