-- ==== Sys2Proof/Machine/Dispatch.lean ====
section
/-!
DEFINITION. The dispatch: one arm per command of the table, one meaning per arm.
-/
namespace Sys2Proof.Machine

def exec (i : Instr) (s : State) : Host.Outcome State Fault Refusal :=
  match i with
  | .nop d => Sys2Proof.Machine.execNop d s
  | .fence d => Sys2Proof.Machine.execFence d s
  | .modelLoad d => Sys2Proof.Machine.execModelLoad d s
  | .modelUnload d => Sys2Proof.Machine.execModelUnload d s
  | .contractOpen d => Sys2Proof.Machine.execContractOpen d s
  | .contractClose d => Sys2Proof.Machine.execContractClose d s
  | .streamOpen d => Sys2Proof.Machine.execStreamOpen d s
  | .streamClose d => Sys2Proof.Machine.execStreamClose d s
  | .encPicture d => Sys2Proof.Machine.execEncPicture d s
  | .decUnits d => Sys2Proof.Machine.execDecUnits d s
  | .poolMarkAlloc d => Sys2Proof.Machine.execPoolMarkAlloc d s
  | .poolMarkTake d => Sys2Proof.Machine.execPoolMarkTake d s
  | .poolMarkRelease d => Sys2Proof.Machine.execPoolMarkRelease d s
  | .poolMarkDiscard d => Sys2Proof.Machine.execPoolMarkDiscard d s
  | .audEnc d => Sys2Proof.Machine.execAudEnc d s
  | .audDec d => Sys2Proof.Machine.execAudDec d s
  | .fldEnc d => Sys2Proof.Machine.execFldEnc d s
  | .fldDec d => Sys2Proof.Machine.execFldDec d s
  | .llComp d => Sys2Proof.Machine.execLlComp d s
  | .llDecomp d => Sys2Proof.Machine.execLlDecomp d s
  | .copy2d d => Sys2Proof.Machine.execCopy2d d s
  | .attach d => Sys2Proof.Machine.execAttach d s
  | .detach d => Sys2Proof.Machine.execDetach d s
  | .watch d => Sys2Proof.Machine.execWatch d s
  | .switch d => Sys2Proof.Machine.execSwitch d s
  | .takeover d => Sys2Proof.Machine.execTakeover d s
  | .load f => Sys2Proof.Machine.execLoad f s
  | .wake f value => Sys2Proof.Machine.execWake f value s
  | .poll f => Sys2Proof.Machine.execPoll f s
  | .modTime f c => Sys2Proof.Machine.execModTime f c s
  | .msixPendingSend f v => Sys2Proof.Machine.execMsixPendingSend f v s
  | .install => Sys2Proof.Machine.execInstall s
  | .erase => Sys2Proof.Machine.execErase s
  | .admKeyctlLock => Sys2Proof.Machine.execAdmKeyctlLock s
  | .enum => Sys2Proof.Machine.execEnum s
  | .head => Sys2Proof.Machine.execHead s
  | .mchRelease => Sys2Proof.Machine.execMchRelease s
  | .query => Sys2Proof.Machine.execQuery s
  | .queryTimeout => Sys2Proof.Machine.execQueryTimeout s
  | .fusArm w => Sys2Proof.Machine.execFusArm w s
  | .burn index => Sys2Proof.Machine.execBurn index s
  | .revoke record => Sys2Proof.Machine.execRevoke record s
  | .injUnlock w => Sys2Proof.Machine.execInjUnlock w s
  | .injLock => Sys2Proof.Machine.execInjLock s
  | .freeze => Sys2Proof.Machine.execFreeze s
  | .frzNFall => Sys2Proof.Machine.execFrzNFall s
  | .tileBist => Sys2Proof.Machine.execTileBist s
  | .mbist => Sys2Proof.Machine.execMbist s
  | .arrayTest => Sys2Proof.Machine.execArrayTest s
  | .engineTest => Sys2Proof.Machine.execEngineTest s
  | .laneTest => Sys2Proof.Machine.execLaneTest s
  | .testComplete o => Sys2Proof.Machine.execTestComplete o s
  | .coldCmd => Sys2Proof.Machine.execColdCmd s
  | .warmCmd => Sys2Proof.Machine.execWarmCmd s
  | .start tests => Sys2Proof.Machine.execStart tests s
  | .clear => Sys2Proof.Machine.execClear s
  | .dumpNow => Sys2Proof.Machine.execDumpNow s
  | .dump => Sys2Proof.Machine.execDump s
  | .pmcValCapture size => Sys2Proof.Machine.execPmcValCapture size s
  | .glbTimeCapture size => Sys2Proof.Machine.execGlbTimeCapture size s
  | .mark w => Sys2Proof.Machine.execMark w s
  | .stickyClear group w => Sys2Proof.Machine.execStickyClear group w s
  | .admSuspClear w => Sys2Proof.Machine.execAdmSuspClear w s
  | .registerWrite f space off size value => Sys2Proof.Machine.execRegisterWrite f space off size value s
  | .perst => Sys2Proof.Machine.execPerst s
  | .devRst ns => Sys2Proof.Machine.execDevRst ns s
  | .coldPower => Sys2Proof.Machine.execColdPower s
  | .resetRelease => Sys2Proof.Machine.execResetRelease s
  | .railFault r => Sys2Proof.Machine.execRailFault r s
  | .vminLow p => Sys2Proof.Machine.execVminLow p s
  | .refLoss => Sys2Proof.Machine.execRefLoss s
  | .holdoverEnd => Sys2Proof.Machine.execHoldoverEnd s
  | .quiesce => Sys2Proof.Machine.execQuiesce s
  | .pllSwitch standbyLocks pauseTicks => Sys2Proof.Machine.execPllSwitch standbyLocks pauseTicks s
  | .overTemp p deciC => Sys2Proof.Machine.execOverTemp p deciC s
  | .overTempEnd p deciC => Sys2Proof.Machine.execOverTempEnd p deciC s
  | .thermalFailstop p deciC => Sys2Proof.Machine.execThermalFailstop p deciC s
  | .plainLimit hot cold => Sys2Proof.Machine.execPlainLimit hot cold s
  | .plainLimitEnd hot cold => Sys2Proof.Machine.execPlainLimitEnd hot cold s
  | .powerCapStep estimate draws => Sys2Proof.Machine.execPowerCapStep estimate draws s
  | .dividerChange p => Sys2Proof.Machine.execDividerChange p s
  | .functionLevelReset f vfClear => Sys2Proof.Machine.execFunctionLevelReset f vfClear s
  | .d3hot f => Sys2Proof.Machine.execD3hot f s
  | .d0Return f => Sys2Proof.Machine.execD0Return f s
  | .linkRetrain gts width => Sys2Proof.Machine.execLinkRetrain gts width s
  | .ledgerAudit => Sys2Proof.Machine.execLedgerAudit s
  | .departure r => Sys2Proof.Machine.execDeparture r s
  | .release u => Sys2Proof.Machine.execRelease u s
  | .contextPass u => Sys2Proof.Machine.execContextPass u s
  | .decodeSegment u => Sys2Proof.Machine.execDecodeSegment u s
  | .encodeUnit u => Sys2Proof.Machine.execEncodeUnit u s
  | .train stream => Sys2Proof.Machine.execTrain stream s
  | .regionJob stream => Sys2Proof.Machine.execRegionJob stream s
  | .unitEmit stream => Sys2Proof.Machine.execUnitEmit stream s
  | .pictureClose stream => Sys2Proof.Machine.execPictureClose stream s
  | .pictureRecord stream => Sys2Proof.Machine.execPictureRecord stream s
  | .autoCopy stream => Sys2Proof.Machine.execAutoCopy stream s
  | .outputRecord stream => Sys2Proof.Machine.execOutputRecord stream s
  | .blockRecord stream => Sys2Proof.Machine.execBlockRecord stream s
  | .haloReceive tile => Sys2Proof.Machine.execHaloReceive tile s
  | .llSuspend engine => Sys2Proof.Machine.execLlSuspend engine s
  | .llResume engine => Sys2Proof.Machine.execLlResume engine s
  | .uinstrNop tile => Sys2Proof.Machine.execUinstrNop tile s
  | .ldw tile arr part word => Sys2Proof.Machine.execLdw tile arr part word s
  | .swp tile arrs => Sys2Proof.Machine.execSwp tile arrs s
  | .lda tile rcd o => Sys2Proof.Machine.execLda tile rcd o s
  | .mac tile rcd o => Sys2Proof.Machine.execMac tile rcd o s
  | .mact tile rcd o => Sys2Proof.Machine.execMact tile rcd o s
  | .ard tile rcd entry group rows => Sys2Proof.Machine.execArd tile rcd entry group rows s
  | .epi tile rcd => Sys2Proof.Machine.execEpi tile rcd s
  | .rot tile rcd group => Sys2Proof.Machine.execRot tile rcd group s
  | .row tile rcd x y wide => Sys2Proof.Machine.execRow tile rcd x y wide s
  | .vop tile rcd o => Sys2Proof.Machine.execVop tile rcd o s
  | .st tile rcd o => Sys2Proof.Machine.execSt tile rcd o s
  | .hsnd tile rcd o => Sys2Proof.Machine.execHsnd tile rcd o s
  | .hwt tile rcd side part value => Sys2Proof.Machine.execHwt tile rcd side part value s
  | .xfr tile o => Sys2Proof.Machine.execXfr tile o s
  | .srs tile rcd restore => Sys2Proof.Machine.execSrs tile rcd restore s
  | .stat tile rcd space addr => Sys2Proof.Machine.execStat tile rcd space addr s
  | .endRec tile rcd => Sys2Proof.Machine.execEndRec tile rcd s
  | .tileFault tile parity => Sys2Proof.Machine.execTileFault tile parity s
  | .engineFault phys => Sys2Proof.Machine.execEngineFault phys s
  | .rimFault p => Sys2Proof.Machine.execRimFault p s
  | .hbmUe addr reader state => Sys2Proof.Machine.execHbmUe addr reader state s
  | .plainFail p => Sys2Proof.Machine.execPlainFail p s
  | .hbmLaneRepair stack channel lane => Sys2Proof.Machine.execHbmLaneRepair stack channel lane s
  | .gateEnter p => Sys2Proof.Machine.execGateEnter p s
  | .gateExit p => Sys2Proof.Machine.execGateExit p s
  | .sample event => Sys2Proof.Machine.execSample event s
  | .traceWrite => Sys2Proof.Machine.execTraceWrite s
  | .heartbeat => Sys2Proof.Machine.execHeartbeat s
  | .heartbeatReceive link serial roles => Sys2Proof.Machine.execHeartbeatReceive link serial roles s
  | .linkDown link => Sys2Proof.Machine.execLinkDown link s
  | .hello link data => Sys2Proof.Machine.execHello link data s
  | .replay link seq => Sys2Proof.Machine.execReplay link seq s
  | .laneSpare link lane => Sys2Proof.Machine.execLaneSpare link lane s
  | .epochOpen slot => Sys2Proof.Machine.execEpochOpen slot s
  | .epochClose slot number full image digestOk => Sys2Proof.Machine.execEpochClose slot number full image digestOk s
  | .epochAck slot number committed => Sys2Proof.Machine.execEpochAck slot number committed s
  | .abort slot => Sys2Proof.Machine.execAbort slot s
  | .switchRecord slot => Sys2Proof.Machine.execSwitchRecord slot s
  | .switchAck slot => Sys2Proof.Machine.execSwitchAck slot s
  | .closingNotice slot closed => Sys2Proof.Machine.execClosingNotice slot closed s
  | .relinquish slot => Sys2Proof.Machine.execRelinquish slot s
  | .survey fr => Sys2Proof.Machine.execSurvey fr s
  | .assign fr => Sys2Proof.Machine.execAssign fr s
  | .join fr => Sys2Proof.Machine.execJoin fr s
  | .status fr => Sys2Proof.Machine.execStatus fr s
  | .statusReq fr => Sys2Proof.Machine.execStatusReq fr s
  | .statusBroadcast => Sys2Proof.Machine.execStatusBroadcast s
  | .rootPllLock ppm hbmOk => Sys2Proof.Machine.execRootPllLock ppm hbmOk s
  | .powerOnResetRelease => Sys2Proof.Machine.execPowerOnResetRelease s
  | .vminRestored p => Sys2Proof.Machine.execVminRestored p s
  | .frzNRise => Sys2Proof.Machine.execFrzNRise s
  | .vfEnable n => Sys2Proof.Machine.execVfEnable n s
  | .fusBurnDone o => Sys2Proof.Machine.execFusBurnDone o s
  | .injUnlockTimeout => Sys2Proof.Machine.execInjUnlockTimeout s
  | .watchdogExpiry => Sys2Proof.Machine.execWatchdogExpiry s
  | .warpFault p => Sys2Proof.Machine.execWarpFault p s
  | .regionFault u => Sys2Proof.Machine.execRegionFault u s
  | .lleFault e => Sys2Proof.Machine.execLleFault e s
  | .spineUe => Sys2Proof.Machine.execSpineUe s
  | .chainFrameDrop fr => Sys2Proof.Machine.execChainFrameDrop fr s
  | .attachMatch p => Sys2Proof.Machine.execAttachMatch p s

end Sys2Proof.Machine
end

