-- ==== Sys2Proof/Machine/Step.lean ====
section
/-!
DEFINITION. The step of the block: the command at the front of the queue, or a tick of the timebase where none waits (log entry 1).
-/
namespace Sys2Proof.Machine

/-- Take the front command and run it with the queue's rest; on an empty queue a tick of the clock passes (R395, R396, R418; log
entry 1). -/
def step (s : State) : Host.Outcome State Fault Refusal :=
  match s.pending with
  | [] => .next s.tick
  | c :: rest => exec c { s with pending := rest }

/-- The state with the command that a word spells at the front of its queue; the table gives no row any bits. -/
def State.withFetchWord (s : State) (nbits w : Nat) : State :=
  match Sys2Proof.decodeTableWord nbits w with
  | some c => { s with pending := c :: s.pending }
  | none => s

end Sys2Proof.Machine
end

