-- ==== Sys2Proof/Machine/Identity.lean ====
section
/-!
DEFINITION. The identity that the functions present in configuration space (R4, R439), and the options and limits of the host link (R281).
-/
namespace Sys2Proof.Machine

/-- The SR-IOV extended capability (R439). -/
structure SriovCap where
  totalVfs    : Nat
  firstOffset : Nat
  stride      : Nat
  vfDevice    : Nat
deriving DecidableEq, Repr

/-- The identity of a function in configuration space (R439): the serial number, ARI and SR-IOV are the physical function's. -/
structure Identity where
  vendor    : Nat
  device    : Nat
  revision  : Nat
  classCode : Nat
  subVendor : Nat
  subsystem : Nat
  serial    : Option Nat
  ari       : Bool
  sriov     : Option SriovCap
deriving DecidableEq, Repr

/-- The identity of function f (R4, R439). -/
def State.identity (s : State) (f : Nat) : Identity :=
  { vendor := 0x1F6E, device := 0x0C81, revision := 0xB1, classCode := 0x120000, subVendor := 0x1F6E, subsystem := 1
    serial := if f == 0 then some s.fuses.serial else none
    ari := f == 0
    sriov := if f == 0 then some { totalVfs := 63, firstOffset := 1, stride := 1, vfDevice := 0x0C81 } else none }

/-- Routing number of virtual function n, as the SR-IOV capability spaces them from that of the physical function (R439). -/
def SriovCap.routing (c : SriovCap) (pf n : Nat) : Nat := pf + c.firstOffset + (n - 1) * c.stride

/-- A word of a function's configuration header that holds its identity; the places are PCI Express's. PRESUMED, log entry 157. -/
def Identity.word (i : Identity) (off : Nat) : Option Nat :=
  match off with
  | 0x00 => some (i.vendor + 2 ^ 16 * i.device)
  | 0x08 => some (i.revision + 2 ^ 8 * i.classCode)
  | 0x2C => some (i.subVendor + 2 ^ 16 * i.subsystem)
  | _ => none

/-- Configuration requests are answered once the link is up, in fail-stop too, and not while the device is held in reset or frozen (R329, R391, R412).
-/
def Dev.configServed (s : Dev) (f : Nat) : Bool := s.clocked && s.exists f

/-- What a read of a word of function f's configuration header returns: its identity; none where the model holds no value. -/
def State.readConfig (s : State) (f off : Nat) : Option Nat :=
  if s.dev.configServed f then (s.identity f).word off else none

/-! The host link (R281) -/

/-- Payload of one request in bytes: a setting of 128, 256 or 512. -/
def payloadOk (n : Nat) : Bool := n == 128 || n == 256 || n == 512

/-- Bytes of a read request, at most. -/
def readRequestMax : Nat := 4096

/-- Bits of a request's tag, in FLIT mode or not. -/
def tagBits (flit : Bool) : Nat := if flit then 14 else 10

/-- Depth of the ATS invalidate queue, and the smallest translation unit in bytes. -/
def atsQueueDepth : Nat := 32
def atsUnit : Nat := 4096

/-- What a write to host memory carries. -/
inductive HostWriteKind where
  | data | completion | counter | hallmark | report
deriving DecidableEq, Repr

/-- A write carries the Relaxed Ordering attribute: data writes alone. -/
def HostWriteKind.relaxed : HostWriteKind → Bool
  | .data => true
  | _ => false

end Sys2Proof.Machine
end

