-- ==== Sys2Proof/Machine/RegRead.lean ====
section
/-!
DEFINITION. What a read of a register returns (R433 to R438, R440 to R442): stored registers, and those whose value follows from other
state, by block. No command of the table reads a register but the two captures; the value here is what the host sees.
-/
namespace Sys2Proof.Machine

/-- A flag per entry of a list, entry 0 in bit 0. -/
def flagBits (l : List Bool) : Nat := sumN ((List.range l.length).map fun i => b2n (listGet l i false) * 2 ^ i)

/-- Four bits per plain. -/
def perPlain (f : Nat → Nat) : Nat := sumN ((List.range 8).map fun p => f p % 16 * 2 ^ (4 * p))

/-- GLB (R438). -/
def State.readGlb (s : State) (o : Nat) : Nat :=
  match o with
  | 0x08 => s.fuses.serial % 2 ^ 32
  | 0x0C => s.fuses.serial / 2 ^ 32 % 2 ^ 32
  | 0x14 => s.dev.chainState
  | 0x30 => s.dev.sys.time % 2 ^ 32
  | 0x34 => s.dev.sys.timeCap / 2 ^ 32
  | _ => s.dev.regN (GLB + o)

/-- CLK (R415). What the reference monitor measures is outside the model: the rate that CLK_REFMON reports, and in holdover whether a returned
reference is being qualified, are free values (log entry 2). DESIGN CHOICE, log entry 143. -/
def State.readClk (s : State) (o : Nat) : Nat :=
  match o with
  | 0x00 => b2n s.clk.locked + 2 * b2n s.clk.holdover + 4 * b2n (s.clk.holdover && bitAt (Config.freeValue s.dev.sys.free) 16) + 8 * b2n s.clk.standby
  | 0x04 => perPlain fun p => (s.dev.plain p).div
  | 0x0C => perPlain s.dev.floorOf
  | 0x10 => perPlain s.clk.causeBits
  | 0x20 => Config.freeValue s.dev.sys.free % 2 ^ 16
  | _ => s.dev.regN (CLK + o)

/-- PWR (R414, R415). The sensors' temperature is a free value (log entry 2). -/
def State.readPwr (s : State) (o : Nat) : Nat :=
  match o with
  | 0x04 => s.dev.gateBits
  | 0x0C => s.clk.measured % 2 ^ 10 + 2 ^ 16 * b2n s.clk.capMiss
  | 0x10 => s.clk.railsOut
  | 0x14 => Config.freeValue s.dev.sys.free % 2 ^ 13
  | 0x110 => s.dev.sys.bootState + 2 ^ 8 * s.dev.sys.bootReason
  | 0x118 => s.dev.sys.rstCause
  | _ => s.dev.regN (PWR + o)

/-- Low and high limits of a calibration item with a factory value (R416). -/
def calLimits (kind index : Nat) (factory : Int) : Int × Int :=
  match kind with
  | 1 => (-64, 64)
  | 2 => (-20, 20)
  | 3 => (0, if index < 16 then 10 else 15)
  | 4 => (factory, 700)
  | _ => (-1000, 1000)

/-- The effective value of a calibration item, and whether it was clamped (R416, R417). -/
def State.calEff (s : State) (k : Nat) : Int × Bool :=
  let f := s.fuses.cal.get k 0
  let (lo, hi) := calLimits (k / 256) (k % 256) f
  let x := f + s.clk.calUser.get k 0
  let y := max lo (min hi x)
  (y, decide (y ≠ x))

/-- CAL (R417). -/
def State.readCal (s : State) (o : Nat) : Nat :=
  match o, s.dev.calKey with
  | 0x0, _ => s.dev.regN CAL
  | _, none => 0
  | 0x4, some k => toCode 16 (s.fuses.cal.get k 0)
  | 0x8, some k => toCode 16 (s.clk.calUser.get k 0)
  | _, some k => toCode 16 (s.calEff k).1 + 2 ^ 16 * b2n (s.calEff k).2

/-- ERR (R331, R370, R372): the counts of the selected ledger instance at the last audit. -/
def State.readErr (s : State) (o : Nat) : Nat :=
  let sel := s.dev.regN (ERR + 0x204)
  let c := if bits sel 0 4 < 8 then s.dev.inst.ledger.get (bits sel 0 4 * 8192 + bits sel 8 13) (0, 0, 0) else (0, 0, 0)
  match o with
  | 0x208 => c.1 % 2 ^ 32
  | 0x20C => c.1 / 2 ^ 32 % 2 ^ 16
  | 0x210 => c.2.1 % 2 ^ 32
  | 0x214 => c.2.1 / 2 ^ 32 % 2 ^ 16
  | 0x218 => c.2.2 % 2 ^ 32
  | 0x21C => c.2.2 / 2 ^ 32 % 2 ^ 16
  | _ => s.dev.regN (ERR + o)

/-- A count or completion write of function f is held (R301). -/
def Dev.writesHeld (s : Dev) (f : Nat) : Bool :=
  ((s.fn f).drings.any fun e => e.2.accHeld) || (s.fn f).crings.any fun e => e.2.wrHeld || e.2.zeroHeld || !e.2.queue.isEmpty

/-- RNG (R308, R309). A load completes within its command, so LOADING reads 0. -/
def State.readRng (s : State) (a : Nat) : Nat :=
  let o := a - RNG
  let f := o / 0x200
  if o ≥ 0x8000 then s.dev.regN a
  else
    match o % 0x200 with
    | 0x004 =>
      let on (l : List Bool) : Nat := (l.filter id).length
      2 * b2n (s.dev.writesHeld f) + 4 * on ((s.dev.fn f).drings.map fun e => e.2.en) +
        2 ^ 9 * on ((s.dev.fn f).crings.map fun e => e.2.en)
    | 0x030 => (s.dev.window f).1 / 0x10000
    | 0x034 => (s.dev.window f).2 / 0x10000
    | _ => s.dev.regN a

/-- ADM (R146, R280). -/
def State.readAdm (s : State) (o : Nat) : Nat :=
  let sel := s.dev.regN (ADM + 0x10)
  if 0x810 ≤ o && o < 0x870 then
    u32At (listGet s.dev.media.keys (s.dev.regN (ADM + 0x804)) KeySlot.reset).data (o - 0x810)
  else
    match o with
    | 0x14 => s.dev.admBook (bits sel 0 6)
    | 0x18 => s.dev.reservedIn (bits sel 8 3)
    | 0x24 => s.dev.media.suspNow
    | 0x30 => s.dev.pcieCap
    | 0x808 => flagBits (s.dev.media.keys.map (·.valid))
    | _ => s.dev.regN (ADM + o)

/-- The physical engine that serves a logical engine (R176). One that none serves has no stated number: a free value (log entry 2). -/
def Dev.enginePhys (s : Dev) (e : Nat) : Nat :=
  ((List.range 18).find? fun n => (listGet s.units.engines n (Engine.reset n)).role == some e).getD (Config.freeValue s.sys.free % 18)

/-- ENT (R176). -/
def State.readEnt (s : State) (o : Nat) : Nat :=
  if 0x04 ≤ o && o ≤ 0x10 then sumN ((List.range 4).map fun k => s.dev.enginePhys (o - 4 + k) * 2 ^ (8 * k))
  else if o == 0x20 then flagBits (s.dev.units.engines.map fun e => e.failed || e.withdrawn)
  else s.dev.regN (ENT + o)

/-- LLE (R322). -/
def State.readLle (s : State) (o : Nat) : Nat :=
  if o == 4 then
    let l := s.dev.units.lles
    flagBits (l.map fun e => (e.job.isSome && !e.suspended) || e.segment) + 2 ^ 4 * flagBits (l.map (·.failed)) + 2 ^ 8 * flagBits (l.map (·.suspended))
  else s.dev.regN (LLE + o)

/-- A pass link's lane repair (R368). -/
def Dev.laneBits (s : Dev) (l : Nat) : Nat :=
  match (s.link l).failLane with
  | some n =>
    let soft := s.units.soft.any fun e => bits e.toNat 0 4 == 7 && bits e.toNat 8 9 == l
    1 + 2 * n + 2 ^ 5 * b2n soft
  | none => 0

/-- PASS_STAT (R368). -/
def Dev.passStat (s : Dev) : Nat :=
  s.passBits + 2 ^ 3 * b2n s.pair.miswired + 2 ^ 4 * b2n (s.pair.hello.isSome && s.pair.mpl.isNone) + 2 ^ 8 * s.pair.mpl.getD 0 +
    2 ^ 16 * s.pair.addr + 2 ^ 24 * s.pair.partner

/-- ROLE and STATE of PASS_SLOT (R368). -/
def Role.code : Role → Nat
  | .free => 0 | .active => 1 | .standby => 2 | .held => 3
def SlotState.code : SlotState → Nat
  | .attaching => 0 | .inSync => 1 | .degraded => 2 | .resync => 3 | .takenOver => 4 | .conflict => 5

/-- PASS_SLOT (R368). -/
def Dev.slotBits (s : Dev) (n : Nat) : Nat :=
  match s.pair.slots.find n with
  | none => 0
  | some t =>
    if t.role == .free then 0
    else t.role.code + 4 * t.state.code + 2 ^ 5 * b2n (((s.stream t.stream).map s.assured).getD false) + 2 ^ 6 * t.func

/-- PASS (R368). -/
def State.readPass (s : State) (o : Nat) : Nat :=
  let d := s.dev
  let n := d.regN (PASS + 0x40)
  let t := d.pair.slots.find n
  match o with
  | 0x08 => d.passStat
  | 0x0C => d.pair.mplCap
  | 0x10 => (d.pair.hello.map fun h => h.fw.toNat).getD 0
  | 0x14 => (d.pair.hello.map fun h => h.rev.toNat).getD 0
  | 0x18 => (d.pair.hello.map fun h => h.serial.toNat % 2 ^ 32).getD 0
  | 0x1C => (d.pair.hello.map fun h => h.serial.toNat / 2 ^ 32).getD 0
  | 0x20 => d.laneBits 0
  | 0x24 => d.laneBits 1
  | 0x2C => min (sumN (d.pair.links.map (·.replayed))) 0xFFFFFFFF
  | 0x30 => d.pair.booked false + 2 ^ 16 * d.pair.booked true
  | 0x44 => d.slotBits n
  | 0x48 => (t.map fun t => t.epochNo.getD 0).getD 0
  | 0x4C => (t.map fun t => t.mirrorId.toNat % 2 ^ 32).getD 0
  | 0x50 => (t.map fun t => t.mirrorId.toNat / 2 ^ 32).getD 0
  | _ => d.regN (PASS + o)

/-- MCH (R369). -/
def State.readMch (s : State) (o : Nat) : Nat :=
  let c := s.dev.chain
  match o with
  | 0x08 =>
    c.addr + (if c.head then 2 ^ 8 * c.count else 0) + 2 ^ 16 * b2n c.full + 2 ^ 17 * b2n c.conflict + 2 ^ 18 * b2n c.ringOk
  | 0x10 => c.qres + 4 * b2n c.hostQuery.isSome + 2 ^ 8 * c.qstate
  | 0x14 => c.qfw
  | 0x18 => min c.crcDrops 0xFFFFFFFF
  | _ => s.dev.regN (MCH + o)

/-- PMC (R430): PMC_VAL0 as it stands, PMC_VAL1 of the last capture. Dumps are written within their command, so DUMP_BUSY reads 0. DEDUCED, log entry
144. -/
def State.readPmc (s : State) (o : Nat) : Nat :=
  match o with
  | 0x28 => s.dev.inst.counter s.dev.sys.time (bits (s.dev.regN (PMC + 0x24)) 0 10) % 2 ^ 32
  | 0x2C => s.dev.inst.capture
  | 0x38 => 2 * b2n s.dev.inst.cfgErr + 2 ^ 16 * min s.dev.inst.skipped 0xFFFF
  | _ => s.dev.regN (PMC + o)

/-- INJ (R389). -/
def State.readInj (s : State) (o : Nat) : Nat :=
  match o with
  | 0x00 => b2n s.dev.sys.inj.unlocked
  | 0x04 => s.dev.sys.inj.nonce
  | _ => s.dev.regN (INJ + o)

/-- The record or soft entry that FUS_SEL selects (R381). -/
def State.fuseVal (s : State) : Nat :=
  let n := bits (s.dev.regN FUS) 0 8
  if n < 64 then (listGet s.fuses.records n 0).toNat
  else if n < 192 then (listGet s.dev.units.soft (n - 64) 0).toNat
  else 0

/-- FUS (R381). -/
def State.readFus (s : State) (o : Nat) : Nat :=
  match o with
  | 0x04 => s.fuseVal % 2 ^ 32
  | 0x08 => s.fuseVal / 2 ^ 32
  | 0x14 =>
    s.fuses.result + 4 * b2n s.fuses.burning.isSome + 2 ^ 4 * (s.fuses.records.filter fun r => r == 0).length + 2 ^ 11 * s.dev.units.soft.length
  | _ => s.dev.regN (FUS + o)

/-- HBM (R214, R441). -/
def State.readHbm (s : State) (o : Nat) : Nat :=
  let u := s.dev.units
  match o with
  | 0x00 => flagBits u.hbmUp + 2 ^ 8 * min (listGet u.hbmRep 0 0) 0xFF + 2 ^ 16 * min (listGet u.hbmRep 1 0) 0xFF
  | 0x108 => s.dev.poolInUse + 2 ^ 16 * s.dev.poolRsv + 2 ^ 31 * b2n s.dev.poolErr
  | 0x10C => s.dev.poolFree
  | _ => s.dev.regN (HBM + o)

/-- PLN_TARRk of a repair map (R105). -/
def arrayBits (x : Option Nat × List Nat × Bool) : Nat :=
  let col (i : Nat) : Nat := match x.2.1[i]? with
    | some c => 1 + 2 * c
    | none => 0
  (match x.1 with
   | some r => 1 + 2 * r
   | none => 0) + 2 ^ 6 * col 0 + 2 ^ 14 * col 1 + 2 ^ 22 * b2n x.2.2

/-- PLNp (R105, R441). -/
def State.readPln (s : State) (p o : Nat) : Nat :=
  let x := s.dev.plain p
  let a := PLN p + o
  let t := s.dev.regN (PLN p + 0x1000)
  let pos := x.posOf t
  if o == 0 then b2n x.gated + 2 * b2n x.failed + 4 * x.freePos.length + 2 ^ 8 * x.lost.length
  else if o == 0x1004 then
    pos / 17 + 2 ^ 4 * (pos % 17) + 2 ^ 9 * b2n (decide (pos % 17 = 16)) + 2 ^ 10 * b2n (x.softMap.contains t)
  else if 0x1010 ≤ o && o < 0x1020 then arrayBits (x.arrays.get (4 * pos + (o - 0x1010) / 4) (none, [], false))
  else if o == 0x1020 then sumN ((List.range 4).map fun b => (x.srams.get (4 * pos + b) []).length * 2 ^ (4 * b))
  else if o == 0x1024 then x.ecc.get t 0
  else s.dev.regN a

/-- The value of a register, WO registers reading zero (R9). -/
def State.regValue (s : State) (a : Nat) : Nat :=
  match regSpec a with
  | none => 0
  | some r =>
    if r.access = .wo then (if a = INJ then s.readInj 0 else 0)
    else
      let o := a % 0x10000
      match a / 0x10000 with
      | 0x0 => s.readGlb o
      | 0x1 => s.readClk o
      | 0x2 => s.readPwr o
      | 0x3 => s.readCal o
      | 0x4 => s.readErr o
      | 0x5 => s.readRng a
      | 0x6 => s.readAdm o
      | 0x7 => s.readEnt o
      | 0x8 => s.readLle o
      | 0x9 => s.readPass o
      | 0xA => s.readMch o
      | 0xB => s.readPmc o
      | 0xD => s.readInj o
      | 0xE => s.readFus o
      | 0xF => s.readHbm o
      | b => if 0x10 ≤ b && b < 0x18 then s.readPln (b - 0x10) o else s.dev.regN a

/-- What a 4-byte read at an aligned offset of a function's BAR or configuration space returns (R7, R436, R437, R439): none where there is no
access or it completes as an Unsupported Request. -/
def State.readReg (s : State) (f : Nat) (space : RegSpace) (off : Nat) : Option Nat :=
  if space == .config then s.readConfig f off
  else if !s.dev.clocked || !s.dev.exists f || (s.dev.fn f).d3 then none
  else
    let addr := if space == .bar0 && f == 0 then some off else regAddrOf f space off
    match addr with
    | none => some 0
    | some a =>
      let b := a / 0x10000
      if s.dev.sys.mode = .boot && space == .bar0 && !(b ≤ 4 || b == 0xE || b == 0x20) then some 0
      else some (s.regValue a)

/-- What a read of n bytes returns (R433): the bytes of one register, two registers for 8 bytes, zero for an access that is not aligned or of another
size. The captures are commands of their own (GLB_TIME0, PMC_VAL0; R435). -/
def State.readBytes (s : State) (f : Nat) (space : RegSpace) (off n : Nat) : Option Nat :=
  if !accessOk off n then some 0
  else if n == 8 then
    match s.readReg f space off, s.readReg f space (off + 4) with
    | some lo, some hi => some (lo + 2 ^ 32 * hi)
    | _, _ => none
  else (s.readReg f space (off / 4 * 4)).map fun v => bits v (8 * (off % 4)) (8 * n)

/-! Pins and the test access port -/

/-- FAULT_N is low in fail-stop, frozen or quiesced (R453). -/
def Dev.faultN (s : Dev) : Bool :=
  match s.sys.mode with
  | .failStop => false
  | .frozen => false
  | .quiesced => false
  | _ => true

/-- What the test access port reads of bytes of a data array (R392): no more than BYPASS while the device is not frozen, and zeros unless
DBG_CTL.DATA_RO was 1 at the freeze. -/
def Dev.tapBytes (s : Dev) (data : Bytes) : Option Bytes :=
  if s.sys.mode = .frozen then some (if s.sys.dataRo then data else data.map fun _ => 0) else none

/-- n bytes of a tile's SRAM through the port (R392). -/
def State.tapSram (s : State) (tile a n : Nat) : Option Bytes := s.dev.tapBytes ((s.tileOf tile).sram.readN a n)

end Sys2Proof.Machine
end

