-- ==== Sys2Proof/Safety.lean ====
section
/-!
DEFINITION. The terms in which statements about runs of the block are made: when a descriptor runs, when a tile runs a
micro-instruction, which parts of the state a command leaves alone, and the invariants of the block's state.
-/
namespace Sys2Proof.Machine

/-! When a command runs -/

/-- Descriptor d runs as row of the table in device s: the device serves, d is accepted as a and waits; no FENCE and no
descriptor before it holds it back (R153, R219, R299, R300), and the common checks of R294 hold. -/
abbrev Dev.Runs (s : Dev) (d : Desc) (row : Nat) (a : Acc) : Prop :=
  s.serving = true ∧ rowOf (descBytes d.raw) = some row ∧ s.findDesc d = some a ∧ a.stage = .waiting ∧
    s.fenced a = false ∧ s.serialised a = false ∧ commonOk a.func (s.cring a.func a.cq).hmBase a.raw = true

/-- Descriptor d is accepted and due, and fails a common check of R294. -/
abbrev Dev.Fails (s : Dev) (d : Desc) (row : Nat) (a : Acc) : Prop :=
  s.serving = true ∧ rowOf (descBytes d.raw) = some row ∧ s.findDesc d = some a ∧ a.stage = .waiting ∧
    s.fenced a = false ∧ s.serialised a = false ∧ commonOk a.func (s.cring a.func a.cq).hmBase a.raw = false

/-- The descriptor names stream n, which is x: open, of the function, of the generation named, not closing, and not refusing jobs
(R293, R300, R353, R383). -/
abbrev Dev.Names (t : Dev) (a : Acc) (n : Nat) (x : Stream) : Prop :=
  n = handleOf a.raw % 65536 ∧ t.stream n = some x ∧ x.func = a.func ∧ x.gen = handleOf a.raw / 65536 ∧ x.closing = none ∧
    t.refusal n x = none

/-- What follows a step of stream n. -/
abbrev Dev.follow (t : Dev) (n : Nat) : Dev := (t.pump n false).pumpWaiting

/-- The descriptor and the row of a command that is a descriptor of no stream. -/
def plainDesc : Instr → Option (Desc × Nat)
  | .nop d => some (d, 0x01)
  | .fence d => some (d, 0x02)
  | .modelLoad d => some (d, 0x10)
  | .modelUnload d => some (d, 0x11)
  | .contractOpen d => some (d, 0x20)
  | .contractClose d => some (d, 0x21)
  | .streamOpen d => some (d, 0x30)
  | .poolMarkAlloc d => some (d, 0x4801)
  | .poolMarkTake d => some (d, 0x4802)
  | .poolMarkRelease d => some (d, 0x4803)
  | .poolMarkDiscard d => some (d, 0x4804)
  | .llComp d => some (d, 0x70)
  | .llDecomp d => some (d, 0x71)
  | .copy2d d => some (d, 0x78)
  | .attach d => some (d, 0x8001)
  | .detach d => some (d, 0x8002)
  | .watch d => some (d, 0x8003)
  | .switch d => some (d, 0x8004)
  | .takeover d => some (d, 0x8005)
  | _ => none

/-- The tile runs micro-instructions, and record n of its sequencer has context c (R100, R276). -/
abbrev State.Issues (s : State) (tile n : Nat) (c : RecCtx) : Prop := s.ctxOf tile n = some c ∧ s.tileRuns tile = true

/-- The state in which a micro-instruction of record n takes effect: it is named for sampling (R426), and the record has begun. -/
abbrev State.issued (s : State) (tile code n : Nat) (c : RecCtx) : State :=
  (s.naming tile code (recCode c.kr.1 c.kr.2) c.stream).beginRec tile n c

/-! Which commands touch what -/

/-- The tile of a command that is a micro-instruction, or a halo word's arrival, but for STAT and XFR. -/
def microOf : Instr → Option (Fin 2048)
  | .uinstrNop tile => some tile
  | .ldw tile _ _ _ => some tile
  | .swp tile _ => some tile
  | .lda tile _ _ => some tile
  | .mac tile _ _ => some tile
  | .mact tile _ _ => some tile
  | .ard tile _ _ _ _ => some tile
  | .epi tile _ => some tile
  | .rot tile _ _ => some tile
  | .row tile _ _ _ _ => some tile
  | .vop tile _ _ => some tile
  | .st tile _ _ => some tile
  | .hsnd tile _ _ => some tile
  | .haloReceive tile => some tile
  | .hwt tile _ _ _ _ => some tile
  | .srs tile _ _ => some tile
  | .endRec tile _ => some tile
  | _ => none

/-- The command completes no descriptor, moves no data, writes no record, ring structure or statistics, and resets nothing. -/
def keepsMemory : Instr → Bool
  | .wake _ _ => true
  | .modTime _ _ => true
  | .msixPendingSend _ _ => true
  | .install => true
  | .erase => true
  | .admKeyctlLock => true
  | .head => true
  | .enum => true
  | .mchRelease => true
  | .query => true
  | .survey _ => true
  | .assign _ => true
  | .join _ => true
  | .statusBroadcast => true
  | .chainFrameDrop _ => true
  | .fusArm _ => true
  | .burn _ => true
  | .revoke _ => true
  | .fusBurnDone _ => true
  | .injUnlock _ => true
  | .injLock => true
  | .injUnlockTimeout => true
  | .freeze => true
  | .frzNFall => true
  | .frzNRise => true
  | .tileBist => true
  | .mbist => true
  | .arrayTest => true
  | .engineTest => true
  | .laneTest => true
  | .clear => true
  | .pmcValCapture _ => true
  | .glbTimeCapture _ => true
  | .mark _ => true
  | .sample _ => true
  | .stickyClear _ _ => true
  | .admSuspClear _ => true
  | .vminLow _ => true
  | .vminRestored _ => true
  | .overTemp _ _ => true
  | .overTempEnd _ _ => true
  | .thermalFailstop _ _ => true
  | .plainLimit _ _ => true
  | .plainLimitEnd _ _ => true
  | .powerCapStep _ _ => true
  | .dividerChange _ => true
  | .refLoss => true
  | .holdoverEnd => true
  | .pllSwitch _ _ => true
  | .linkRetrain _ _ => true
  | .d3hot _ => true
  | .vfEnable _ => true
  | .ledgerAudit => true
  | .gateEnter _ => true
  | .gateExit _ => true
  | .release _ => true
  | .heartbeat => true
  | .hello _ _ => true
  | .replay _ _ => true
  | .epochOpen _ => true
  | .abort _ => true
  | .hbmLaneRepair _ _ _ => true
  | .spineUe => true
  | .watchdogExpiry => true
  | .uinstrNop _ => true
  | .swp _ _ => true
  | .mac _ _ _ => true
  | .mact _ _ _ => true
  | .ard _ _ _ _ _ => true
  | .epi _ _ => true
  | .rot _ _ _ => true
  | .row _ _ _ _ _ => true
  | .vop _ _ _ => true
  | .st _ _ _ => true
  | .hwt _ _ _ _ _ => true
  | .haloReceive _ => true
  | .srs _ _ _ => true
  | .endRec _ _ => true
  | .rootPllLock _ _ => true
  | _ => false

/-! What a command leaves alone -/

/-- Nothing but the device behind the interface differs. -/
abbrev State.devOnly (s t : State) : Prop := t.pending = s.pending ∧ t.clk = s.clk ∧ t.tiles = s.tiles ∧ t.fuses = s.fuses

/-- The values that the factory burnt (R380, R413, R416, R438) are the same. -/
abbrev Fuses.sameFactory (f g : Fuses) : Prop :=
  g.serial = f.serial ∧ g.keys = f.keys ∧ g.revoked = f.revoked ∧ g.svnMin = f.svnMin ∧ g.cal = f.cal ∧ g.factory = f.factory

/-! Invariants -/

/-- 64 records, and a burn in progress is of an empty one (R381). -/
def Fuses.wf (f : Fuses) : Bool :=
  f.records.length == 64 &&
    match f.burning with
    | none => true
    | some (i, _) => decide (i < 64) && listGet f.records i 0 == 0

/-- Eight plains, each with a cap divider of 4 to 6 (R401). -/
def Clocks.wf (c : Clocks) : Bool := c.plains.length == 8 && c.plains.all fun x => decide (4 ≤ x.cap) && decide (x.cap ≤ 6)

end Sys2Proof.Machine
end

