-- ==== Sys2Proof/WellFormed.lean ====
section
/-!
DEFINITION. Well-formed commands: what a command's operands must satisfy beyond their types for the command to name an event of its row.
A command's meaning does not rest on it: a command that is not well formed has a meaning too, most often no effect.
-/
namespace Sys2Proof

/-- Byte k of a descriptor (R293). -/
def Desc.byteAt (d : Desc) (k : Nat) : Nat := d.raw.toNat / 2 ^ (8 * k) % 256

/-- The descriptor's OPCODE is the row's (R295). -/
def Desc.isOp (d : Desc) (op : Nat) : Bool := d.byteAt 0 == op

/-- The descriptor's OPCODE and operation byte are the row's (R218, R350). -/
def Desc.isSub (d : Desc) (op sub : Nat) : Bool := d.byteAt 0 == op && d.byteAt 16 == sub

/-- Two plains that share an edge of the die (R400): rows 0 to 3 and 4 to 7. -/
def adjacentPlains (p q : Fin 8) : Bool :=
  let lo := min p.val q.val
  let hi := max p.val q.val
  hi == lo + 4 || (hi == lo + 1 && lo != 3)

/-- A chain frame of a TYPE, its length as LEN says with its CRC (R338). -/
def Frame.isType (fr : Frame) (typ : Nat) : Bool :=
  match fr.bytes with
  | _ :: _ :: t :: n :: _ => t.toNat == typ && fr.bytes.length == n.toNat + 8
  | _ => false

/-- A rate and width that the host link can train to, or no link (R281). -/
def linkRate (gts : Fin 65) (width : Fin 17) : Bool :=
  ([0, 2, 5, 8, 16, 32, 64] : List Nat).contains gts.val && ([0, 1, 2, 4, 8, 16] : List Nat).contains width.val

/-- The size of an access that R433 lets act. -/
def busSize (n : Fin 9) : Bool := ([1, 2, 4, 8] : List Nat).contains n.val

/-- A command's operands name an event of its row. -/
def Instr.wf : Instr → Bool
  | .nop d => d.isOp 0x01
  | .fence d => d.isOp 0x02
  | .modelLoad d => d.isOp 0x10
  | .modelUnload d => d.isOp 0x11
  | .contractOpen d => d.isOp 0x20
  | .contractClose d => d.isOp 0x21
  | .streamOpen d => d.isOp 0x30
  | .streamClose d => d.isOp 0x31
  | .encPicture d => d.isOp 0x40
  | .decUnits d => d.isOp 0x41
  | .poolMarkAlloc d => d.isSub 0x48 1
  | .poolMarkTake d => d.isSub 0x48 2
  | .poolMarkRelease d => d.isSub 0x48 3
  | .poolMarkDiscard d => d.isSub 0x48 4
  | .audEnc d => d.isOp 0x50
  | .audDec d => d.isOp 0x51
  | .fldEnc d => d.isOp 0x60
  | .fldDec d => d.isOp 0x61
  | .llComp d => d.isOp 0x70
  | .llDecomp d => d.isOp 0x71
  | .copy2d d => d.isOp 0x78
  | .attach d => d.isSub 0x80 1
  | .detach d => d.isSub 0x80 2
  | .watch d => d.isSub 0x80 3
  | .switch d => d.isSub 0x80 4
  | .takeover d => d.isSub 0x80 5
  | .pmcValCapture n => busSize n
  | .glbTimeCapture n => busSize n
  | .registerWrite _ _ off n _ => busSize n && off.toNat % n.val == 0
  | .plainLimit p q => adjacentPlains p q
  | .plainLimitEnd p q => adjacentPlains p q
  | .powerCapStep _ draws => draws.length == 8
  | .functionLevelReset f vfClear => !vfClear || f.val == 0
  | .linkRetrain gts width => linkRate gts width
  | .survey fr => fr.isType 0x01
  | .assign fr => fr.isType 0x02
  | .join fr => fr.isType 0x03
  | .status fr => fr.isType 0x10
  | .statusReq fr => fr.isType 0x11
  | .attachMatch p => p.pkgDigest.length == 48
  | _ => true

end Sys2Proof
end

