-- ==== Sys2Proof/Certificates/Slice0/Obligations.lean ====
section
/-!
DEFINITION. The statements about the block that are to be proved.
-/
section
open Sys2Proof Sys2Proof.Machine

/-! The block as a machine -/

/-- A step runs the command at the front of the queue on the state with the queue's rest. -/
def Obligations.StepRunsTheFrontCommand : Prop :=
  ∀ (c : Instr) (rest : List Instr) (s : State),
    Sys2Proof.Machine.step { s with pending := c :: rest } = Sys2Proof.Machine.exec c { s with pending := rest }

/-- On an empty queue a step is one tick of the timebase while the clocks run, and nothing otherwise (R396; log entry 1). The tick leaves
clock causes, tiles, fuses, registers, memories and everything of the device alone but time, counters and the phases of the tile clocks. -/
def Obligations.IdleStepIsOneTick : Prop :=
  ∀ s : State, s.pending = [] →
    ∃ t : State, Sys2Proof.Machine.step s = .next t ∧ t.pending = [] ∧ t.clk = s.clk ∧ t.tiles = s.tiles ∧ t.fuses = s.fuses ∧
      t.dev.regs = s.dev.regs ∧ t.dev.hmem = s.dev.hmem ∧ t.dev.dmem = s.dev.dmem ∧ t.dev.host = s.dev.host ∧
      t.dev.media = s.dev.media ∧ t.dev.pair = s.dev.pair ∧ t.dev.chain = s.dev.chain ∧
      t.dev.sys = { s.dev.sys with time := if s.dev.clocked then (s.dev.sys.time + 1) % 2 ^ 64 else s.dev.sys.time }

/-- Every command has a next state, and none touches the queue. -/
def Obligations.EveryCommandKeepsTheQueue : Prop :=
  ∀ (c : Instr) (s : State), ∃ t : State, Sys2Proof.Machine.exec c s = .next t ∧ t.pending = s.pending

/-- A burnt fuse record never changes, and no step changes what the factory burnt (R381); a burn in progress stays one of an empty
record. -/
def Obligations.BurntRecordsNeverChange : Prop :=
  ∀ s t : State, s.fuses.wf = true → Sys2Proof.Machine.step s = .next t →
    t.fuses.wf = true ∧ s.fuses.sameFactory t.fuses ∧
      ∀ i : Nat, listGet s.fuses.records i 0 ≠ 0 → listGet t.fuses.records i 0 = listGet s.fuses.records i 0

/-- Every step keeps eight plains whose cap dividers lie from 4 to 6 (R400, R401). -/
def Obligations.CapDividersStayFrom4To6 : Prop :=
  ∀ s t : State, s.clk.wf = true → Sys2Proof.Machine.step s = .next t → t.clk.wf = true

/-- Every step keeps host memory and device memory in their canonical form: addresses strictly rising, and no cell that holds what an unlisted byte
reads as. The form is the model's (log entry 5). -/
def Obligations.MemoriesKeepTheirForm : Prop :=
  ∀ s t : State, s.dev.hmem.wf = true → s.dev.dmem.wf = true → Sys2Proof.Machine.step s = .next t →
    t.dev.hmem.wf = true ∧ t.dev.dmem.wf = true

/-- Values that the register tables state for a cold reset, as the power management, the identity, the rings, the trace and the debug
block have them (R432); the queue is empty, time is 0, and the invariants of fuses, cap dividers and memories hold. -/
def Obligations.ResetRegisterValues : Prop :=
  (∀ e ∈ ([(GLB, 0x0C811F6E), (GLB + 0x04, 0xB1), (CLK + 0x08, 0x44444444), (PWR + 0x08, 650), (ERR, 0), (ERR + 0x0C, 0),
      (WINF 0 + 0x20, 10), (WINF 63 + 0x20, 10), (ADM + 0x20, 0), (PASS + 0x04, 3), (PMC + 0x0C, 1000), (PMC + 0x34, 1), (TRC + 0x08, 0xFF),
      (TRC + 0x14, 6), (FUS + 0x14, 64 * 2 ^ 4), (DBG, 2)] : List (Nat × Nat)), State.reset.regValue e.1 = e.2) ∧
    State.reset.pending = [] ∧ State.reset.dev.sys.time = 0 ∧ State.reset.fuses.wf = true ∧ State.reset.clk.wf = true ∧
    State.reset.dev.hmem.wf = true ∧ State.reset.dev.dmem.wf = true

/-! Shared operations -/

/-- A number of n bytes stands lowest byte first: byte k is bits [8k+7:8k], and the bytes read back as the number. A write to host memory that does not
fail stores its bytes and no other, and keeps the memory's form; nothing else of the device changes but a counter. -/
def Obligations.BytesAreStoredLowestFirst : Prop :=
  (∀ n v : Nat, (leBytes n v).length = n ∧ leNat (leBytes n v) = v % 2 ^ (8 * n) ∧
    ∀ k : Nat, k < n → (leBytes n v)[k]? = some (BitVec.ofNat 8 (v / 2 ^ (8 * k)))) ∧
  ∀ (s t : Dev) (a : Nat) (b : Bytes), s.hostWrite a b = some t →
    (s.hmem.wf = true → t.hmem.readN a b.length = b) ∧ (∀ x : Nat, x < a ∨ a + b.length ≤ x → t.hmem.read x = s.hmem.read x) ∧
      (s.hmem.wf = true → t.hmem.wf = true) ∧ t = { s with hmem := t.hmem, inst := t.inst }

/-- The fields of a completion record (R296). -/
def Obligations.CompletionRecordLayout : Prop :=
  ∀ (c : Cpl) (k log2 : Nat),
    (c.entry k log2).length = 32 ∧ u64At (c.entry k log2) 0 = c.tag % 2 ^ 64 ∧ u32At (c.entry k log2) 8 = c.result % 2 ^ 32 ∧
      u8At (c.entry k log2) 12 = c.status % 256 ∧ u8At (c.entry k log2) 13 = c.flags % 128 + 128 * (1 - k / 2 ^ log2 % 2) ∧
      u8At (c.entry k log2) 14 = c.ring % 64 ∧ u8At (c.entry k log2) 15 = 0 ∧ u32At (c.entry k log2) 16 = c.index % 2 ^ 32 ∧
      u32At (c.entry k log2) 20 = 0 ∧ u64At (c.entry k log2) 24 = c.time % 2 ^ 64

/-- The completion at the head of a ring's queue is written in the order of R298: hallmark, then the entry of 32 bytes in its slot, then
WR, which counts it; it leaves the queue, and no other byte of host memory changes. -/
def Obligations.CompletionIsWrittenInOrder : Prop :=
  ∀ (s : Dev) (f c : Nat) (h : Cpl) (rest : List Cpl), s.sys.hostFaults = [] → (s.cring f c).wrHeld = false →
    ∃ t : Dev, s.writeHead f c h rest = (t, true) ∧ (t.cring f c).queue = rest ∧
      (t.cring f c).wr = ((s.cring f c).wr + 1) % 2 ^ 32 ∧
      t.hmem =
        (let r := s.cring f c
         let k := r.wr % 2 ^ r.log2
         let m := match h.hallmark with
           | some hm => s.hmem.writeN (r.hmBase + 128 * k) hm
           | none => s.hmem
         (m.writeN (r.base + 32 * k) (h.entry r.wr r.log2)).writeN (s.doorbell f + 768 + 4 * c) (leBytes 4 ((r.wr + 1) % 2 ^ 32)))

/-- While a function is in D3hot the completion of its descriptor is decided and held: it joins its ring's queue, the descriptor is
accepted no more, and no byte of host memory changes (R408). -/
def Obligations.D3hotHoldsCompletions : Prop :=
  ∀ (s : Dev) (a : Acc) (status result flags : Nat) (hm : Option Bytes) (x : Fn), s.host.fns.find a.func = some x → x.d3 = true →
    (s.conclude a status result flags hm).hmem = s.hmem ∧
      (∃ c : Cpl, ((s.conclude a status result flags hm).cring a.func a.cq).queue = (s.cring a.func a.cq).queue ++ [c] ∧
        c.status = status ∧ c.tag = tagOf a.raw ∧ c.index = a.index ∧ c.time = s.sys.time) ∧
      ∀ b ∈ (s.conclude a status result flags hm).host.accepted, b.seq ≠ a.seq

/-- Outside a freeze, a sticky bit that is set reads one, every other bit of the four registers stays, and the first-error capture changes
only where all four read zero, when it takes group, bit, place and time (R372). -/
def Obligations.StickyBitAndFirstErrorCapture : Prop :=
  ∀ (s : Dev) (g b det : Nat), s.sys.mode ≠ .frozen → g < 4 → b < 32 →
    (s.sticky g b det).regN (stickyAddr g) = s.regN (stickyAddr g) ||| 2 ^ b ∧
      (∀ h : Nat, h < 4 → h ≠ g → (s.sticky g b det).regN (stickyAddr h) = s.regN (stickyAddr h)) ∧
      (if s.stickyClear = true then
        (s.sticky g b det).regN (ERR + 0x10) = g + 4 * b + 2 ^ 31 ∧ (s.sticky g b det).reg (ERR + 0x14) = w32 det ∧
          (s.sticky g b det).reg (ERR + 0x18) = w32 s.sys.time ∧ (s.sticky g b det).reg (ERR + 0x1C) = w32 (s.sys.time / 2 ^ 32)
      else
        ∀ o ∈ ([0x10, 0x14, 0x18, 0x1C] : List Nat), (s.sticky g b det).reg (ERR + o) = s.reg (ERR + o))

/-- A counter that would pass 2^48 − 1 reads 2^48 − 1 with its saturation bit 1, and one that does not reads its count (R419); no other
counter changes. For the events that the model counts one by one. -/
def Obligations.CountersStopAtTheirEnd : Prop :=
  ∀ (i : Inst) (e n per time : Nat) (sel : Bool), unseen e = false → i.cnt.get e 0 ≤ 2 ^ 48 →
    (i.cnt.get e 0 + n ≤ 2 ^ 48 - 1 →
      (i.add e n per sel).counter time e = i.cnt.get e 0 + n ∧ (i.add e n per sel).sat time e = false) ∧
    (2 ^ 48 - 1 < i.cnt.get e 0 + n →
      (i.add e n per sel).counter time e = 2 ^ 48 - 1 ∧ (i.add e n per sel).sat time e = true) ∧
    ∀ e' : Nat, e' ≠ e → (i.add e n per sel).cnt.get e' 0 = i.cnt.get e' 0

/-- A trigger of a vector sends its message where it can be sent, and otherwise sets the vector's pending bit; none is lost (R302). -/
def Obligations.TriggersAreSentOrKept : Prop :=
  ∀ (s : Dev) (f v : Nat), f < 64 → v < 32 → (s.sys.mode = .ready ∨ s.sys.mode = .quiesced ∨ s.sys.mode = .boot) →
    (s.canSend f v = true →
      (s.trigger f v).host.outputs =
        s.host.outputs ++ [.msix (s.reg64 (MSI f + 16 * v) (MSI f + 16 * v + 4)) (s.regN (MSI f + 16 * v + 8))] ∧
      (s.trigger f v).regs = s.regs) ∧
    (s.canSend f v = false →
      (s.trigger f v).host.outputs = s.host.outputs ∧ bitAt ((s.trigger f v).regN (MSI f + 0x800)) v = true)

/-- The effective divider of a plain is max(min(max(host, cap), floor), prot): host is the plain's field of CLK_PLREQ, cap the power cap's, floor the
smallest CLK_DIV among the guaranteed seats with tiles in the plain, or 6, and prot is 6 while a protection cause holds and else 4 (R397). It lies
from 4 to 6 (R400). -/
def Obligations.EffectiveDividerFollowsItsCauses : Prop :=
  ∀ (s : State) (p : Fin 8),
    4 ≤ s.targetDiv p ∧ s.targetDiv p ≤ 6 ∧
    s.targetDiv p =
      max (min (max (s.dev.regN (CLK + 0x08) / 16 ^ p.val % 16) (s.clk.plain p).cap) (s.dev.floorOf p))
        (if (s.clk.plain p).thermal = true ∨ (s.clk.plain p).vmin = true ∨ s.clk.neighbour p = true then 6 else 4) ∧
    s.dev.floorOf p ≤ 6 ∧
    (∀ e ∈ s.dev.media.allSeats, e.1.guaranteed = true → e.2.inPlain p = true → s.dev.floorOf p ≤ e.1.clkDiv) ∧
    (s.dev.floorOf p = 6 ∨ ∃ e ∈ s.dev.media.allSeats, e.1.guaranteed = true ∧ e.2.inPlain p = true ∧ s.dev.floorOf p = e.1.clkDiv)

/-! Descriptors -/

/-- NOP completes with DONE; FENCE completes with DONE once every descriptor that it waits for is done, and until then holds (R295, R299,
R300). -/
def Obligations.NopAndFenceComplete : Prop :=
  (∀ (s : State) (d : Desc) (a : Acc), s.dev.Runs d 0x01 a →
    Sys2Proof.Machine.exec (.nop d) s = .next { s with dev := s.dev.complete a stDONE 0 0 none }) ∧
  ∀ (s : State) (d : Desc) (a : Acc) (scope : Nat), s.dev.Runs d 0x02 a → fenceScope a.raw = some scope →
    Sys2Proof.Machine.exec (.fence d) s =
      .next { s with dev := if s.dev.fenceMet a = true then s.dev.complete a stDONE 0 0 none else s.dev.setStage a.seq .begun }

/-- Every descriptor that names no stream and fails a common check of R294 completes with BAD_DESCRIPTOR and does nothing else. -/
def Obligations.BadDescriptorsAreRejected : Prop :=
  ∀ (c : Instr) (s : State) (d : Desc) (row : Nat) (a : Acc), plainDesc c = some (d, row) → s.dev.Fails d row a →
    Sys2Proof.Machine.exec c s = .next { s with dev := s.dev.complete a stBAD 0 0 none }

/-- MODEL_LOAD of a file in range that is read, with a lossless engine free where step 4 decompresses a section: a file that passes the checks of R150
gets a handle, which is the completion's result; one that does not ends with the failure's status and result; a function or store at its limit with
REJECTED_ADMISSION (R150, R151). The engine's bytes are counted. That the handle is the lowest free number is the model's choice (log entry 45), and
so are which of several faults is named (log entry 37) and that the load waits for an engine (log entry 50). -/
def Obligations.ModelLoadCompletes : Prop :=
  ∀ (s : State) (d : Desc) (a : Acc) (file : Bytes), s.dev.Runs d 0x10 a →
    64 ≤ u64At a.raw 24 → u64At a.raw 24 ≤ 2 ^ 32 → s.dev.addrOk a.func (bitAt (spacesOf a.raw) 0) (u64At a.raw 16) (u64At a.raw 24) = true →
    s.dev.readSpace (bitAt (spacesOf a.raw) 0) (u64At a.raw 16) (u64At a.raw 24) = some file →
    (needsEngine file (s.dev.keysFor a.seq).1 (s.dev.keysFor a.seq).2 = true → s.dev.engineFor a = true) →
    Sys2Proof.Machine.exec (.modelLoad d) s =
      .next { s with
        dev :=
          let v := if bitAt (spacesOf a.raw) 0 = true then s.dev else s.dev.count (ev 11 0) (u64At a.raw 24)
          let io := if needsEngine file (s.dev.keysFor a.seq).1 (s.dev.keysFor a.seq).2 = true then
              engineBytes file ((List.range (u16At file 6)).map (dirEntry file))
            else (0, 0)
          let w := (v.count (ev 13 0) io.1).count (ev 13 1) io.2
          match loadFile file (s.dev.keysFor a.seq).1 (s.dev.keysFor a.seq).2 with
          | .error e => w.complete a e.status e.result 0 none
          | .ok p =>
            match w.assignHandle a.func p with
            | none => w.complete a stADMISSION (failCode 9 0xFFFF) 0 none
            | some (h, t) => t.complete a stDONE h 0 none }

/-- MODEL_UNLOAD of an unknown handle completes with MODEL_MISSING; of a handle that an open stream or an admitted contract of the function uses,
with REJECTED_ADMISSION, and changes nothing else; else the load count goes down, at zero the handle goes and a package that no function has a handle
of is freed, and the unload completes with DONE (R152). -/
def Obligations.ModelUnloadFollowsItsRule : Prop :=
  (∀ (s : State) (d : Desc) (a : Acc), s.dev.Runs d 0x11 a → (s.dev.fn a.func).handleAt a.seq (handleOf a.raw) = none →
    Sys2Proof.Machine.exec (.modelUnload d) s = .next { s with dev := s.dev.complete a stMISSING 0 0 none }) ∧
  ∀ (s : State) (d : Desc) (a : Acc) (h : Handle), s.dev.Runs d 0x11 a → (s.dev.fn a.func).handleAt a.seq (handleOf a.raw) = some h →
    Sys2Proof.Machine.exec (.modelUnload d) s =
      .next { s with
        dev :=
          if (s.dev.media.contracts.any fun c => c.2.func == a.func && c.2.pkg == h.pkg) = true ∨
              (s.dev.media.streams.any fun t => t.2.func == a.func && t.2.bound && t.2.pkg == h.pkg) = true then
            s.dev.complete a stADMISSION 0 0 none
          else
            (let x := s.dev.fn a.func
             if h.count > 1 then s.dev.setFn a.func { x with handles := x.handles.put (handleOf a.raw) { h with count := h.count - 1 } }
             else (s.dev.setFn a.func { x with handles := x.handles.del (handleOf a.raw) }).dropPackages).complete a stDONE 0 0 none }

/-- CONTRACT_OPEN of a block that fits its package and the limits: admission either takes it, when the report is written, the contract gets the
lowest free number and the completion carries it, or gives its reason (R259 to R263, R269). CONTRACT_CLOSE of a contract without streams ends
it and frees what it held (R259). That the number is the lowest is the model's choice (log entry 45). -/
def Obligations.ContractCommandsComplete : Prop :=
  (∀ (s : State) (d : Desc) (a : Acc) (b : Bytes) (h : Handle), s.dev.Runs d 0x20 a → u64At a.raw 16 + 128 ≤ 2 ^ 64 →
    s.dev.sys.hostFaults = [] → b = s.dev.hmem.readN (u64At a.raw 16) 64 → (s.dev.fn a.func).handleAt a.seq (u16At b 0) = some h →
    Sys2Proof.Machine.exec (.contractOpen d) s =
      .next { s with
        dev :=
          let w := s.dev.count (ev 11 0) 64
          let cpb := u64At a.raw 16
          let p := s.dev.media.pkgs.get h.pkg Pkg.empty
          let c : Contract := { func := a.func, cpb := b, pkg := h.pkg, k := 0, rTrain := 0, bound := 0, seats := [] }
          if (cpbOk b && c.fitsPkg p) = false then w.contractFail a cpb stFORMAT 1
          else if (s.dev.media.contracts.filter fun e => e.2.func == a.func).length ≥ 64 ∨ s.dev.media.contracts.length ≥ 256 ∨
              s.dev.media.allSeats.length + c.seatCount > 1024 then
            (w.count (ev 14 4) 1).contractFail a cpb stADMISSION 7
          else
            match w.admitted c p with
            | .error r => (w.count (ev 14 4) 1).contractFail a cpb stADMISSION r
            | .ok x =>
              let t := (w.putHost (cpb + 64) (x.report p)).count (ev 11 1) (x.report p).length
              let n := lowestFree s.dev.media.contracts 257
              let u : Dev := { t with media := { t.media with contracts := t.media.contracts.put n x } }
              (((u.wakeSeats x.seats).seatsChanged).count (ev 14 3) 1).complete a stDONE n 0 none }) ∧
  ∀ (s : State) (d : Desc) (a : Acc) (c : Contract), s.dev.Runs d 0x21 a →
    s.dev.media.contracts.find (handleOf a.raw) = some c → c.func = a.func → (c.seats.any fun x => x.stream.isSome) = false →
    Sys2Proof.Machine.exec (.contractClose d) s = .next { s with dev := (s.dev.dropContract (handleOf a.raw)).complete a stDONE 0 0 none }

/-- STREAM_OPEN that fits its contract, for a free seat and a pool with room: the stream takes the lowest free index and the contract's lowest
free seat, whose tokens start at BURST, and the completion carries index and generation (R262, R263, R293). STREAM_CLOSE of an open stream begins
its close: what it cancels stops, and the rest follows (R237, R300). That the index is the lowest is the model's choice (log entry 45). -/
def Obligations.StreamOpenAndCloseComplete : Prop :=
  (∀ (s : State) (d : Desc) (a : Acc) (w : Dev) (c : Contract) (m : Nat) (enc : Bool) (p : Pkg) (b : Bytes) (i k : Nat) (x : Stream),
    s.dev.Runs d 0x30 a → s.dev.media.contracts.find (handleOf a.raw) = some c → c.func = a.func → c.job = 2 * m + (if enc = true then 0 else 1) →
    u8At a.raw 24 = (if enc = true then 3 else 0) → u64At a.raw 16 + paramLen m ≤ 2 ^ 64 →
    s.dev.hostRead (u64At a.raw 16) (paramLen m) = some b → p = s.dev.media.pkgs.get c.pkg Pkg.empty → w = s.dev.count (ev 11 0) (paramLen m) →
    (match m with
      | 0 => vpbOk b enc p c.gopMin
      | 1 => apbOk b enc p
      | _ => fpbOk b enc p) = true →
    geometryOk c m b p = true → c.fitsStream m b = true → paramA m b ≤ c.rerunA → c.freeSeat = some k → i = lowestFree w.media.streams 1025 →
    w.reserve (Stream.fresh a.func (handleOf a.raw) k (w.media.gens.get i 0) m enc b c.pkg p) p = some x →
    Sys2Proof.Machine.exec (.streamOpen d) s =
      .next { s with
        dev :=
          ((w.setStream i x).modSeat (handleOf a.raw) k fun t =>
            { t with stream := some i, tokens := c.burst, tokenAt := w.nowNs, redos := 0, redoMark := 0, uncovered := false, link := false }).complete a
              stDONE (i + 65536 * w.media.gens.get i 0) 0 none }) ∧
  ∀ (s : State) (d : Desc) (a : Acc) (n : Nat) (x : Stream), s.dev.Runs d 0x31 a → n = handleOf a.raw % 65536 →
    s.dev.stream n = some x → x.func = a.func → x.gen = handleOf a.raw / 65536 → x.closing = none →
    Sys2Proof.Machine.exec (.streamClose d) s =
      .next { s with
        dev :=
          let standby := (match s.dev.slotOf n with
            | some (_, t) => t.role != .active
            | none => x.mirror == .standby)
          let y : Stream := { x.cancelJobs with closing := some a.seq, closeCorrupt := x.lacksSlices, endSent := standby }
          ((((s.dev.setStream n y).setStage a.seq .begun).endMirror n true).closeSlices n a.seq).follow n }

/-- A job of a stream whose operands are in range is accepted at the end of the stream's jobs, and what follows is done: an ENC_PICTURE pins the
pool buffer that it names, a decode job names a buffer of 1 to 2^30 bytes (R209, R219, R222, R225, R235, R246, R252, R257). -/
def Obligations.StreamJobsAreQueued : Prop :=
  (∀ (s : State) (d : Desc) (a : Acc) (n : Nat) (x : Stream), s.dev.Runs d 0x40 a → s.dev.Names a n x → x.medium = 0 → x.enc = true →
    s.dev.encPictureOk a x = true →
    Sys2Proof.Machine.exec (.encPicture d) s =
      .next { s with
        dev :=
          let i := u32At a.raw 16 % 4096
          ((if bitAt (spacesOf a.raw) 0 = true then s.dev.setBuf i { s.dev.buf i with pins := (s.dev.buf i).pins + 1 } else s.dev).addJob n x a).follow n }) ∧
  (∀ (s : State) (d : Desc) (a : Acc) (n : Nat) (x : Stream) (m : Nat) (c : Instr),
    (m = 0 ∧ s.dev.Runs d 0x41 a ∧ c = .decUnits d) ∨ (m = 1 ∧ s.dev.Runs d 0x51 a ∧ c = .audDec d) ∨
      (m = 2 ∧ s.dev.Runs d 0x61 a ∧ c = .fldDec d) →
    s.dev.Names a n x → x.medium = m → x.enc = false → 1 ≤ u64At a.raw 24 → u64At a.raw 24 ≤ 2 ^ 30 →
    s.dev.addrOk a.func (bitAt (spacesOf a.raw) 0) (u64At a.raw 16) (u64At a.raw 24) = true → s.dev.statOk a = true →
    Sys2Proof.Machine.exec c s = .next { s with dev := (s.dev.addJob n x a).follow n }) ∧
  (∀ (s : State) (d : Desc) (a : Acc) (n : Nat) (x : Stream), s.dev.Runs d 0x50 a → s.dev.Names a n x → x.medium = 1 → x.enc = true →
    1 ≤ u64At a.raw 24 → u64At a.raw 24 % max 1 x.frameBytes = 0 →
    s.dev.addrOk a.func (bitAt (spacesOf a.raw) 0) (u64At a.raw 16) (u64At a.raw 24) = true → s.dev.statOk a = true →
    Sys2Proof.Machine.exec (.audEnc d) s = .next { s with dev := (s.dev.addJob n x a).follow n }) ∧
  ∀ (s : State) (d : Desc) (a : Acc) (n : Nat) (x : Stream), s.dev.Runs d 0x60 a → s.dev.Names a n x → x.medium = 2 → x.enc = true →
    u64At a.raw 16 + x.arrayBytes ≤ 2 ^ 64 → s.dev.statOk a = true →
    (∀ k : Nat, k < 4 → u32At a.raw (24 + 4 * k) < listGet (blockCounts x.fieldShape.1 x.fieldShape.2.1 x.fieldShape.2.2) k 1) →
    Sys2Proof.Machine.exec (.fldEnc d) s = .next { s with dev := (s.dev.addJob n x a).follow n }

/-- POOL_MARK: ALLOC gives a free record and the lowest run of granules to the function, HOST_HELD; TAKE makes an output buffer HOST_HELD;
DISCARD returns one to FREE; RELEASE returns a HOST_HELD buffer, once it is not pinned. Each reports the buffer and completes with its handle
(R218, R219). That the run is the lowest is the model's choice (log entry 53). -/
def Obligations.PoolMarksComplete : Prop :=
  (∀ (s : State) (d : Desc) (a : Acc) (i base : Nat), s.dev.Runs d 0x4801 a → poolArgsOk true a.raw = true → s.dev.freeRecord = some i →
    s.dev.freeRun s.dev.poolTaken (ceilDiv (u64At a.raw 24) granule) = some base → s.dev.recordsFree ≠ 0 →
    ceilDiv (u64At a.raw 24) granule ≤ s.dev.poolFree →
    Sys2Proof.Machine.exec (.poolMarkAlloc d) s =
      .next { s with
        dev :=
          let t := s.dev.setBuf i { s.dev.buf i with
            state := .hostHeld, owner := a.func, base := base, granules := ceilDiv (u64At a.raw 24) granule, pins := 0, releaseDue := false
            stream := none, output := false }
          t.poolDone a (t.bufHandle i) .hostHeld base }) ∧
  (∀ (s : State) (d : Desc) (a : Acc) (i : Nat), s.dev.Runs d 0x4802 a → s.dev.takable a = some i → poolArgsOk false a.raw = true →
    Sys2Proof.Machine.exec (.poolMarkTake d) s =
      .next { s with
        dev := (s.dev.setBuf i { s.dev.buf i with state := .hostHeld }).poolDone a (handleOf a.raw) .hostHeld
          ((s.dev.setBuf i { s.dev.buf i with state := .hostHeld }).buf i).base }) ∧
  (∀ (s : State) (d : Desc) (a : Acc) (i : Nat), s.dev.Runs d 0x4803 a → s.dev.bufNamed a.func (handleOf a.raw) [.hostHeld] = some i →
    poolArgsOk false a.raw = true →
    Sys2Proof.Machine.exec (.poolMarkRelease d) s =
      .next { s with
        dev :=
          let t := if (s.dev.buf i).pins = 0 then s.dev.freeBuf i else s.dev.setBuf i { s.dev.buf i with releaseDue := true }
          (t.poolDone a (handleOf a.raw) (t.buf i).state (s.dev.buf i).base).pumpWaiting }) ∧
  ∀ (s : State) (d : Desc) (a : Acc) (i : Nat), s.dev.Runs d 0x4804 a → s.dev.takable a = some i → poolArgsOk false a.raw = true →
    Sys2Proof.Machine.exec (.poolMarkDiscard d) s =
      .next { s with dev := ((s.dev.freeBuf i).poolDone a (handleOf a.raw) .free (s.dev.buf i).base).pumpWaiting }

/-- COPY2D with operands in range, and room in the pool where it is staged: a staged copy reads all its rows, then writes them; another copies row by
row in the traversal of R305; an access that fails ends it with COPY_FAULT (R303 to R306). A copy of one row within device memory leaves the source's
bytes at the destination and no other byte of device memory changed. -/
def Obligations.Copy2dMovesItsRows : Prop :=
  (∀ (s : State) (d : Desc) (a : Acc) (c : Copy), s.dev.Runs d 0x78 a → c = copyOf a.raw → 1 ≤ c.width → 1 ≤ c.rows →
    c.width * c.rows ≤ 2 ^ 26 → (c.rows = 1 ∨ c.width ≤ c.sD.natAbs) →
    s.dev.rectOk a.func c.spS c.src c.sS c.width c.rows = true → s.dev.rectOk a.func c.spD c.dst c.sD c.width c.rows = true →
    (c.staged = true → ceilDiv (c.width * c.rows) 65536 + s.dev.poolReserved ≤ s.dev.poolGranules ∧ ceilDiv (c.width * c.rows) 65536 ≤ s.dev.poolFree) →
    Sys2Proof.Machine.exec (.copy2d d) s =
      .next { s with
        dev :=
          let w := s.dev.count (ev 11 9) 1
          let out := if c.staged = true then
              (match w.readRows c.spS c.src c.sS c.width c.rows 0 with
              | some rows => w.writeStaged c rows
              | none => (w, false))
            else s.dev.copyRows c
          if out.2 = true then (out.1.copySent c).complete a stDONE 0 0 none
          else (out.1.dataFault a.func a.ring).complete a stCOPY 0 0 none }) ∧
  ∀ (s : State) (d : Desc) (a : Acc) (c : Copy), s.dev.Runs d 0x78 a → c = copyOf a.raw → c.spS = true → c.spD = true →
    1 ≤ c.width → c.width ≤ 2 ^ 26 → c.rows = 1 → s.dev.rectOk a.func true c.src c.sS c.width 1 = true →
    s.dev.rectOk a.func true c.dst c.sD c.width 1 = true → s.dev.dmem.wf = true →
    ∃ t : State, Sys2Proof.Machine.exec (.copy2d d) s = .next t ∧ s.devOnly t ∧
      t.dev.dmem.readN c.dst.toNat c.width = s.dev.dmem.readN c.src.toNat c.width ∧
      ∀ x : Nat, x < c.dst.toNat ∨ c.dst.toNat + c.width ≤ x → t.dev.dmem.read x = s.dev.dmem.read x

/-- A host job of the lossless engines that has its turn runs to its end on a free engine; where every engine that no job holds runs a booked segment it
takes one of them and waits suspended (R277, R318, R319). LL_SUSPEND brings a booked segment to an engine and suspends its host job; LL_RESUME runs the
host job that waits there to its end, or leaves the engine free. Which engine a job takes is the model's choice (log entry 50). -/
def Obligations.LosslessJobsRunAndYield : Prop :=
  (∀ (s : State) (d : Desc) (a : Acc) (comp : Bool), s.dev.Runs d (if comp = true then 0x70 else 0x71) a → s.dev.llOk a comp = true →
    s.dev.llAhead a < s.dev.llFree →
    (∀ e : Nat, (s.dev.findLle fun l => l.job.isNone && !l.segment) = some e →
      Sys2Proof.Machine.exec (if comp = true then .llComp d else .llDecomp d) s = .next { s with dev := s.dev.llRun a }) ∧
    ∀ e : Nat, (s.dev.findLle fun l => l.job.isNone && !l.segment) = none → (s.dev.findLle fun l => l.job.isNone) = some e →
      Sys2Proof.Machine.exec (if comp = true then .llComp d else .llDecomp d) s =
        .next { s with dev := ((s.dev.setLle e { s.dev.lle e with job := some a.seq, suspended := true }).setStage a.seq .begun).count (ev 13 3) 1 }) ∧
  (∀ (s : State) (e : Fin 4), s.dev.working = true → (s.dev.lle e).failed = false →
    Sys2Proof.Machine.exec (.llSuspend e) s =
      .next { s with
        dev :=
          let l := s.dev.lle e
          let t := s.dev.setLle e { l with segment := true, suspended := l.job.isSome }
          if l.job.isSome = true ∧ l.suspended = false then t.count (ev 13 3) 1 else t }) ∧
  ∀ (s : State) (e : Fin 4), s.dev.working = true → (s.dev.lle e).failed = false →
    Sys2Proof.Machine.exec (.llResume e) s =
      .next { s with
        dev :=
          let t := s.dev.setLle e { s.dev.lle e with segment := false, suspended := false, job := none }
          match (s.dev.lle e).job.bind t.accOf with
          | some a => t.llRun a
          | none => t }

/-! Rings -/

/-- LOAD reads the ring table of a function and applies its completion rings, then its descriptor rings, in ascending order; a table that cannot
be read is a fault of the ring structures (R287, R288, R301). Nothing but the device changes, and an arming of the fuses ends. -/
def Obligations.LoadAppliesTheRingTable : Prop :=
  ∀ (s : State) (f : Fin 64), s.dev.serving = true → s.dev.exists f = true → (s.dev.fn f).d3 = false →
    Sys2Proof.Machine.exec (.load f) s =
      .next { s with
        fuses := { s.fuses with armedAt := none }
        dev :=
          match s.dev.hostRead (s.dev.ringTable f) 4096 with
          | none => s.dev.ringFault f 2 0 false
          | some tbl =>
            let s0 := s.dev.count (ev 11 0) 4096
            let cqs := (List.range 64).map fun c => s0.loadCq f tbl c
            let dqs := (List.range 64).map fun n => s0.loadDq f tbl (fun c => (listGet cqs c (CRing.off, false)).1.en) n
            let s1 := (List.range 64).foldl (fun t c => t.applyCq f c (listGet cqs c (CRing.off, false))) s0
            (List.range 64).foldl (fun t n => t.applyDq f n (listGet dqs n (DRing.off, false))) s1 }

/-- A write to WAKE counts, and wants a poll where the function is enabled (R290). A poll retries held writes, reads the doorbell page and visits
the enabled rings in order (R291). The moderation timer of a ring that ran out triggers its vector and stops (R302). A pending message goes once
it can be sent, and its pending bit clears (R302). -/
def Obligations.RingCommandsComplete : Prop :=
  (∀ (s : State) (f : Fin 64) (w : Word), s.dev.serving = true → s.dev.exists f = true → (s.dev.fn f).d3 = false →
    Sys2Proof.Machine.exec (.wake f w) s =
      .next { s with
        fuses := { s.fuses with armedAt := none }
        dev :=
          let t := s.dev.count (ev 11 5) 1
          if bitAt (s.dev.regN (WINF f)) 0 = true then t.setFn f { s.dev.fn f with again := true } else t }) ∧
  (∀ (s : State) (f : Fin 64), s.dev.pollDue f = true → s.dev.sys.hostFaults = [] →
    Sys2Proof.Machine.exec (.poll f) s =
      .next { s with
        dev :=
          let s0 := (s.dev.retryHeld f).count (ev 11 4) 1
          let s1 := s0.setFn f { s0.fn f with again := false }
          match s1.hostRead (s1.doorbell f) 512 with
          | none => (s1.ringFault f 3 0 false).pollStreams f
          | some page =>
            let s2 := s1.count (ev 11 0) 512
            let order := (ringOrder (s2.fn f).lastStart).filter fun q => (s2.dring f q).en
            let cons := (List.range 64).map fun c => (c, u32At page (256 + 4 * c))
            let s3 := s2.setFn f { s2.fn f with lastStart := order.headD (s2.fn f).lastStart, cons := cons }
            (order.foldl (fun t q => if t.serving = true then t.pollRing f page q else t) s3).pollStreams f }) ∧
  (∀ (s : State) (f c : Fin 64) (t0 : Nat), s.dev.clocked = true → (s.dev.cring f c).oldest = some t0 → (s.dev.cring f c).en = true →
    (s.dev.cring f c).irqEn = true → t0 + (s.dev.cring f c).modTime * 1200 ≤ s.dev.sys.time →
    Sys2Proof.Machine.exec (.modTime f c) s =
      .next { s with
        dev := (s.dev.setCring f c { s.dev.cring f c with pend := 0, oldest := none }).trigger f (s.dev.cring f c).vector }) ∧
  ∀ (s : State) (f : Fin 64) (v : Fin 32), bitAt (s.dev.regN (MSI f + 0x800)) v = true → s.dev.canSend f v = true →
    Sys2Proof.Machine.exec (.msixPendingSend f v) s = .next { s with dev := (s.dev.setPba f v false).msi f v }

/-! Mirrors by descriptor -/

/-- MIRROR_CTL on an open stream of the function that is not evicted: ATTACH goes to the partner and waits armed; DETACH ends the mirror or the wait,
and completes at once where the partner is silent or no slot is held, else once the other end's slot is free too; WATCH waits armed on a standby slot
that has none; SWITCH marks the active slot and goes on with the stream's steps; TAKEOVER with FORCE makes a standby slot with an epoch, or a held
slot, active (R350 to R353, R364 to R366). -/
def Obligations.MirrorControlsComplete : Prop :=
  (∀ (s : State) (d : Desc) (a : Acc) (n : Nat) (x : Stream), s.dev.Runs d 0x8001 a → s.dev.mirrorStream a 1 false = some (n, x) →
    x.failed ≠ some stABORTED →
    Sys2Proof.Machine.exec (.attach d) s =
      .next { s with
        dev :=
          let w : WaitAttach := { seq := a.seq, func := x.func, stream := n, mirrorId := mirrorIdOf a.raw, active := u8At a.raw 17 == 0 }
          (({ s.dev with pair := { s.dev.pair with waiting := s.dev.pair.waiting ++ [w] } }).sendRecord (.attachSent w.mirrorId w.active)).setStage
            a.seq .armed }) ∧
  (∀ (s : State) (d : Desc) (a : Acc) (n : Nat) (x : Stream), s.dev.Runs d 0x8002 a → s.dev.mirrorStream a 0 false = some (n, x) →
    x.failed ≠ some stABORTED → (s.dev.pair.detaching.any fun e => e.1 == a.seq) = false →
    ((s.dev.slotOf n).isSome = true ∨ (s.dev.pair.waiting.any fun w => w.stream == n) = true) →
    Sys2Proof.Machine.exec (.detach d) s =
      .next { s with
        dev :=
          if (s.dev.slotOf n).isSome = true ∧ s.dev.pair.silent = false then
            ({ s.dev with pair := { s.dev.pair with detaching := s.dev.pair.detaching ++ [(a.seq, mirrorIdOf a.raw)] } }.endMirror n false).pump n false
          else ((s.dev.endMirror n false).pump n false).complete a stDONE 0 0 none }) ∧
  (∀ (s : State) (d : Desc) (a : Acc) (n k : Nat) (x : Stream) (t : Slot), s.dev.Runs d 0x8003 a →
    s.dev.mirrorStream a 0 true = some (n, x) → x.failed ≠ some stABORTED → s.dev.slotOf n = some (k, t) → t.role = .standby → t.watchSeq = none →
    Sys2Proof.Machine.exec (.watch d) s = .next { s with dev := (s.dev.setSlot k { t with watchSeq := some a.seq }).setStage a.seq .armed }) ∧
  (∀ (s : State) (d : Desc) (a : Acc) (n k : Nat) (x : Stream) (t : Slot), s.dev.Runs d 0x8004 a →
    s.dev.mirrorStream a 0 false = some (n, x) → x.failed ≠ some stABORTED → s.dev.slotOf n = some (k, t) → t.role = .active → t.switchSeq = none →
    s.dev.pair.silent = false →
    Sys2Proof.Machine.exec (.switch d) s = .next { s with dev := (s.dev.setSlot k { t with switchSeq := some a.seq }).pump t.stream false }) ∧
  ∀ (s : State) (d : Desc) (a : Acc) (n k : Nat) (x : Stream) (t : Slot), s.dev.Runs d 0x8005 a →
    s.dev.mirrorStream a 2 false = some (n, x) → x.failed ≠ some stABORTED → s.dev.slotOf n = some (k, t) → u8At a.raw 17 ≠ 0 →
    ((t.role = .standby ∧ t.epochNo.isSome = true) ∨ t.role = .held) →
    Sys2Proof.Machine.exec (.takeover d) s = .next { s with dev := ((s.dev.takeSlot k 2 stTAKEOVER true).refreshStreams).complete a stDONE 0 0 none }

/-! Keys -/

/-- INSTALL, ERASE and LOCK while the keys are not locked: INSTALL makes the selected slot valid where its bytes are a point of the curve, ERASE
clears it, LOCK sets LOCK; once LOCK is set none of them has an effect (R146). An arming of the fuses ends. -/
def Obligations.KeyCommandsComplete : Prop :=
  ∀ s : State, s.dev.writable 6 = true →
    Sys2Proof.Machine.exec .install s =
      .next { s with
        fuses := { s.fuses with armedAt := none }
        dev := if s.dev.keyLocked = true then s.dev else s.dev.noteKeys.setKey fun k => { k with valid := keyOk k.data } } ∧
    Sys2Proof.Machine.exec .erase s =
      .next { s with
        fuses := { s.fuses with armedAt := none }
        dev := if s.dev.keyLocked = true then s.dev else s.dev.noteKeys.setKey fun _ => KeySlot.reset } ∧
    Sys2Proof.Machine.exec .admKeyctlLock s =
      .next { s with
        fuses := { s.fuses with armedAt := none }
        dev := if s.dev.keyLocked = true then s.dev else s.dev.setRegN (ADM + 0x800) (s.dev.regN (ADM + 0x800) ||| 2) }

/-! The chain -/

/-- The chain's commands while the registers are served: HEAD makes the device head and enumerates; ENUM enumerates at a head; RELEASE gives the
address up; QUERY sends a request, or is unknown at once without an address; a query without an answer for 3 ms ends unknown; a status broadcast
goes to every device with an address (R340, R343, R344). -/
def Obligations.ChainCommandsComplete : Prop :=
  (∀ s : State, s.dev.writable 10 = true →
    Sys2Proof.Machine.exec .head s =
      .next { s with
        fuses := { s.fuses with armedAt := none }
        dev := ((s.dev.setRegN MCH 1).setChain fun c => { c with head := true }).enumerate s.fuses.serial } ∧
    (s.dev.chain.head = true →
      Sys2Proof.Machine.exec .enum s = .next { s with fuses := { s.fuses with armedAt := none }, dev := s.dev.enumerate s.fuses.serial }) ∧
    Sys2Proof.Machine.exec .mchRelease s =
      .next { s with fuses := { s.fuses with armedAt := none }, dev := s.dev.setChain fun c => { c with addr := 0 } } ∧
    (s.dev.chain.hostQuery = none →
      Sys2Proof.Machine.exec .query s =
        .next { s with
          fuses := { s.fuses with armedAt := none }
          dev :=
            if s.dev.chain.addr = 0 then s.dev.setChain fun c => { c with qres := 3 }
            else
              (s.dev.sendFrame (s.dev.regN (MCH + 0x0C)) 0x11 []).setChain fun c =>
                { c with hostQuery := some (s.dev.regN (MCH + 0x0C), s.dev.sys.time), qres := 0 } })) ∧
  (∀ (s : State) (a t : Nat), s.dev.onChain = true → s.dev.chain.hostQuery = some (a, t) → s.dev.chain.ownQuery = none →
    t + 3600000 ≤ s.dev.sys.time →
    Sys2Proof.Machine.exec .queryTimeout s = .next { s with dev := s.dev.setChain fun c => { c with hostQuery := none, qres := 3 } }) ∧
  ∀ s : State, s.dev.onChain = true → s.dev.chain.addr ≠ 0 →
    Sys2Proof.Machine.exec .statusBroadcast s =
      .next { s with
        dev := (s.dev.sendFrame 255 0x10 (s.dev.statusPayload s.fuses.serial)).setChain fun c => { c with statusDue := false, ringOk := false } }

/-- The frames of the chain where they have their effect, at a device that is not bypassed. SURVEY: a device that is no head adds its address and
forwards; a head turns its own survey into an ASSIGN, having taken the lowest address that the survey leaves free if it had none. ASSIGN: a ready
device without an address takes the lowest clear one; a head counts its own. JOIN: a head enumerates, another device forwards, its sender removes it.
STATUS: the device named learns from it and removes it, a broadcast is learnt from and forwarded, and the sender's own comes off the chain.
STATUS_REQ: the device named answers. A frame that fails its CRC is counted and goes no further. A bypassed device passes every frame on as it is
(R338 to R344). -/
def Obligations.ChainFramesComplete : Prop :=
  (∀ (s : State) (fr : Frame), s.dev.onChain = true → carries fr.bytes 0x01 40 = true →
    (s.dev.chain.head = false →
      Sys2Proof.Machine.exec (.survey fr) s =
        .next { s with
          dev := s.dev.forward (reframe fr.bytes
            ((if s.dev.chain.addr = 0 then slice fr.bytes 4 32 else mapAdd (slice fr.bytes 4 32) s.dev.chain.addr) ++ slice fr.bytes 36 8)) }) ∧
    (s.dev.chain.head = true → u64At fr.bytes 36 = s.fuses.serial →
      Sys2Proof.Machine.exec (.survey fr) s =
        .next { s with
          dev :=
            let t := s.dev.takeAddr (slice fr.bytes 4 32)
            (t.1.sendFrame 0 0x02 (t.2 ++ leBytes 8 s.fuses.serial)).setChain fun c => { c with surveyOut := false } })) ∧
  (∀ (s : State) (fr : Frame), s.dev.onChain = true → carries fr.bytes 0x02 40 = true →
    (s.dev.chain.head = false → s.dev.chain.addr = 0 → s.dev.serving = true → ∀ a : Nat, lowestClear (slice fr.bytes 4 32) = some a →
      Sys2Proof.Machine.exec (.assign fr) s =
        .next { s with
          dev := (s.dev.setChain fun c => { c with addr := a, full := false }).forward
            (reframe fr.bytes (mapAdd (slice fr.bytes 4 32) a ++ slice fr.bytes 36 8)) }) ∧
    (s.dev.chain.head = true → u64At fr.bytes 36 = s.fuses.serial →
      Sys2Proof.Machine.exec (.assign fr) s = .next { s with dev := s.dev.setChain fun c => { c with count := mapCount (slice fr.bytes 4 32) } })) ∧
  (∀ (s : State) (fr : Frame), s.dev.onChain = true → carries fr.bytes 0x03 8 = true →
    Sys2Proof.Machine.exec (.join fr) s =
      .next { s with
        dev := if s.dev.chain.head = true then s.dev.enumerate s.fuses.serial
          else if u64At fr.bytes 4 = s.fuses.serial then s.dev else s.dev.forward fr.bytes }) ∧
  (∀ (s : State) (fr : Frame), s.dev.onChain = true → carries fr.bytes 0x10 16 = true →
    Sys2Proof.Machine.exec (.status fr) s =
      .next { s with
        dev := if 1 ≤ frameDst fr.bytes ∧ frameDst fr.bytes ≤ 254 then
            (if frameDst fr.bytes = s.dev.chain.addr then s.dev.learn fr.bytes else s.dev.forward fr.bytes)
          else if frameSrc fr.bytes = s.dev.chain.addr ∧ u64At (framePayload fr.bytes) 8 = s.fuses.serial then
            s.dev.setChain fun c => { c with ringOk := true }
          else (if frameDst fr.bytes = 255 then s.dev.learn fr.bytes else s.dev).forward fr.bytes }) ∧
  (∀ (s : State) (fr : Frame), s.dev.onChain = true → carries fr.bytes 0x11 0 = true → frameDst fr.bytes ≠ 0 →
    frameDst fr.bytes = s.dev.chain.addr →
    Sys2Proof.Machine.exec (.statusReq fr) s =
      .next { s with dev := s.dev.sendFrame (frameSrc fr.bytes) 0x10 (s.dev.statusPayload s.fuses.serial) }) ∧
  (∀ (s : State) (fr : Frame), s.dev.onChain = true → frameOk fr.bytes = false →
    Sys2Proof.Machine.exec (.chainFrameDrop fr) s =
      .next { s with dev := (s.dev.setChain fun c => { c with crcDrops := min (c.crcDrops + 1) 0xFFFFFFFF }).count (ev 12 9) 1 }) ∧
  ∀ (s : State) (fr : Frame) (c : Instr), s.dev.onChain = false →
    ((c = .survey fr ∧ carries fr.bytes 0x01 40 = true) ∨ (c = .assign fr ∧ carries fr.bytes 0x02 40 = true) ∨
      (c = .join fr ∧ carries fr.bytes 0x03 8 = true) ∨ (c = .status fr ∧ carries fr.bytes 0x10 16 = true) ∨
      (c = .statusReq fr ∧ carries fr.bytes 0x11 0 = true) ∨ c = .chainFrameDrop fr) →
    Sys2Proof.Machine.exec c s = .next { s with dev := s.dev.output (.chainFrame fr.bytes) }

/-- A head that takes in a SURVEY or ASSIGN with another serial yields where that serial is lower than its own: it is head no more, MCH_CTL.HEAD clears
and HEAD_CONFLICT is set; where it is higher, the head drops the frame and changes nothing (R341). -/
def Obligations.HeadsYieldToLowerSerials : Prop :=
  ∀ (s : State) (fr : Frame) (c : Instr), s.dev.onChain = true →
    ((c = .survey fr ∧ carries fr.bytes 0x01 40 = true) ∨ (c = .assign fr ∧ carries fr.bytes 0x02 40 = true)) →
    s.dev.chain.head = true →
    (u64At fr.bytes 36 < s.fuses.serial →
      ∃ t : State, Sys2Proof.Machine.exec c s = .next t ∧ s.devOnly t ∧ t.dev.chain.head = false ∧ t.dev.chain.conflict = true ∧
        t.dev.regN MCH = 0) ∧
    (s.fuses.serial < u64At fr.bytes 36 → Sys2Proof.Machine.exec c s = .next s)

/-! Fuses, injection, freeze -/

/-- FUS_ARM takes its word and ends an arming by another; a soft entry with its CHECK, or a REVOKE record, goes into the lowest empty record while
the arming is in force, and with none left RESULT is 3; when the read-back is equal the record is in force and RESULT is 1; when it differs the
record is left as it reads, RESULT is 2 and FUSE_ERR is set. A word with its CHECK passes the check (R381). -/
def Obligations.FuseCommandsComplete : Prop :=
  (∀ (s : State) (w : Word), s.dev.writable 0xE = true →
    Sys2Proof.Machine.exec (.fusArm w) s =
      .next { s with fuses := { s.fuses with armedAt := if w = 0xF05E#32 then some s.dev.sys.time else none } }) ∧
  (∀ (s : State) (index : Fin 128) (record : Fin 64) (v : BitVec 64) (c : Instr) (t : Nat), s.dev.writable 0xE = true → s.fuses.burning = none →
    s.fuses.armedAt = some t → s.dev.sys.time ≤ t + 1200000 →
    ((c = .burn index ∧ v = fuseRecord (listGet s.dev.units.soft index 0).toNat) ∨ (c = .revoke record ∧ v = fuseRecord (15 + record.val * 256))) →
    Sys2Proof.Machine.exec c s =
      .next { s with
        fuses := match (List.range 64).find? fun i => listGet s.fuses.records i 0 == 0 with
          | some i => { s.fuses with armedAt := none, burning := some (i, v) }
          | none => { s.fuses with armedAt := none, result := 3 } }) ∧
  (∀ (s : State) (i : Nat) (v : BitVec 64), s.fuses.burning = some (i, v) →
    Sys2Proof.Machine.exec (.fusBurnDone .ok) s =
      .next { s with fuses := { s.fuses with records := s.fuses.records.set i v, burning := none, result := 1 } } ∧
    ∃ w : BitVec 64, w ≠ v ∧
      Sys2Proof.Machine.exec (.fusBurnDone .mismatch) s =
        .next { s with
          fuses := { s.fuses with records := s.fuses.records.set i w, burning := none, result := 2 }
          dev := s.dev.draw.2.fuseErr }) ∧
  ∀ v : Nat, fuseValid (fuseRecord v).toNat = true ∧ (fuseRecord v).toNat % 2 ^ 56 = v % 2 ^ 56

/-- INJ_UNLOCK takes the three words in turn, each within 100 µs of the one before: with the third the registers are unlocked, INJECT holds and
INJ_USED is set; a wrong word ends the sequence. LOCK locks them again, and a sequence that waits too long ends (R387, R388). FREEZE freezes the device
with cause 1, the falling FRZ_N with cause 0 where DBG_CTL enables the armed pin; the rising pin arms it. A freeze records its cause and the time,
stops the clocks, and changes no memory (R390, R391). -/
def Obligations.InjectionAndFreezeComplete : Prop :=
  (∀ (s : State) (w : Word), s.dev.writable 0xD = true → s.dev.injLate = false →
    Sys2Proof.Machine.exec (.injUnlock w) s =
      .next { s with
        fuses := { s.fuses with armedAt := none }
        dev :=
          let i := s.dev.sys.inj
          if i.step = 0 then
            (if w = 0x1F6E0C81#32 then s.dev.setInj fun j => { j with step := 1, lastAt := s.dev.sys.time } else s.dev)
          else if i.step = 1 then
            (if w.toNat = i.nonce then s.dev.setInj fun j => { j with step := 2, lastAt := s.dev.sys.time } else s.dev.injEnd)
          else if w.toNat = 2 ^ 32 - 1 - i.nonce then s.dev.injOpen else s.dev.injEnd }) ∧
  (∀ s : State, s.dev.writable 0xD = true →
    Sys2Proof.Machine.exec .injLock s = .next { s with fuses := { s.fuses with armedAt := none }, dev := s.dev.injRelock }) ∧
  (∀ s : State, s.dev.clocked = true → s.dev.injLate = true →
    Sys2Proof.Machine.exec .injUnlockTimeout s = .next { s with dev := s.dev.injEnd }) ∧
  (∀ s : State, s.dev.writable 0x20 = true →
    Sys2Proof.Machine.exec .freeze s = .next { s with fuses := { s.fuses with armedAt := none }, dev := s.dev.freeze 1 } ∧
    (s.dev.freeze 1).sys.mode = .frozen ∧ (s.dev.freeze 1).clocked = false ∧ bitAt ((s.dev.freeze 1).regN (DBG + 0x0C)) 1 = true ∧
    (s.dev.freeze 1).hmem = s.dev.hmem ∧ (s.dev.freeze 1).dmem = s.dev.dmem ∧
    (s.dev.freeze 1).reg (DBG + 0x10) = w32 s.dev.sys.time) ∧
  (∀ s : State, s.dev.sys.pins.frz = true → s.dev.sys.pins.frzArmed = true → bitAt (s.dev.regN DBG) 1 = true → s.dev.clocked = true →
    Sys2Proof.Machine.exec .frzNFall s =
      .next { s with dev := ({ s.dev with sys := { s.dev.sys with pins := { s.dev.sys.pins with frz := false } } }).freeze 0 }) ∧
  ∀ s : State,
    Sys2Proof.Machine.exec .frzNRise s =
      .next { s with dev := { s.dev with sys := { s.dev.sys with pins := { s.dev.sys.pins with frz := true, frzArmed := true } } } }

/-! Tests -/

/-- A test command whose KIND suits the selected unit starts the test's withdrawal, one that does not is refused, and DBG_TSTRES clears; a test that
ends by passing, by repair of a tile (a failure where its array has no repair left, R104), by failing or abandoned goes to its state and its unit
where R386 says (R384 to R386). What the spec leaves open of a test is the model's (log entries 106 and 107). -/
def Obligations.TestsStartAndComplete : Prop :=
  (∀ (s : State) (k : Nat) (c : Instr), ((k = 1 ∧ c = .tileBist) ∨ (k = 2 ∧ c = .mbist) ∨ (k = 3 ∧ c = .arrayTest) ∨ (k = 4 ∧ c = .engineTest) ∨
      (k = 5 ∧ c = .laneTest)) →
    s.dev.writable 0x20 = true → s.dev.sys.mode ≠ .boot → s.dev.units.test = none →
    Sys2Proof.Machine.exec c s =
      .next { s with
        fuses := { s.fuses with armedAt := none }
        dev :=
          let t := s.dev.setRegN (DBG + 0x10C) 0
          match t.testNamed k with
          | none => t.testOver 6
          | some u =>
            if u.cls < 2 then t.startTile u
            else if u.cls = 2 then t.startEngine u
            else if u.cls = 3 then t.withdrawRim u
            else if u.cls = 4 then t.withdrawLane u
            else t.testRuns u }) ∧
  ∀ (s : State) (u : Test), s.dev.units.test = some u → s.dev.clocked = true → u.waiting = false →
    Sys2Proof.Machine.exec (.testComplete .passed) s = .next { s with dev := (s.dev.testOver 3).testReturn u } ∧
    (∀ r : BitVec 32, u.cls < 2 →
      Sys2Proof.Machine.exec (.testComplete (.repaired r)) s =
        .next { s with
          dev :=
            let v := s.dev.draw.1
            let d := s.dev.draw.2
            if d.overRepair (fixFound u.plain u.pos v).toNat = true then ((d.testOver 5).setReg (DBG + 0x10C) r).testFailed u
            else (((d.testOver 4).setReg (DBG + 0x10C) r).softFix u.plain u.pos v).testReturn u }) ∧
    Sys2Proof.Machine.exec (.testComplete .failed) s = .next { s with dev := ((s.dev.testOver 5).testFound).testFailed u } ∧
    Sys2Proof.Machine.exec (.testComplete .abandoned) s = .next { s with dev := s.dev.abandonTest }

/-! Resets and boot -/

/-- What a reset leaves (R409 to R411): a cold reset takes every register to its reset value, a warm one keeps the registers of R410 and soft
repair; both empty the rings, the media state and the tiles, take time to 0 and the clock causes to none, and keep the fuse records and host
memory. -/
def Obligations.ResetsLeaveWhatTheyShould : Prop :=
  ∀ (s : State) (cold : Bool) (cause : Nat) (m : Mode),
    (s.afterReset cold cause m).dev.sys.time = 0 ∧ (s.afterReset cold cause m).dev.sys.mode = m ∧
    (s.afterReset cold cause m).dev.sys.rstCause = 2 ^ cause ∧
    (∀ a : Nat, (s.afterReset cold cause m).dev.reg a = if cold = false ∧ a ∈ warmKept then s.dev.reg a else regReset a) ∧
    (s.afterReset cold cause m).dev.units.soft = (if cold = true then [] else s.dev.units.soft) ∧
    (s.afterReset cold cause m).dev.host.accepted = [] ∧ (s.afterReset cold cause m).dev.host.fns = [] ∧
    (s.afterReset cold cause m).dev.media = Media.reset ∧ (s.afterReset cold cause m).clk = Clocks.reset ∧
    (s.afterReset cold cause m).tiles.tiles = [] ∧ (s.afterReset cold cause m).dev.hmem = s.dev.hmem ∧
    (s.afterReset cold cause m).fuses = { s.fuses with armedAt := none, burning := none, result := 0 }

/-- The reset commands and pins (R406, R409, R411): PWR_RSTCMD of a served device resets it cold or warm; PERST_N and a DEV_RST_N of 1 µs or more
hold it in a warm reset; the standby supply brings a power-on reset, which the release leaves for the reference or for a pin that is still low; the
last pin to rise releases the core. -/
def Obligations.ResetCommandsComplete : Prop :=
  (∀ s : State, s.dev.writable 2 = true →
    Sys2Proof.Machine.exec .coldCmd s = .next (s.disarm.afterReset true 1 .waitRef) ∧
    Sys2Proof.Machine.exec .warmCmd s = .next (s.disarm.afterReset false 4 .waitRef)) ∧
  (∀ (s : State) (ns : Nat), s.dev.sys.mode ≠ .powerOn → 1000 ≤ ns →
    Sys2Proof.Machine.exec .perst s = .next ((s.afterReset false 2 .held).setPins fun p => { p with perst := false }) ∧
    Sys2Proof.Machine.exec (.devRst ns) s = .next ((s.afterReset false 3 .held).setPins fun p => { p with devRst := false })) ∧
  (∀ (s : State) (ns : Nat), ns < 100 → Sys2Proof.Machine.exec (.devRst ns) s = .next s) ∧
  (∀ s : State, Sys2Proof.Machine.exec .coldPower s = .next (s.afterReset true 0 .powerOn)) ∧
  (∀ s : State, s.dev.sys.mode = .held →
    Sys2Proof.Machine.exec .resetRelease s =
      .next { s with
        dev := { s.dev with
          sys := { s.dev.sys with
            mode := .waitRef
            pins := { s.dev.sys.pins with perst := true, devRst := true, frzArmed := s.dev.sys.pins.frz } } } }) ∧
  ∀ s : State, s.dev.sys.mode = .powerOn →
    Sys2Proof.Machine.exec .powerOnResetRelease s =
      .next { s with
        dev := { s.dev with
          sys := if s.dev.sys.pins.perst = true ∧ s.dev.sys.pins.devRst = true then
              { s.dev.sys with mode := .waitRef, pins := { s.dev.sys.pins with frzArmed := s.dev.sys.pins.frz } }
            else { s.dev.sys with mode := .held } } }

/-- The root PLL locks to a reference within ±1,300 ppm, and boot goes on with the repair state built and the stacks trained; START of an image that
is fetched, well formed, of a trusted key that is not revoked, signed and not rolled back makes the device ready with the image's version, unless the
tests find a unit that no spare can serve; every other outcome is its REASON (R402, R412 to R414). -/
def Obligations.BootCommandsComplete : Prop :=
  (∀ (s : State) (ppm : Int) (hbmOk : Bool), s.dev.sys.mode = .waitRef → ppm.natAbs ≤ 1300 →
    Sys2Proof.Machine.exec (.rootPllLock ppm hbmOk) s =
      .next { s with
        clk := { s.clk with locked := true, refPpm := ppm, standby := s.fuses.pllStandby s.dev.units.soft }
        dev :=
          let d := ((s.dev.setMode .boot).buildRepair s.fuses).settlePlaces
          if hbmOk = true then { d with units := { d.units with hbmUp := [true, true] } } else d.bootFail 6 }) ∧
  ∀ (s : State) (tests : BootTests) (b : Bytes), s.dev.sys.mode = .boot → s.dev.writable 2 = true →
    (s.dev.sys.bootState = 0 ∨ s.dev.sys.bootState = 6) → 256 ≤ s.dev.regN (PWR + 0x108) → s.dev.regN (PWR + 0x108) ≤ 2 ^ 24 →
    s.dev.hostRead (s.dev.reg64 (PWR + 0x100) (PWR + 0x104)) (s.dev.regN (PWR + 0x108)) = some b →
    Sys2Proof.Machine.exec (.start tests) s =
      .next { s with
        fuses := { s.fuses with armedAt := none }
        dev :=
          let r := imageReason s.fuses (s.dev.regN (PWR + 0x108)) b
          if r ≠ 0 then s.dev.bootFail r
          else if tests.noSpare = true then (s.dev.bootTests tests).bootFail 7
          else (s.dev.bootTests tests).becomeReady s.fuses.serial (u32At b 4) }

/-! Counters, dumps, trace -/

/-- CLEAR takes every counter to zero and notes the time. DUMP_NOW, and the end of the interval, dump while DUMP_EN is 1: where the ring lies in host
memory that can be accessed and has room, the record of R422 goes to its slot and WRITTEN counts it; DUMP_NOW does nothing while DUMP_EN is 0. A read
of PMC_VAL0 captures the selected counter, whose upper bits PMC_VAL1 then gives, and a read of GLB_TIME0 the time, whose upper bits GLB_TIME1 then
gives (R420 to R424, R433, R435). TRC_MARK queues a record while the trace runs and takes marks; the sample whose count ran out is queued, and those
behind it are lost and counted in TRC_DROPS and TRACE_DROPS; the record whose hold has ended goes to the trace ring in host memory, where its counter
counts it (R424 to R428). What the counts start from is the model's reading (log entries 15 and 26). -/
def Obligations.InstrumentCommandsComplete : Prop :=
  (∀ s : State, (s.dev.serving = true ∨ s.dev.sys.mode = .quiesced) →
    Sys2Proof.Machine.exec .clear s =
      .next { s with
        fuses := { s.fuses with armedAt := none }
        dev := ({ s.dev with inst := { s.dev.inst with cnt := [], cleared := true, clearTime := s.dev.sys.time } }).trace 11 38 0 none [] } ∧
    ∀ e : Nat, ({ s.dev.inst with cnt := [], cleared := true, clearTime := s.dev.sys.time } : Inst).counter s.dev.sys.time e = 0) ∧
  (∀ s : State, bitAt (s.dev.regN (PMC + 0x04)) 0 = false →
    Sys2Proof.Machine.exec .dumpNow s = .next { s with fuses := { s.fuses with armedAt := none } } ∧ Sys2Proof.Machine.exec .dump s = .next s) ∧
  (∀ (s : State) (now : Bool), bitAt (s.dev.regN (PMC + 0x04)) 0 = true →
    (now = false → s.dev.inst.lastDump + s.dev.regN (PMC + 0x0C) * 1200 ≤ s.dev.sys.time) →
    ∃ t : Dev,
      Sys2Proof.Machine.exec (if now = true then .dumpNow else .dump) s =
        .next { s with fuses := if now = true then { s.fuses with armedAt := none } else s.fuses, dev := t } ∧
      (s.dev.instMay = false → t = s.dev) ∧
      (s.dev.instMay = true → bitAt (s.dev.regN (PMC + 0x04)) 1 = false → s.dev.sys.hostFaults = [] → s.dev.hmem.wf = true →
        (s.dev.inst.dumped + 2 ^ 64 - leNat (s.dev.hmem.readN (s.dev.pmcPtr + 8) 8)) % 2 ^ 64 < 2 ^ s.dev.regN (PMC + 0x18) →
        (let slot := s.dev.pmcRing + 8448 * (s.dev.inst.dumped % 2 ^ s.dev.regN (PMC + 0x18))
         let i : Inst := { s.dev.inst with seq := (s.dev.inst.seq + 1) % 2 ^ 32, cfgErr := false }
         t.inst.seq = i.seq ∧ t.inst.dumped = s.dev.inst.dumped + 1 ∧ t.inst.skipped = 0 ∧ t.inst.lastDump = s.dev.sys.time ∧
         leNat (t.hmem.readN s.dev.pmcPtr 8) = (s.dev.inst.dumped + 1) % 2 ^ 64 ∧
         ((slot + 8448 ≤ s.dev.pmcPtr ∨ s.dev.pmcPtr + 8 ≤ slot) →
           t.hmem.readN slot 8448 =
             dumpRecord i s.dev.sys.time (s.dev.regN (PMC + 0x0C)) (({ s.dev with inst := i } : Dev).dumpFlags s.clk.holdover now))))) ∧
  (∀ (s : State) (size : Fin 9), (s.dev.serving = true ∨ s.dev.sys.mode = .quiesced ∨ s.dev.sys.mode = .failStop) → sizeOk size = true →
    Sys2Proof.Machine.exec (.pmcValCapture size) s =
      .next { s with
        dev :=
          let e := bits (s.dev.regN (PMC + 0x24)) 0 10
          let v := s.dev.inst.counter s.dev.sys.time e
          let hi := v / 2 ^ 32 + 2 ^ 16 * b2n (s.dev.inst.sat s.dev.sys.time e)
          { s.dev with sys := { s.dev.sys with busData := pairRead size (v % 2 ^ 32) hi }, inst := { s.dev.inst with capture := hi } } } ∧
    ∀ t : State, Sys2Proof.Machine.exec (.pmcValCapture size) s = .next t →
      t.regValue (PMC + 0x2C) =
        (let e := bits (s.dev.regN (PMC + 0x24)) 0 10
         s.dev.inst.counter s.dev.sys.time e / 2 ^ 32 + 2 ^ 16 * b2n (s.dev.inst.sat s.dev.sys.time e))) ∧
  (∀ (s : State) (size : Fin 9), s.dev.clocked = true → sizeOk size = true →
    Sys2Proof.Machine.exec (.glbTimeCapture size) s =
      .next { s with
        dev := { s.dev with
          sys := { s.dev.sys with
            busData := pairRead size (s.dev.sys.time % 2 ^ 32) (s.dev.sys.time / 2 ^ 32), timeCap := s.dev.sys.time } } } ∧
    ∀ t : State, Sys2Proof.Machine.exec (.glbTimeCapture size) s = .next t → t.regValue (GLB + 0x34) = s.dev.sys.time / 2 ^ 32) ∧
  (∀ (s : State) (w : Word), (s.dev.serving = true ∨ s.dev.sys.mode = .quiesced) → bitAt (s.dev.regN TRC) 0 = true → bitAt (s.dev.regN (TRC + 4)) 13 = true →
    Sys2Proof.Machine.exec (.mark w) s =
      .next { s with
        fuses := { s.fuses with armedAt := none }
        dev := { s.dev with inst := { s.dev.inst with trace := s.dev.inst.trace ++ [⟨s.dev.sys.time, 13, 38, 0, leBytes 4 w.toNat⟩] } } }) ∧
  (∀ (s : State) (e : Fin 1024), s.dev.clocked = true → bitAt (s.dev.regN (PMC + 0x30)) 31 = true →
    bits (s.dev.regN (PMC + 0x30)) 0 10 = e → s.dev.inst.sampTaken < s.dev.inst.sampCount / s.dev.regN (PMC + 0x34) →
    (let due := s.dev.inst.sampCount / s.dev.regN (PMC + 0x34)
     let lost := due - s.dev.inst.sampTaken - 1
     let a := s.dev.inst.sampAt
     let tile := decide (e.val / 64 < 8)
     ∃ t : State, Sys2Proof.Machine.exec (.sample e) s = .next t ∧ s.devOnly t ∧ t.dev.inst.sampTaken = due ∧
       t.dev.regN (TRC + 0x24) = min (s.dev.regN (TRC + 0x24) + lost) 0xFFFFFFFF ∧
       t.dev.inst.cnt.get (ev 15 5) 0 = (if lost = 0 then s.dev.inst.cnt.get (ev 15 5) 0 else min (s.dev.inst.cnt.get (ev 15 5) 0 + lost) (2 ^ 48)) ∧
       t.dev.inst.trace = s.dev.inst.trace ++ [⟨s.dev.sys.time, 6, classDomain (e.val / 64), if tile = true then a.1 else 0,
         leBytes 2 e.val ++ leBytes 1 (if tile = true then a.2.1 else 0xFF) ++ leBytes 1 0 ++ leBytes 2 (if tile = true then a.2.2.1 else 0) ++
           leBytes 2 (if tile = true then a.2.2.2 else 0)⟩] ∧
       t.dev.hmem = s.dev.hmem ∧ t.dev.dmem = s.dev.dmem ∧ t.dev.media = s.dev.media ∧ t.dev.units = s.dev.units ∧ t.dev.sys = s.dev.sys)) ∧
  ∀ (s : State) (r : TRec), firstTrace s.dev.inst.trace = some r → s.dev.instMay = true → r.time + 2400 ≤ s.dev.sys.time →
    s.dev.inst.dropped = 0 → bitAt (s.dev.regN TRC) 1 = false → s.dev.sys.hostFaults = [] → s.dev.hmem.wf = true →
    (let ptr := s.dev.reg64 (TRC + 0x18) (TRC + 0x1C)
     let slot := s.dev.reg64 (TRC + 0x0C) (TRC + 0x10) + 32 * (s.dev.inst.written % 2 ^ s.dev.regN (TRC + 0x14))
     (s.dev.inst.written + 2 ^ 64 - leNat (s.dev.hmem.readN (ptr + 8) 8)) % 2 ^ 64 < 2 ^ s.dev.regN (TRC + 0x14) →
     ∃ t : State, Sys2Proof.Machine.exec .traceWrite s = .next t ∧ s.devOnly t ∧ t.dev.inst.trace = s.dev.inst.trace.erase r ∧
       t.dev.inst.written = s.dev.inst.written + 1 ∧ leNat (t.dev.hmem.readN ptr 8) = (s.dev.inst.written + 1) % 2 ^ 64 ∧
       ((slot + 32 ≤ ptr ∨ ptr + 8 ≤ slot) → t.dev.hmem.readN slot 32 = r.bytes))

/-! Clearing and register writes -/

/-- Ones written to a sticky register clear its bits; with LEDGER_FAULT the mismatch registers clear (R331), and a bit whose cause lasts is set
again (R370). Ones written to ADM_SUSP clear, and a bit whose cause holds is set again at once (R280). -/
def Obligations.ClearingWritesComplete : Prop :=
  (∀ (s : State) (g : Fin 4) (w : Word), s.dev.stickyWritable = true →
    Sys2Proof.Machine.exec (.stickyClear g w) s =
      .next { s with
        fuses := { s.fuses with armedAt := none }
        dev :=
          let gone := s.dev.regN (stickyAddr g) &&& w.toNat
          let d1 := s.dev.setRegN (stickyAddr g) (s.dev.regN (stickyAddr g) - gone)
          let d2 := if g.val = 3 ∧ bitAt gone 0 = true then d1.clearLedger else d1
          (List.range 32).foldl (fun (t : Dev) b => if bitAt (s.stickyHolds g &&& gone) b = true then t.sticky g b 0 else t) d2 }) ∧
  ∀ (s : State) (w : Word), s.dev.writable 6 = true →
    Sys2Proof.Machine.exec (.admSuspClear w) s =
      .next { s with
        fuses := { s.fuses with armedAt := none }
        dev :=
          let was := s.dev.regN (ADM + 0x20)
          let left := was - (was &&& w.toNat)
          let again := s.dev.media.suspNow &&& (was &&& w.toNat)
          let t := s.dev.setRegN (ADM + 0x20) (left ||| again)
          if left = 0 ∧ again ≠ 0 then t.setReg64 (ADM + 0x28) (ADM + 0x2C) s.dev.sys.time else t }

/-- A write of 1, 2 or 4 bytes, aligned, to a RW register without a rule of its own changes the enabled bits among those that can be written and keeps
the others (R433): the scratch register of the physical function's GLB block, for every offset within it. A write that is not of 1, 2, 4 or 8 bytes,
or not aligned to its size, changes nothing. -/
def Obligations.RegisterWritesMergeTheirBytes : Prop :=
  (∀ (s : State) (b n : Nat) (off : BitVec 24) (size : Fin 9) (v : BitVec 64), s.dev.regServed 0 .bar0 0 = true → (n = 1 ∨ n = 2 ∨ n = 4) →
    size.val = n → off.toNat = 0x40 + b → b < 4 → b % n = 0 →
    ∃ t : State, Sys2Proof.Machine.exec (.registerWrite 0 .bar0 off size v) s = .next t ∧
      t = { s with fuses := { s.fuses with armedAt := none }, dev := s.dev.setRegN 0x40 (t.dev.regN 0x40) } ∧
      ∀ k : Nat, k < 4 →
        t.dev.regN 0x40 / 256 ^ k % 256 =
          if b ≤ k ∧ k < b + n then v.toNat / 256 ^ (k - b) % 256 else s.dev.regN 0x40 / 256 ^ k % 256) ∧
  ∀ (s : State) (f : Fin 64) (space : RegSpace) (off : BitVec 24) (size : Fin 9) (v : BitVec 64),
    (¬(size.val = 1 ∨ size.val = 2 ∨ size.val = 4 ∨ size.val = 8) ∨ off.toNat % size.val ≠ 0) →
    Sys2Proof.Machine.exec (.registerWrite f space off size v) s = .next s

/-- A function's registers (R437). The physical function reads the window of every function, and its writes to those of functions 1 to 63 change no
register. A virtual function's BAR0 serves its own window at offsets 0 to 0x1FF: it reads that, zero above it, changes nothing above it, and with a
write other than LOAD no register outside its window. -/
def Obligations.FunctionsUseTheirOwnWindows : Prop :=
  (∀ (s : State) (f : Fin 64) (o : Nat), s.dev.clocked = true → s.dev.sys.mode ≠ .boot → o < 0x200 →
    ((s.dev.fn 0).d3 = false → s.readReg 0 .bar0 (RNG + f.val * 0x200 + o) = some (s.regValue (WINF f + o))) ∧
    (f.val ≠ 0 → s.dev.exists f = true → (s.dev.fn f).d3 = false → s.readReg f .bar0 o = some (s.regValue (WINF f + o)))) ∧
  (∀ (s : State) (f : Fin 64) (o : Nat), s.dev.clocked = true → f.val ≠ 0 → s.dev.exists f = true → (s.dev.fn f).d3 = false → 0x200 ≤ o →
    s.readReg f .bar0 o = some 0) ∧
  (∀ (s : State) (off : BitVec 24) (size : Fin 9) (v : BitVec 64), RNG + 0x200 ≤ off.toNat → off.toNat < RNG + 0x8000 →
    ∃ t : State, Sys2Proof.Machine.exec (.registerWrite 0 .bar0 off size v) s = .next t ∧ t = { s with fuses := t.fuses }) ∧
  (∀ (s : State) (f : Fin 64) (off : BitVec 24) (size : Fin 9) (v : BitVec 64), f.val ≠ 0 → 0x200 ≤ off.toNat →
    ∃ t : State, Sys2Proof.Machine.exec (.registerWrite f .bar0 off size v) s = .next t ∧ t = { s with fuses := t.fuses }) ∧
  ∀ (s : State) (f : Fin 64) (off : BitVec 24) (size : Fin 9) (v : BitVec 64) (a : Nat), f.val ≠ 0 → off.toNat ≠ 0x008 →
    (a < WINF f ∨ WINF f + 0x200 ≤ a) →
    ∃ t : State, Sys2Proof.Machine.exec (.registerWrite f .bar0 off size v) s = .next t ∧ t.dev.reg a = s.dev.reg a

/-! Clocks, power, temperature -/

/-- The protection causes begin and end: a rail below its minimum, a plain at 105 °C or more, with OVER_TEMP set, and the hotter of two adjacent
plains past their limits, with PLAIN_LIMIT set (R397, R399, R400, R406). -/
def Obligations.ProtectionCausesComplete : Prop :=
  ∀ (s : State) (p q : Fin 8) (deciC : Nat), s.dev.clocked = true →
    Sys2Proof.Machine.exec (.vminLow p) s = .next { s with clk := s.clk.setPlain p { s.clk.plain p with vmin := true } } ∧
    Sys2Proof.Machine.exec (.vminRestored p) s = .next { s with clk := s.clk.setPlain p { s.clk.plain p with vmin := false } } ∧
    (1050 ≤ deciC →
      Sys2Proof.Machine.exec (.overTemp p deciC) s =
        .next { s with
          clk := s.clk.setPlain p { s.clk.plain p with
            thermal := true, tempDeci := deciC, hotFrom := some ((s.clk.plain p).hotFrom.getD s.dev.sys.time) }
          dev := s.dev.sticky 3 6 (firstDet 0 0 p 0) }) ∧
    (deciC < 1000 →
      Sys2Proof.Machine.exec (.overTempEnd p deciC) s =
        .next { s with clk := s.clk.setPlain p { s.clk.plain p with thermal := false, tempDeci := deciC, hotFrom := none } }) ∧
    (adjacentPlains p q = true →
      Sys2Proof.Machine.exec (.plainLimit p q) s =
        .next { s with
          clk := { s.clk with neighbours := (p.val, q.val) :: s.clk.neighbours.erase (p.val, q.val) }
          dev := s.dev.sticky 3 5 (firstDet 0 0 p 0) }) ∧
    Sys2Proof.Machine.exec (.plainLimitEnd p q) s =
      .next { s with clk := { s.clk with neighbours := s.clk.neighbours.erase (p.val, q.val) } }

/-- The divider of a plain follows its causes, with a THROTTLE record and the suspension causes as they then stand (R397, R398, R427, R278). At
115 °C, or held at 105 °C for 10 ms at divider 6, the device fails stop and THERM_N goes low (R399). -/
def Obligations.DividersFollowAndHeatStops : Prop :=
  (∀ (s : State) (p : Fin 8), s.dev.clocked = true → s.dev.units.plains.length = 8 →
    ∃ t : State, Sys2Proof.Machine.exec (.dividerChange p) s = .next t ∧ s.devOnly t ∧ (t.dev.plain p).div = s.targetDiv p ∧
      (∀ q : Nat, q ≠ p.val → t.dev.plain q = s.dev.plain q) ∧ t.dev.hmem = s.dev.hmem ∧ t.dev.dmem = s.dev.dmem ∧ t.dev.sys = s.dev.sys) ∧
  ∀ (s : State) (p : Fin 8) (deciC : Nat), s.dev.clocked = true → (1150 ≤ deciC ∨ s.heldHot p deciC = true) →
    ∃ t : State, Sys2Proof.Machine.exec (.thermalFailstop p deciC) s = .next t ∧ t.dev.sys.mode = .failStop ∧ t.dev.sys.pins.therm = false ∧
      t.clk = s.clk.setPlain p { s.clk.plain p with tempDeci := deciC } ∧ t.tiles = s.tiles ∧ t.fuses = s.fuses ∧ t.dev.regs = s.dev.regs ∧
      t.dev.hmem = s.dev.hmem ∧ t.dev.dmem = s.dev.dmem ∧ t.dev.media = s.dev.media

/-- The power manager makes at most one step of one plain: up for the plain drawing most among those below their floor and below 6 when the
estimate exceeds the cap, down for the plain with the highest cap divider when it is more than 5 % below; it notes the estimate, and a cap that it
cannot keep (R401). That the lowest of several alike is taken is the model's choice (log entry 14). -/
def Obligations.PowerCapStepsOnePlain : Prop :=
  ∀ (s : State) (estimate : Nat) (draws : List Nat), s.dev.clocked = true →
    ∃ t : State, Sys2Proof.Machine.exec (.powerCapStep estimate draws) s = .next t ∧ t.dev = s.dev ∧ t.tiles = s.tiles ∧ t.fuses = s.fuses ∧
      t.clk.measured = estimate ∧ t.clk.neighbours = s.clk.neighbours ∧
      (t.clk.capMiss = true ↔
        s.dev.regN (PWR + 0x08) < estimate ∧ ∀ p : Nat, p < 8 → s.dev.floorOf p ≤ (s.dev.plain p).div) ∧
      (s.dev.regN (PWR + 0x08) < estimate → s.clk.plains.length = 8 →
        (t.clk.plains = s.clk.plains ∧
            ∀ p : Nat, p < 8 → ¬((s.dev.plain p).div < s.dev.floorOf p ∧ (s.clk.plain p).cap < 6)) ∨
          ∃ p : Nat, p < 8 ∧ (s.dev.plain p).div < s.dev.floorOf p ∧ (s.clk.plain p).cap < 6 ∧
            t.clk.plains = s.clk.plains.set p { s.clk.plain p with cap := (s.clk.plain p).cap + 1 } ∧
            ∀ q : Nat, q < 8 → (s.dev.plain q).div < s.dev.floorOf q → (s.clk.plain q).cap < 6 → listGet draws q 0 ≤ listGet draws p 0) ∧
      (estimate ≤ s.dev.regN (PWR + 0x08) → s.dev.regN (PWR + 0x08) * 95 ≤ estimate * 100 → t.clk.plains = s.clk.plains) ∧
      (estimate * 100 < s.dev.regN (PWR + 0x08) * 95 → s.clk.plains.length = 8 →
        (t.clk.plains = s.clk.plains ∧ ∀ p : Nat, p < 8 → (s.clk.plain p).cap ≤ 4) ∨
          ∃ p : Nat, p < 8 ∧ 4 < (s.clk.plain p).cap ∧ t.clk.plains = s.clk.plains.set p { s.clk.plain p with cap := (s.clk.plain p).cap - 1 } ∧
            ∀ q : Nat, q < 8 → (s.clk.plain q).cap ≤ (s.clk.plain p).cap)

/-- Loss of the reference begins holdover: the time goes to CLK_HOLDTS, HOLDOVER suspends, REF_LOSS and HOLDOVER are set; its end ends the cause;
holdover of 10 ms quiesces the device; a root PLL switch goes to the standby, with a pause of at most 5 µs, or fails stop where there is none; a rail
out of its window takes its plain, or the device (R379, R403 to R406). That quiescing is one step is the model's choice (log entry 30). -/
def Obligations.ReferenceAndRailsComplete : Prop :=
  (∀ s : State, s.dev.clocked = true → s.clk.holdover = false →
    Sys2Proof.Machine.exec .refLoss s =
      .next { s with
        clk := { s.clk with holdover := true, holdFrom := s.dev.sys.time }
        dev :=
          let d := s.dev.setReg64 (CLK + 0x24) (CLK + 0x28) s.dev.sys.time
          ((({ d with inst := { d.inst with holdSince := true } } : Dev).suspend 2).sticky 3 1 0).sticky 3 2 0 }) ∧
  (∀ s : State, s.dev.clocked = true → s.clk.holdover = true → s.dev.sys.mode ≠ .quiesced →
    Sys2Proof.Machine.exec .holdoverEnd s =
      .next { s with clk := { s.clk with holdover := false }, dev := s.dev.unsuspend 2 }) ∧
  (∀ s : State, s.clk.holdover = true → s.clk.holdFrom + 12000000 ≤ s.dev.sys.time → (s.dev.sys.mode = .ready ∨ s.dev.sys.mode = .boot) →
    Sys2Proof.Machine.exec .quiesce s =
      .next { s with
        dev := s.dev.quiesceOp
        tiles := { s.tiles with tiles := s.tiles.tiles.map fun e => (e.1, { e.2 with sram := [] }) } }) ∧
  (∀ (s : State) (locks : Bool) (pause : Nat), s.dev.clocked = true →
    Sys2Proof.Machine.exec (.pllSwitch locks pause) s =
      .next (if s.clk.standby = true ∨ locks = false then { s with dev := s.dev.failStop }
        else
          { s with
            clk := { s.clk with standby := true }
            dev :=
              let d := ((s.dev.sticky 3 4 0).soft (repairEntry 9 0 0 0 0)).count (ev 15 4) 1
              ({ d with sys := { d.sys with time := (d.sys.time + min pause 6000) % 2 ^ 64 } } : Dev).pauseRedo })) ∧
  ∀ (s : State) (p : Fin 8) (n : Fin 7), s.dev.clocked = true →
    Sys2Proof.Machine.exec (.railFault (.plain p)) s =
      .next (({ s with clk := { s.clk with railsOut := s.clk.railsOut ||| 2 ^ p.val }
                       dev := s.dev.sticky 3 7 (firstDet p 0 0 0) } : State).plainFail p) ∧
    Sys2Proof.Machine.exec (.railFault (.common n)) s =
      .next { s with
        clk := { s.clk with railsOut := s.clk.railsOut ||| 2 ^ (8 + n.val) }
        dev := (s.dev.sticky 3 7 (firstDet (8 + n.val) 0 0 0)).failStop }

/-! The link, power states, function resets -/

/-- A retrain sets the rate and width, counts, sets PCIE_DEGRADED below 64 GT/s × 16 and refreshes the causes; D3hot and the return to D0 change the
function's state, and the return makes its held writes; a Function Level Reset of a virtual function resets it alone; VF Enable takes the number of
virtual functions (R281, R282, R307, R310, R408). A plain that has met its gating conditions for 1 ms is gated, and its pool and its tiles' SRAM lose
their contents; a gated plain that may not be gated wakes (R407). -/
def Obligations.LinkAndPowerStatesComplete : Prop :=
  (∀ (s : State) (gts : Fin 65) (width : Fin 17), s.dev.clocked = true →
    Sys2Proof.Machine.exec (.linkRetrain gts width) s =
      .next { s with
        dev :=
          let d := ({ s.dev with host := { s.dev.host with gts := gts, width := width } } : Dev).count (ev 11 8) 1
          (if gts.val = 64 ∧ width.val = 16 then d else d.sticky 2 13 0).refreshSusp }) ∧
  (∀ (s : State) (f : Fin 64), s.dev.clocked = true → s.dev.exists f = true →
    Sys2Proof.Machine.exec (.d3hot f) s = .next { s with dev := (s.dev.setFn f { s.dev.fn f with d3 := true }).refreshSusp }) ∧
  (∀ (s : State) (f : Fin 64), s.dev.clocked = true → (s.dev.fn f).d3 = true →
    Sys2Proof.Machine.exec (.d0Return f) s =
      .next { s with dev := ((s.dev.setFn f { s.dev.fn f with d3 := false }).refreshSusp).retryHeld f }) ∧
  (∀ (s : State) (f : Fin 64), s.dev.clocked = true → f.val ≠ 0 → s.dev.exists f = true →
    Sys2Proof.Machine.exec (.functionLevelReset f false) s = .next { s with dev := (s.dev.resetFn f).pumpWaiting }) ∧
  (∀ s : State, s.dev.clocked = true →
    Sys2Proof.Machine.exec (.functionLevelReset 0 false) s =
      .next { s with
        dev :=
          let t := (Dev.resetVfs s.dev.host.vfs s.dev.injRelock).resetFn 0
          ({ t with host := { t.host with vfs := 0 } } : Dev).pumpWaiting }) ∧
  (∀ (s : State) (n : Fin 64), s.dev.clocked = true → s.dev.host.vfs = 0 →
    Sys2Proof.Machine.exec (.vfEnable n) s = .next { s with dev := { s.dev with host := { s.dev.host with vfs := n } } }) ∧
  (∀ (s : State) (p : Fin 8) (t0 : Nat), s.dev.clocked = true → (s.dev.plain p).gated = false → s.dev.mayGate p = true →
    (s.dev.plain p).idleFrom = some t0 → t0 + 1200000 ≤ s.dev.sys.time →
    Sys2Proof.Machine.exec (.gateEnter p) s =
      .next { s with
        dev := ((s.dev.trace 7 p p (some p.val) []).setPlain p { s.dev.plain p with gated := true, pool := [] }).count (ev p 20) 1
        tiles := { s.tiles with
          tiles := s.tiles.tiles.map fun e => if e.1 / 256 == p.val then (e.1, { e.2 with sram := [] }) else e } }) ∧
  ∀ (s : State) (p : Fin 8), s.dev.clocked = true → s.dev.mayGate p = false →
    Sys2Proof.Machine.exec (.gateExit p) s =
      .next { s with
        dev := if (s.dev.plain p).gated = true ∧ (s.dev.plain p).failed = false then
            (s.dev.setPlain p { s.dev.plain p with gated := false }).trace 8 p p (some p.val) []
          else s.dev }

/-- Once in a revolution the ledgers are counted: where granted is held plus in flight in every one, the audits passed count up, and otherwise the
first that fails is captured, LEDGER_FAULT is set and the device fails stop (R327 to R329). The depths of the ledgers that the spec does not size are
the model's (log entries 112 and 113). -/
def Obligations.LedgerAuditComplete : Prop :=
  ∀ s : State, s.dev.clocked = true → s.dev.sys.mode ≠ .failStop → (s.dev.inst.audited.map (·.1)) ≠ some (s.dev.sys.time / 1200000) →
    Sys2Proof.Machine.exec .ledgerAudit s =
      .next { s with
        dev :=
          let d := s.dev.draw.2
          let l := d.ledgers s.dev.draw.1
          let t := ({ d with inst := { d.inst with ledger := l, audited := some (s.dev.sys.time / 1200000, s.dev.draw.1) } } : Dev).count (ev 15 1) 1
          match l.find? fun e => e.2.1 != e.2.2.1 + e.2.2.2 with
          | some e => t.ledgerFault e.1 e.2
          | none => t.bump (ERR + 0x200) 1 }

/-! The wheel, units and streams -/

/-- RELEASE of the first queued unit of a stream whose input is complete: a guaranteed stream's unit takes one of its seat's tokens at the moment
that R272 gives, and is due its contract's latency later; an adapter I picture's slices take none, and best effort has no due time (R263, R272).
DEPARTURE at a start slot of a seat's train, once in it, of a seat whose stream has a released unit begins it; it goes to an adapter's training or phase
10 where that is due; with neither it is an idle departure; a seat that was relocated moves; at any other slot nothing departs (R266, R270, R274, R383).
That best-effort units run by it too is the model's reading (log entry 46). -/
def Obligations.WheelCommandsComplete : Prop :=
  (∀ (s : State) (r : UnitRef) (x : Stream) (u : MUnit) (c : Contract) (t : Seat) (ic : Rat), s.dev.serving = true →
    s.dev.stream r.stream = some x → x.firstQueued = some u → u.number = r.number → s.dev.seatOf x = some (c, t) →
    s.dev.inputComplete x u = some ic →
    (let put (rel due : Rat) (v : Dev) : Dev :=
      (v.modUnit r.stream u.number fun w => { w with stage := .released, rel := rel, due := due, covered := !v.affected x }).trace 3 38 0 none
        ((unitTrace r.stream u.number x.func 0).take 13)
     let delta : Rat := (c.period : Rat) / (c.units : Rat)
     let r0 : Rat := max ic t.tokenAt
     let tok : Rat := min (c.burst : Rat) (t.tokens + (r0 - t.tokenAt) / delta)
     let rel : Rat := if tok < 1 then r0 + (1 - tok) * delta else r0
     (c.guaranteed = false →
       Sys2Proof.Machine.exec (.release r) s = .next { s with dev := put ic (ic + 4000000000000000000) s.dev }) ∧
     (c.guaranteed = true → x.tokenFree = true →
       Sys2Proof.Machine.exec (.release r) s = .next { s with dev := put ic (ic + x.latencyOf c u) s.dev }) ∧
     (c.guaranteed = true → x.tokenFree = false → rel ≤ s.dev.nowNs →
       Sys2Proof.Machine.exec (.release r) s =
         .next { s with
           dev := put rel (rel + x.latencyOf c u)
             (s.dev.modSeat x.contract x.seat fun y => { y with tokens := max tok 1 - 1, tokenAt := rel }) }) ∧
     (c.guaranteed = true → x.tokenFree = false → s.dev.nowNs < rel → Sys2Proof.Machine.exec (.release r) s = .next s))) ∧
  ∀ (s : State) (r : SeatRef) (c : Contract) (t : Seat), s.dev.serving = true → s.dev.media.contracts.find r.contract.toNat = some c →
    c.seats[r.seat]? = some t →
    (let cn := r.contract.toNat
     let n := t.stream.getD 1025
     let v := s.dev.modSeat cn r.seat fun y => { y with departed := some s.dev.slotNow }
     ((t.lost = true ∨ (c.guaranteed = true ∧ ((trainStarts c.k t.offset).contains (s.dev.slotNow % 1024) = false ∨ t.departed = some s.dev.slotNow))) →
       Sys2Proof.Machine.exec (.departure r) s = .next { s with dev := s.dev.follow n }) ∧
     (t.lost = false → (c.guaranteed = false ∨
         ((trainStarts c.k t.offset).contains (s.dev.slotNow % 1024) = true ∧ t.departed ≠ some s.dev.slotNow)) →
       (t.moving = true →
         Sys2Proof.Machine.exec (.departure r) s =
           .next { s with dev := ((v.modSeat cn r.seat fun y => { y with moving := false }).count (ev 14 1) 1).follow n }) ∧
       (t.moving = false → t.stream = none → Sys2Proof.Machine.exec (.departure r) s = .next { s with dev := (v.idleDeparture cn r.seat).follow n }) ∧
       ∀ x : Stream, t.moving = false → t.stream = some n → s.dev.stream n = some x →
         (c.guaranteed = true → x.adapterTurn = true →
           Sys2Proof.Machine.exec (.departure r) s =
             .next { s with dev := (((v.setStream n (x.modPic Pic.turn)).hostService cn r.seat).count (ev 14 0) 1).follow n }) ∧
         ((c.guaranteed = false ∨ x.adapterTurn = false) →
           (∀ u : MUnit, x.firstReleased = some u →
             Sys2Proof.Machine.exec (.departure r) s =
               .next { s with dev := (((v.beginUnit n x u).hostService cn r.seat).count (ev 14 0) 1).follow n }) ∧
           ((x.units.any fun u => u.stage == .released) = false →
             Sys2Proof.Machine.exec (.departure r) s = .next { s with dev := (v.idleDeparture cn r.seat).follow n }))))

/-- A unit in flight, where an entropy engine works on it now: one that has none takes its engine first. CONTEXT_PASS runs phase 1 before pass 0 and
then its pass, after which an encoder forms the residuals of the pass's segment (R162 to R166); DECODE_SEGMENT decodes the segment that is next, and
with the ninth the unit's symbols are complete (R170 to R173); ENCODE_UNIT after pass 7, or where the entry has no passes, gives the unit's coded
bytes (R168, R169). With no engine for it the unit waits (R173, R266, R277). -/
def Obligations.UnitStepsComplete : Prop :=
  ∀ (s : State) (r : UnitRef) (x : Stream) (u : MUnit) (f : Dev → Stream → MUnit → Dev) (c : Instr), s.dev.serving = true →
    s.dev.flying r = some (x, u) →
    ((c = .contextPass r ∧ (s.dev.unitPhases x).param = true ∧ u.passes < 8 ∧ (x.enc = true ∨ u.segs = u.passes + 1) ∧
        f = fun d y v =>
          let s1 := if v.passes = 0 then d.runParam r.stream y v 1 (d.unitPhases y).ph1 else d
          let s2 := s1.withUnit r.stream v.number fun t z w => t.runParam r.stream z w (2 + v.passes) (d.unitPhases y).loop
          let s3 := s2.modUnit r.stream v.number fun w => { w with passes := v.passes + 1 }
          if y.enc = true then s3.formAndPut r.stream v.number (v.passes + 1) else s3) ∨
      (c = .decodeSegment r ∧ x.enc = false ∧ u.segs < 9 ∧ (u.segs = 0 ∨ (s.dev.unitPhases x).param = false ∨ u.passes = u.segs) ∧
        f = fun d y v =>
          let w := (d.decodeSegmentOf y v).1
          let s1 := (d.putUnit r.stream y w).count (ev 8 1) (d.decodeSegmentOf y v).2
          if w.segs = 9 then s1.endDecode r.stream w else s1) ∨
      (c = .encodeUnit r ∧ x.enc = true ∧ (8 ≤ u.passes ∨ (s.dev.unitPhases x).param = false) ∧
        f = fun d _ v =>
          let coded := Machine.encodeUnit v.entries
          let s1 := d.modUnit r.stream v.number fun w => { w with coded := coded, stage := .coded }
          let s2 := ((((s1.count (ev 8 0) (v.entries.length + 2 * escapes v.entries)).count (ev 8 2) (escapes v.entries)).count (ev 8 3)
            ((coded.length - 128) / 2)).count (ev 8 4) 1)
          s2.writeCoded r.stream)) →
    (∀ i : Nat, s.dev.engineNow x u = some i →
      Sys2Proof.Machine.exec c s =
        .next { s with
          dev := ((if u.engine.isSome = true then s.dev else s.dev.beginCoding r.stream x u i).withUnit r.stream u.number f).follow r.stream }) ∧
    (s.dev.engineNow x u = none → Sys2Proof.Machine.exec c s = .next { s with dev := s.dev.follow r.stream })

/-- The steps of a stream. TRAIN, once the coded adapter I picture has had its departures, runs the TRAIN entry's iterations and leaves the picture
trained, with the adapter of the master matrices (free, log entry 17); REGION_JOB ends the region job that is due, with the count of the boxes kept and
their records, which are free (log entry 16); PICTURE_CLOSE ends the open picture, which becomes the stream's last and its reference as marked, and
queues a decoder's record (R211, R229, R233, R236). Where the ring has room and host memory takes the bytes: UNIT_EMIT writes the head unit at EMITTED
and counts its bytes; PICTURE_RECORD, OUTPUT_RECORD and BLOCK_RECORD write the head record's bytes and count it; AUTO_COPY copies the first picture that
is not copied to its host slot and frees its buffer (R217, R224, R236, R246, R257). -/
def Obligations.StreamStepsComplete : Prop :=
  ∀ (s : State) (n : Fin 1025) (x : Stream), s.dev.serving = true → s.dev.stream n = some x →
    (∀ (p : Pic) (c : Contract) (t0 : Seat), x.pic = some p → x.tokenFree = true → p.trained = false →
      (x.units.filter fun u => u.subject == p.picId).length = x.slices →
      ((x.units.filter fun u => u.subject == p.picId).all fun u => u.stage == .coded) = true → s.dev.seatOf x = some (c, t0) →
      (c.guaranteed = false ∨ c.trainDeps (s.dev.pkgOf x) c.spacing ≤ p.trainDeps) →
      ∃ masters : List (List Nat × List Nat), masters.length = u8At ((s.dev.pkgOf x).prog 0) 21 ∧
        Sys2Proof.Machine.exec (.train n) s =
          .next { s with
            dev :=
              let pk := s.dev.pkgOf x
              let recs := ((pk.entry 5).map (·.recs)).getD []
              let e := trainRuns recs p.picId (if u8At x.param 31 = 0 then 24 else u8At x.param 31) 0
                { Exec.start pk recs x.geo.1 x.geo.2.1 with maps := p.maps, depth := x.depth }
              (Dev.tallyExec
                (s.dev.setStream n
                  { x with
                    pic := some { p with trained := true, maps := e.maps }, adapter := some (adapterFrom (pk.prog 0) masters)
                    scratch := overlay (e.maps.filter fun m => isScratch m.1) x.scratch }) x e).follow n }) ∧
    (x.regionDue = true → s.dev.regionNow x = true →
      ∃ (t : Dev) (kept : List Box), Sys2Proof.Machine.exec (.regionJob n) s = .next { s with dev := t.follow n } ∧ t.hmem = s.dev.hmem ∧
        t.dmem = s.dev.dmem ∧ kept.length ≤ 1024 ∧
        t.stream n = some { x with regionDue := false, boxes := leBytes 4 kept.length ++ kept.flatMap Box.record }) ∧
    (∀ p : Pic, x.pic = some p → x.pictureDone p = true → p.begun = true →
      ∃ (t : Dev) (y : Stream), Sys2Proof.Machine.exec (.pictureClose n) s = .next { s with dev := t.follow n } ∧ t.stream n = some y ∧
        y.pic = none ∧ y.pics = x.pics + 1 ∧ y.aus = x.aus + 1 ∧
        (let slot : RefSlot := { picId := p.picId, buf := p.buf }
         y.last = some slot ∧ y.short = (if bitAt p.mark 0 = true then some slot else x.short) ∧
           y.long = (if bitAt p.mark 1 = true then some slot else x.long)) ∧
        y.recs.length = x.recs.length + (if p.out.isSome = true then 1 else 0) ∧ t.hmem = s.dev.hmem ∧ t.dmem = s.dev.dmem) ∧
    (s.dev.mayWrite x.func = true → s.dev.sys.hostFaults = [] → s.dev.hmem.wf = true →
      ∀ c : Nat, c = (if x.waiting = Wait.room then x.consumed else leNat (s.dev.hmem.readN (x.ptr + 8) 8)) →
        (∀ (e : Emit) (rest : List Emit), x.emits = e :: rest → x.emitted + e.bytes.length ≤ c + 2 ^ x.ringLog2 →
          ∃ t : Dev, Sys2Proof.Machine.exec (.unitEmit n) s = .next { s with dev := t.follow n } ∧
            leNat (t.hmem.readN x.ptr 8) = (x.emitted + e.bytes.length) % 2 ^ 64 ∧
            ((x.ring + 2 ^ x.ringLog2 ≤ x.ptr ∨ x.ptr + 8 ≤ x.ring) → e.bytes.length ≤ 2 ^ x.ringLog2 →
              ∀ k : Nat, k < e.bytes.length → t.hmem.read (x.ring + (x.emitted + k) % 2 ^ x.ringLog2) = e.bytes.getD k 0) ∧
            t.dmem = s.dev.dmem ∧ ∃ y : Stream, t.stream n = some y ∧ y.emits = rest ∧ y.emitted = x.emitted + e.bytes.length) ∧
        (∀ (r : RecOut) (rest : List RecOut), x.recs = r :: rest →
          (x.medium = 0 → (x.autoCopy = false ∨ r.copied = true) →
            x.records < c + (if x.autoCopy = true then min (2 ^ x.ringLog2) (u16At x.param 100) else 2 ^ x.ringLog2) →
            ∃ t : Dev, Sys2Proof.Machine.exec (.pictureRecord n) s = .next { s with dev := t.follow n } ∧
              leNat (t.hmem.readN x.ptr 8) = (x.records + 1) % 2 ^ 64 ∧
              (let b := r.bytes.take 12 ++ leBytes 4 (if x.autoCopy = true then x.records % max 1 (u16At x.param 100) else none32) ++
                 (r.bytes.drop 16).take 8 ++ leBytes 4 (x.records % 2 ^ 32) ++ leBytes 4 0
               let slot := x.ring + 32 * (x.records % 2 ^ x.ringLog2)
               (slot + b.length ≤ x.ptr ∨ x.ptr + 8 ≤ slot) → t.hmem.readN slot b.length = b) ∧ t.dmem = s.dev.dmem ∧
              ∃ y : Stream, t.stream n = some y ∧ y.recs = rest ∧ y.records = x.records + 1) ∧
          (x.medium = 1 → x.emitted + r.bytes.length ≤ c + 2 ^ x.ringLog2 →
            ∃ t : Dev, Sys2Proof.Machine.exec (.outputRecord n) s = .next { s with dev := t.follow n } ∧
              leNat (t.hmem.readN x.ptr 8) = (x.emitted + r.bytes.length) % 2 ^ 64 ∧
              ((x.ring + 2 ^ x.ringLog2 ≤ x.ptr ∨ x.ptr + 8 ≤ x.ring) → r.bytes.length ≤ 2 ^ x.ringLog2 →
                ∀ k : Nat, k < r.bytes.length → t.hmem.read (x.ring + (x.emitted + k) % 2 ^ x.ringLog2) = r.bytes.getD k 0) ∧ t.dmem = s.dev.dmem ∧
              ∃ y : Stream, t.stream n = some y ∧ y.recs = rest ∧ y.emitted = x.emitted + r.bytes.length) ∧
          (x.medium = 2 → (x.autoCopy = false ∨ r.copied = true) →
            x.records < c + (if x.autoCopy = true then min (2 ^ x.ringLog2) (u16At x.param 100) else 2 ^ x.ringLog2) →
            ∃ t : Dev, Sys2Proof.Machine.exec (.blockRecord n) s = .next { s with dev := t.follow n } ∧
              leNat (t.hmem.readN x.ptr 8) = (x.records + 1) % 2 ^ 64 ∧
              (let slot := x.ring + 16 * (x.records % 2 ^ x.ringLog2)
               (slot + r.bytes.length ≤ x.ptr ∨ x.ptr + 8 ≤ slot) → t.hmem.readN slot r.bytes.length = r.bytes) ∧ t.dmem = s.dev.dmem ∧
              ∃ y : Stream, t.stream n = some y ∧ y.recs = rest ∧ y.records = x.records + 1)) ∧
        ∀ (i b : Nat) (r : RecOut), x.autoCopy = true → (x.recs.findIdx? fun q => !q.copied) = some i → x.recs[i]? = some r → r.buf = some b →
          x.records + i < c + u16At x.param 100 →
          ∃ t : Dev, Sys2Proof.Machine.exec (.autoCopy n) s = .next { s with dev := t.follow n } ∧
            t.hmem.readN (x.slotAddr (x.records + i)) (layoutOf x.param).size = s.dev.dmem.readN (s.dev.buf b).base (layoutOf x.param).size ∧
            (t.buf b).state = .free ∧ t.dmem = s.dev.dmem ∧
            ∃ y : Stream, t.stream n = some y ∧ (y.recs.map fun q => q.copied) = (x.recs.map fun q => q.copied).set i true)

/-! Tiles -/

/-- Micro-instructions that move words of a tile that runs. LDW puts a word of SRAM into an array's shadow words; SWP exchanges the active and shadow
words of the arrays named; LDA takes a word from the line buffer, from row layout or from where the tile fetched it, to the window or the line buffer;
ST stores outputs and the row's exponent, where the record's consumer reads them; XFR spills or fills a word; HSND puts a word of a complete row's
position units on the mesh, for the tile that reads them; HALO_RECEIVE takes the first word on the mesh for the tile, and the last of a row writes the
row's positions and counts it (R78, R88, R89, R91, R101, R103, R110, R111, R115 to R117, R120). A double-bit error in what LDW or LDA reads is a fault
of the tile (R92). -/
def Obligations.TileMovesComplete : Prop :=
  (∀ (s : State) (tile : Fin 2048) (arr : Fin 4) (part : Fin 64) (word : Fin 2048), s.tileRuns tile = true →
    (∀ r : Bytes × State, (s.naming tile 0x01 0 0).sramRead tile (128 * word) 128 = some r →
      Sys2Proof.Machine.exec (.ldw tile arr part word) s =
        .next ((r.2.modTile tile fun x => x.modArray arr fun a => { a with shadow := loadShadow (s.repairOf tile arr) a.shadow part r.1 }).retire tile)) ∧
    ((s.naming tile 0x01 0 0).sramRead tile (128 * word) 128 = none →
      Sys2Proof.Machine.exec (.ldw tile arr part word) s = .next ((s.naming tile 0x01 0 0).tileFault tile))) ∧
  (∀ (s : State) (tile : Fin 2048) (arrs : BitVec 4), s.tileRuns tile = true →
    Sys2Proof.Machine.exec (.swp tile arrs) s =
      .next (((s.naming tile 0x02 0 0).modTile tile fun x =>
        (List.range 4).foldl (fun (y : Tile) a => if arrs.getLsbD a = true then y.modArray a ArrayState.swap else y) x).retire tile)) ∧
  (∀ (s : State) (tile : Fin 2048) (n : Fin 24) (o : LdaOp) (c : RecCtx) (t : State), s.Issues tile n c → t = s.issued tile 0x03 n c →
    (∀ yo xo : Nat, o.src = .line yo xo →
      (c.realRows yo xo o.kx = [] →
        Sys2Proof.Machine.exec (.lda tile n o) s = .next ((t.modTile tile fun z => (z.shifted c.r o).loadColumn c o yo xo []).retire tile)) ∧
      ∀ (e : Nat × Nat) (rest : List (Nat × Nat)), c.realRows yo xo o.kx = e :: rest →
        (∀ r : Bytes × State, t.sramRead tile (c.lineAddr e.2 (c.r.tapCol xo o.kx) o.group o.part) 128 = some r →
          Sys2Proof.Machine.exec (.lda tile n o) s = .next ((r.2.modTile tile fun z => (z.shifted c.r o).loadColumn c o yo xo r.1).retire tile)) ∧
        (t.sramRead tile (c.lineAddr e.2 (c.r.tapCol xo o.kx) o.group o.part) 128 = none →
          Sys2Proof.Machine.exec (.lda tile n o) s = .next (t.tileFault tile))) ∧
    (∀ y x elem : Nat, o.src = .rows y x elem →
      (∀ u : State, t.loadRows tile n c o y x elem = some u → Sys2Proof.Machine.exec (.lda tile n o) s = .next (u.retire tile)) ∧
      (t.loadRows tile n c o y x elem = none → Sys2Proof.Machine.exec (.lda tile n o) s = .next (t.tileFault tile))) ∧
    ∀ (w : Fin 2048) (elem : Fin 512) (rho : BitVec 18) (r e : Bytes × State), o.src = .word w elem rho →
      t.sramRead tile (128 * w) 128 = some r → r.2.sramRead tile rho.toNat 1 = some e →
      (∀ y col : Nat, o.toLine = some (y, col) →
        Sys2Proof.Machine.exec (.lda tile n o) s =
          .next ((e.2.linePut tile c (ldaWidth o c.r) y col (16 * o.group.val) ((List.range 16).map fun i => codeAt (ldaWidth o c.r) r.1 (elem + i))
            (u8At e.1 0)).retire tile)) ∧
      (o.toLine = none →
        Sys2Proof.Machine.exec (.lda tile n o) s =
          .next ((e.2.modTile tile fun z => (z.shifted c.r o).loadElems o 0
            ((List.range (min (1024 / ldaWidth o c.r - elem) (c.r.cIn - 16 * o.group.val))).map fun i => elemAt c.r.exact (ldaWidth o c.r) r.1 (elem + i))
            ((List.range c.r.lbGroups).foldl (fun (m : SMap Int) g => m.put g (expByte c.r.exact (u8At e.1 0))) [])).retire tile))) ∧
  (∀ (s : State) (tile : Fin 2048) (n : Fin 24) (o : StOp) (c : RecCtx) (t : State), s.Issues tile n c → t = s.issued tile 0x0B n c →
    (let x := t.tileOf tile
     let codes := x.storeCodes c.r o.first o.count
     let put (u : State) : State := (u.modTile tile fun z => { z with stored := z.stored.put (cellKey n o.x o.y) x.rowWide }).retire tile
     (c.toLines = false →
       Sys2Proof.Machine.exec (.st tile n o) s =
         .next (put (t.rowPut tile c (x.rowWidth c.r) o.y o.x o.first codes (toCode 8 x.rowRho)))) ∧
     (c.toLines = true →
       (∀ m : RecCtx, t.ctxOf tile (n.val + 1) = some m →
         Sys2Proof.Machine.exec (.st tile n o) s =
           .next (put (t.linePut tile m (x.rowWidth c.r) o.y o.x (c.ch0 + o.first) codes (toCode 8 x.rowRho)))) ∧
       (t.ctxOf tile (n.val + 1) = none → Sys2Proof.Machine.exec (.st tile n o) s = .next (put t))))) ∧
  (∀ (s : State) (tile : Fin 2048) (o : XfrOp) (c : RecCtx), s.Issues tile o.record c →
    (∀ u : State, placeOk c.r o.place = true → (s.issued tile 0x0E o.record c).transfer tile c o = some u →
      Sys2Proof.Machine.exec (.xfr tile o) s = .next ((u.tileCount tile 19 1).retire tile)) ∧
    (placeOk c.r o.place = false → Sys2Proof.Machine.exec (.xfr tile o) s = .next ((s.issued tile 0x0E o.record c).retire tile))) ∧
  (∀ (s : State) (tile : Fin 2048) (n : Fin 24) (o : HaloOp) (c m : RecCtx), s.Issues tile n c → s.ctxOf tile o.cons = some m →
    ((s.tileOf tile).rowFinal c n o.y = false → Sys2Proof.Machine.exec (.hsnd tile n o) s = .next s) ∧
    ∀ (dest d : Nat) (u : (Bytes × Nat) × State), (s.tileOf tile).rowFinal c n o.y = true → m.readsHalo c = true → haloDest c m o = some (dest, d) →
      State.outUnits tile n o.y c (haloCols c m c.sliver d) (s.issued tile 0x0C n c) = some u → o.k.val < ceilDiv u.1.1.length 128 →
      ∃ k : Nat, k < 65536 ∧
        Sys2Proof.Machine.exec (.hsnd tile n o) s =
          .next (State.retire
            (let last := o.k.val + 1 == ceilDiv u.1.1.length 128
             let msg : HaloMsg :=
               { dest := dest, prod := n, rcd := o.cons, side := if o.side.val = 2 then 2 else 1 - o.side.val, part := c.chPart, y := o.y, last := last
                 data := slice u.1.1 (128 * o.k.val) 128 }
             let t : State := { u.2 with tiles := { u.2.tiles with mesh := u.2.tiles.mesh ++ [msg] } }
             ((t.onDev fun v => v.draw.2).tileCount tile 12 k).tileCount tile 13
               (if last = true then ceilDiv u.1.2 128 - ceilDiv u.1.1.length 128 else 0)) tile)) ∧
  ∀ (s : State) (tile : Fin 2048) (m : HaloMsg), s.dev.serving = true → (s.dev.plain (tile.val / 256)).gated = false →
    (s.dev.plain (tile.val / 256)).failed = false → (s.tiles.mesh.find? fun q => q.dest == tile.val) = some m →
    (let t : State := { s with tiles := { s.tiles with mesh := s.tiles.mesh.erase m } }
     let key := haloKey m.rcd m.side m.part
     let b := (t.tileOf tile).inbox.get key [] ++ m.data
     (m.last = false → Sys2Proof.Machine.exec (.haloReceive tile) s = .next (t.modTile tile fun x => { x with inbox := x.inbox.put key b })) ∧
     (m.last = true →
       Sys2Proof.Machine.exec (.haloReceive tile) s =
         .next (
           let u := t.putHalo tile m b
           let x := u.tileOf tile
           let n := x.halos.get key 0 + 1
           let waits := (match x.stall with
             | some w => decide (w.1 = key ∧ w.2 ≤ n)
             | none => false)
           let v := u.setTile tile { x with
             inbox := x.inbox.del key, halos := x.halos.put key n, stall := if waits = true then none else x.stall }
           if waits = true then v.retire tile else v)))

/-- Micro-instructions of a record that the tile runs. MAC and MACT issue, ARD reads accumulators out, EPI is the channel stage and the
pre-operation, ROT a rotation group, ROW the row stage, VOP a vector operation, SRS saves or restores a record's registers, STAT writes statistics,
END ends the record; HWT retires once the halo counter has the value, and else stalls the tile; NOP has no effect (R66, R69, R82 to R88, R94 to
R103, R116). How records come to the tile, and the places that the spec leaves open, are the model's (log entries 118 to 132). -/
def Obligations.TileRecordsComplete : Prop :=
  (∀ (s : State) (tile : Fin 2048), s.tileRuns tile = true →
    Sys2Proof.Machine.exec (.uinstrNop tile) s = .next ((s.naming tile 0x00 0 0).retire tile)) ∧
  ∀ (s : State) (tile : Fin 2048) (n : Fin 24) (c : RecCtx), s.Issues tile n c →
    (∀ o : MacOp,
      Sys2Proof.Machine.exec (.mac tile n o) s =
        .next ((((s.issued tile 0x04 n c).modTile tile fun x => x.mac c.r ((s.issued tile 0x04 n c).repairOf tile) o).tileCount tile
          (if o.pass.val = 0 then 1 else 3) 1).retire tile)) ∧
    (∀ o : MactOp,
      Sys2Proof.Machine.exec (.mact tile n o) s =
        .next (State.retire
          (State.tileCount
            (if o.pass.val + 1 = c.r.slots false o.wide ∧ c.r.exact = false then
              (s.issued tile 0x05 n c).modTile tile fun x => x.mact c.r ((s.issued tile 0x05 n c).repairOf tile) o
             else s.issued tile 0x05 n c)
            tile (if o.pass.val = 0 then 2 else 3) 1) tile)) ∧
    (∀ (entry : Fin 16) (group : Fin 4) (rows : Fin 64),
      Sys2Proof.Machine.exec (.ard tile n entry group rows) s =
        .next (((s.issued tile 0x06 n c).modTile tile fun x => x.readout c.r entry group rows).retire tile)) ∧
    Sys2Proof.Machine.exec (.epi tile n) s = .next (((s.issued tile 0x07 n c).modTile tile fun x => x.epilogue n c.r).retire tile) ∧
    (∀ group : Fin 64,
      Sys2Proof.Machine.exec (.rot tile n group) s = .next (((s.issued tile 0x08 n c).modTile tile fun x => x.rotate c group).retire tile)) ∧
    (∀ (x y : Nat) (wide : Bool),
      Sys2Proof.Machine.exec (.row tile n x y wide) s =
        .next (State.retire
          (let t := s.issued tile 0x09 n c
           let r := (t.tileOf tile).rowOp c n x y wide
           (t.setTile tile r.1).tileCount tile 15 r.2) tile)) ∧
    (∀ o : VopOp,
      Sys2Proof.Machine.exec (.vop tile n o) s =
        .next (State.retire
          (let t := s.issued tile 0x0A n c
           let r := (t.tileOf tile).vop c n o
           (t.setTile tile r.1).tileCount tile 15 r.2) tile)) ∧
    (∀ (side : Fin 3) (part : Fin 4) (value : Nat),
      Sys2Proof.Machine.exec (.hwt tile n side part value) s =
        .next (
          let t := s.issued tile 0x0D n c
          if value ≤ (t.tileOf tile).halos.get (haloKey n side part) 0 then t.retire tile
          else t.modTile tile fun x => { x with stall := some (haloKey n side part, value) })) ∧
    (∀ restore : Bool,
      Sys2Proof.Machine.exec (.srs tile n restore) s =
        .next (((s.issued tile 0x0F n c).modTile tile fun x => x.switchRec n restore).retire tile)) ∧
    (∀ (space : Bool) (addr : BitVec 64),
      Sys2Proof.Machine.exec (.stat tile n space addr) s =
        .next (((s.issued tile 0x10 n c).writeStat c.stream space addr.toNat (((s.issued tile 0x10 n c).tileOf tile).statOf c n).entry).retire tile)) ∧
    Sys2Proof.Machine.exec (.endRec tile n) s =
      .next (((((s.issued tile 0x11 n c).modTile tile fun x => x.endRecord n).recTrace tile 2 c).nextStack tile).retire tile)

/-- A micro-instruction of a tile without a double-bit error other than STAT and XFR changes no other tile, no byte of host or
device memory, and nothing of the streams, the rings, the clocks or the fuses. -/
def Obligations.TilesKeepToThemselves : Prop :=
  ∀ (c : Instr) (tile : Fin 2048) (s t : State), microOf c = some tile → ((s.tileOf tile).planted.any fun e => e.2) = false →
    Sys2Proof.Machine.exec c s = .next t →
    (∀ k : Nat, k ≠ tile.val → t.tiles.tiles.get k Tile.blank = s.tiles.tiles.get k Tile.blank) ∧ t.clk = s.clk ∧ t.fuses = s.fuses ∧
      t.pending = s.pending ∧ t.dev.hmem = s.dev.hmem ∧ t.dev.dmem = s.dev.dmem ∧ t.dev.media = s.dev.media ∧ t.dev.host = s.dev.host ∧
      t.dev.pair = s.dev.pair ∧ t.dev.chain = s.dev.chain ∧ t.dev.sys = { s.dev.sys with free := t.dev.sys.free }

/-! Faults -/

/-- Faults of units while the clocks run, each of a unit that works. A tile's: the tiles of its seats restore and its work goes to another (R92, R375 to
R377). An entropy engine's: its slice is redone, a spare takes its role, or its bookings are moved (R155, R274, R382). A rim engine's: the spare takes
over, or the plain is left without (R374, R382). A warp, region or lossless unit's, and a plain's: its bookings are moved and its seats relocated, a
host job ends with ABORTED_FAULT (R371, R382, R383). An uncorrectable HBM error ends the reading job, or loses the stream that it strikes; an HBM lane
is repaired; the spine and the watchdog are noted (R371, R374, R382). What a redo restores and which seats move is the model's reading (log entries 100
to 105). -/
def Obligations.FaultCommandsComplete : Prop :=
  ∀ s : State, s.dev.clocked = true →
    (∀ (tile : Fin 2048) (parity : Bool), (s.dev.plain (tile.val / 256)).failed = false →
      (s.dev.plain (tile.val / 256)).lost.contains (tile.val % 256) = false →
      Sys2Proof.Machine.exec (.tileFault tile parity) s = .next ((s.restoreTiles tile).onDev fun d => d.tileFaultOp tile)) ∧
    (∀ (e : Fin 18) (x : Engine), s.dev.units.engines[e.val]? = some x → x.failed = false →
      Sys2Proof.Machine.exec (.engineFault e) s =
        .next { s with
          dev :=
            let s1 := s.dev.abandonIf fun t => t.cls == 2 && (t.inst == e.val || (x.role.isSome && (spareEngine s.dev.units.engines).isNone && !t.waiting))
            let s2 := match x.held with
              | some u => s1.redoUnits u.stream fun v => v.number == u.number && v.stage == UStage.coded
              | none => s1
            let r := (s2.holdEngine e none).loseEngine e
            match x.role with
            | some k => if r.2 = true then r.1 else r.1.loseInstance k none
            | none => r.1 }) ∧
    (∀ p : Fin 8, (s.dev.plain p).rimDown = false →
      Sys2Proof.Machine.exec (.rimFault p) s =
        .next { s with
          dev :=
            let s0 := s.dev.abandonIf fun t => t.cls == 3
            let spare := s0.units.rimSpare == some p.val
            let s1 := s0.sticky 1 2 (firstDet (if spare = true then 8 else p) 0 p 0)
            if spare = false ∧ s1.units.rimSpare = none ∧ s1.units.rimSpareFailed = false then
              (({ s1 with units := { s1.units with rimSpare := some p.val } } : Dev).soft (repairEntry 6 p 0 0 0)).redoBooked (16 + p)
            else
              let s2 := if spare = true then { s1 with units := { s1.units with rimSpare := none, rimSpareFailed := true } } else s1
              ((s2.setRimDown p).sticky 1 3 (firstDet (if spare = true then 8 else p) 0 p 0)).loseInstance (16 + p) (some p.val) }) ∧
    (∀ p : Fin 8, (s.dev.plain p).warpDown = false →
      Sys2Proof.Machine.exec (.warpFault p) s =
        .next { s with
          dev := ((s.dev.sticky 1 4 (firstDet p 0 p 0)).setPlain p { s.dev.plain p with warpDown := true }).loseInstance (24 + p) (some p.val) }) ∧
    (∀ u : Fin 2, listGet s.dev.units.regionDown u false = false →
      Sys2Proof.Machine.exec (.regionFault u) s =
        .next { s with
          dev :=
            let d := s.dev.sticky 1 5 (firstDet u 0 0 0)
            ({ d with units := { d.units with regionDown := listSet d.units.regionDown u true } } : Dev).loseInstance (32 + u) none }) ∧
    (∀ e : Fin 4, (s.dev.lle e).failed = false →
      Sys2Proof.Machine.exec (.lleFault e) s =
        .next { s with
          dev :=
            let d := (s.dev.sticky 1 6 (firstDet e 0 0 0)).setLle e { job := none, suspended := false, segment := false, failed := true }
            let d2 := match (s.dev.lle e).job.bind d.accOf with
              | some a => if d.working = true then d.llFail a stABORTED else d
              | none => d
            d2.loseInstance (34 + e) none }) ∧
    (∀ p : Fin 8, (s.dev.plain p).failed = false →
      Sys2Proof.Machine.exec (.plainFail p) s =
        .next { s with
          dev := s.dev.plainFailOp p
          tiles := { tiles := s.tiles.tiles.filter fun e => e.1 / 256 != p.val, mesh := s.tiles.mesh.filter fun m => m.dest / 256 != p.val } }) ∧
    (∀ (a : BitVec 36) (n : Fin 1025) (x : Stream) (j : Job) (rest : List Job) (state : Bool),
      (let st := a.toNat / 256 % 2
       let d := s.dev.sticky 2 st (firstDet st 0 0 0)
       Sys2Proof.Machine.exec (.hbmUe a none state) s = .next { s with dev := d } ∧
       (d.stream n = some x →
         ((state = true ∨ x.holdsRef a.toNat = true) →
           Sys2Proof.Machine.exec (.hbmUe a (some n) state) s = .next { s with dev := (d.loseStream n).pumpWaiting }) ∧
         (state = false → x.holdsRef a.toNat = false → x.jobs = j :: rest →
           Sys2Proof.Machine.exec (.hbmUe a (some n) state) s =
             .next { s with dev := (d.modStream n fun y => y.modJob j.seq fun k => { k with aborted := true }).follow n })))) ∧
    (∀ (stack : Fin 2) (channel : Fin 8) (lane : Fin 4096),
      Sys2Proof.Machine.exec (.hbmLaneRepair stack channel lane) s =
        .next { s with
          dev :=
            let d := (s.dev.sticky 2 (2 + stack.val) (firstDet stack lane 0 0)).soft (repairEntry 8 0 stack channel lane)
            ({ d with units := { d.units with hbmRep := listMod d.units.hbmRep stack (· + 1) } } : Dev).count (ev 10 5) 1 }) ∧
    Sys2Proof.Machine.exec .spineUe s = .next { s with dev := s.dev.sticky 1 7 0 } ∧
    Sys2Proof.Machine.exec .watchdogExpiry s = .next { s with dev := s.dev.sticky 3 9 0 }

/-! The pair -/

/-- The pass links of a device that serves. A heartbeat with serial and slot roles goes out on each link that is up, 10 µs after the last, as the next
numbered flit; one received keeps its link up, or brings it up and is answered with a HELLO, and is evidence that the partner lives, on links that are
used; 30 µs without one take the link down. A HELLO brings its link up and is answered, with the highest level that both ends know. A replay sends
every flit from its number on again, where the replay buffer holds them. A failing lane's traffic moves to the spare lane, and a second one takes the
link down (R345 to R349, R351, R364). -/
def Obligations.PairLinkCommandsComplete : Prop :=
  ∀ s : State, s.dev.serving = true →
    (s.dev.pair.lastBeat + 12000 ≤ s.dev.sys.time →
      ∃ t : State, Sys2Proof.Machine.exec .heartbeat s = .next t ∧ s.devOnly t ∧ t.dev.pair.lastBeat = s.dev.sys.time ∧
        t.dev.host.outputs = s.dev.host.outputs ++ (((List.range 2).filter fun l => (s.dev.link l).up).map fun l =>
          Output.heartbeat l (s.dev.link l).txSeq (BitVec.ofNat 64 s.fuses.serial) s.dev.pair.roles) ∧
        (∀ l : Nat, t.dev.link l =
          if (s.dev.link l).up = true ∧ l < 2 ∧ l < s.dev.pair.links.length then
            { s.dev.link l with txSeq := ((s.dev.link l).txSeq + 1) % 2 ^ 24, kept := min 256 ((s.dev.link l).kept + 1) }
          else s.dev.link l) ∧
        t.dev.hmem = s.dev.hmem ∧ t.dev.dmem = s.dev.dmem ∧ t.dev.media = s.dev.media ∧ t.dev.sys = s.dev.sys) ∧
    ∀ l : Fin 2,
      (∀ (serial : BitVec 64) (roles : List SlotRole), s.dev.linkOn l = true → (s.dev.link l).everUp = true →
        Sys2Proof.Machine.exec (.heartbeatReceive l serial roles) s =
          .next { s with
            dev :=
              let d := s.dev.modLink l fun x => { x with up := true, lastBeat := s.dev.sys.time }
              let d1 := if (s.dev.link l).up = true then d else d.sendHello l s.fuses.serial
              let d2 : Dev := { d1 with pair := { d1.pair with evidence := none } }
              let d3 := if s.dev.pair.silent = true then d2.heard ((s.dev.link l).serial == some serial) else d2
              if s.dev.pair.uses l = true then (d3.checkConflict roles).endDetaches fun m => !(roles.any fun r => r.mirrorId == m) else d1 }) ∧
      ((s.dev.link l).up = true → (s.dev.link l).lastBeat + 36000 ≤ s.dev.sys.time →
        Sys2Proof.Machine.exec (.linkDown l) s =
          .next { s with dev := ((s.dev.bump (PASS + 0x28) 1).count (ev 12 5) 1).linkDown l false }) ∧
      (∀ h : HelloData, s.dev.linkOn l = true → s.dev.pair.silent = false →
        ∃ t : State, Sys2Proof.Machine.exec (.hello l h) s = .next t ∧ s.devOnly t ∧
          listGet t.dev.pair.hellos l none = (if l.val < s.dev.pair.hellos.length then some h else none) ∧
          t.dev.pair.mpl = (t.dev.pair.hello.bind fun g => commonLevel s.dev.pair.mplCap g.mpl.toNat) ∧ t.dev.pair.partner = 1 ∧
          (∃ q : Nat, t.dev.host.outputs = s.dev.host.outputs ++ (if (s.dev.link l).up = true then []
            else [.helloSent l q
              { serial := BitVec.ofNat 64 s.fuses.serial, rev := 0xB1, fw := BitVec.ofNat 32 (s.dev.regN (GLB + 0x10))
                mpl := BitVec.ofNat 32 s.dev.pair.mplCap, addr := BitVec.ofNat 8 s.dev.chain.addr }])) ∧
          (l.val < s.dev.pair.links.length → (t.dev.link l).up = true ∧ (t.dev.link l).serial = some h.serial ∧ (t.dev.link l).lastBeat = s.dev.sys.time) ∧
          t.dev.hmem = s.dev.hmem ∧ t.dev.dmem = s.dev.dmem ∧ t.dev.media = s.dev.media) ∧
      (∀ seq : BitVec 24, (s.dev.link l).up = true →
        (let k := ((s.dev.link l).txSeq + 2 ^ 24 - seq.toNat) % 2 ^ 24
         (1 ≤ k → k ≤ (s.dev.link l).kept →
           Sys2Proof.Machine.exec (.replay l seq) s =
             .next { s with
               dev := ((s.dev.output (.replay l seq.toNat k)).modLink l fun x =>
                 { x with replayed := min (x.replayed + k) 0xFFFFFFFF }).count (ev 12 4) k }) ∧
         ((k = 0 ∨ (s.dev.link l).kept < k) → Sys2Proof.Machine.exec (.replay l seq) s = .next s))) ∧
      ∀ lane : Fin 9, (s.dev.link l).up = true →
        ((s.dev.link l).failLane = none →
          Sys2Proof.Machine.exec (.laneSpare l lane) s =
            .next { s with
              dev := ((s.dev.modLink l fun x => { x with failLane := some lane.val }).soft (repairEntry 7 0 l 0 lane)).sticky 1 (8 + l)
                (firstDet l lane 0 0) }) ∧
        ∀ k : Nat, (s.dev.link l).failLane = some k → k ≠ lane.val →
          Sys2Proof.Machine.exec (.laneSpare l lane) s = .next { s with dev := s.dev.linkDown l true }

/-- Mirror slots of a device that serves. EPOCH_OPEN at the active end sends the first image whose access units are delivered as the next epoch, and
at the standby makes the epoch incoming; EPOCH_CLOSE at the standby commits or discards it, and answers; EPOCH_ACK at the active end ends the epoch,
or sends it again, three times in all; two periods without an answer bring ABORT (R354 to R358). SWITCH_RECORD makes the standby active, and its
acknowledgement makes the old active end standby (R366). A closing notice ends the mirror at this end (R365), RELINQUISH is a takeover (R383). A
matched ATTACH that cannot be taken ends with its status, and one that can takes the lowest free slot (R352). What an epoch holds as a value, and what
a slot shows between its records, are the model's (log entries 87 to 93). -/
def Obligations.MirrorSlotCommandsComplete : Prop :=
  ∀ s : State, s.dev.serving = true →
    (∀ (p : PartnerAttach) (w : WaitAttach) (x : Stream) (c : Contract) (t : Seat),
      (s.dev.pair.waiting.find? fun v => v.mirrorId == p.mirrorId && v.active != p.active) = some w → s.dev.stream w.stream = some x →
      s.dev.seatOf x = some (c, t) → s.dev.mirrors = true → c.job ≠ p.job →
      Sys2Proof.Machine.exec (.attachMatch p) s =
        .next { s with
          dev := ({ s.dev with pair := { s.dev.pair with waiting := s.dev.pair.waiting.filter fun v => v.seq != w.seq } } : Dev).finish (some w.seq)
            stFORMAT 0 0 }) ∧
    (∀ (p : PartnerAttach) (w : WaitAttach) (x : Stream) (c : Contract) (t : Seat),
      (s.dev.pair.waiting.find? fun v => v.mirrorId == p.mirrorId && v.active != p.active) = some w → s.dev.stream w.stream = some x →
      s.dev.seatOf x = some (c, t) → s.dev.mirrors = true → c.job = p.job → u8At c.cpb 4 = p.cls → c.rerunA = p.rerun →
      mirrorParam x.medium x.param = mirrorParam x.medium p.param →
      (if x.enc = true then (s.dev.pkgOf x).pkgDigest = p.pkgDigest else (s.dev.pkgOf x).modelDigest = p.modelDigest) → p.refused = false →
      (w.active = true ∨ x.ran = false) → s.dev.slotOf w.stream = none → s.dev.pair.slots.length < 1024 → (w.active = false ∨ x.medium ≠ 0) →
      s.dev.pair.booked (!w.active) + (s.dev.mirrorBooking c x).1 ≤ 950 →
      Sys2Proof.Machine.exec (.attachMatch p) s =
        .next { s with
          dev :=
            let k := lowestFree s.dev.pair.slots 1024
            let y : Stream := { x with mirror := .none }
            let d := ({ s.dev with pair := { s.dev.pair with waiting := s.dev.pair.waiting.filter fun v => v.seq != w.seq } } : Dev).setStream w.stream y
            let q : Slot :=
              { Slot.free with
                role := if w.active = true then .active else .standby, func := x.func, stream := w.stream, mirrorId := w.mirrorId
                booking := (s.dev.mirrorBooking c x).1, period := (s.dev.mirrorBooking c x).2, attachSeq := some w.seq, covered := x.aus }
            if w.active = true then
              let e : Sent := { number := 0, times := 1, opened := s.dev.sys.time, full := true, image := d.capture y, bufs := y.named }
              (d.setSlot k { q with nextEpoch := 1, opened := 1, sent := [e] }).sendRecord (.epoch k 0 true (d.capture y))
            else d.setSlot k q }) ∧
    ∀ k : Fin 1024,
      (∀ (i : EpochImage) (rest : List EpochImage) (x : Stream), (s.dev.slot k).ready = i :: rest → s.dev.stream (s.dev.slot k).stream = some x →
        (s.dev.slot k).role = .active → (s.dev.slot k).state ≠ .conflict → (s.dev.slot k).foreign = false → s.dev.mirrors = true →
        i.nextUnit ≤ x.delivered →
        Sys2Proof.Machine.exec (.epochOpen k) s =
          .next { s with
            dev :=
              let t := s.dev.slot k
              let e : Sent := { number := t.nextEpoch, times := 1, opened := s.dev.sys.time, full := t.fullNext, image := i
                                bufs := if t.fullNext = true then x.named else [x.last].filterMap fun r => r.map (·.buf) }
              ((s.dev.setSlot k { t with
                ready := rest, nextEpoch := t.nextEpoch + 1, opened := t.opened + 1, sent := t.sent ++ [e], fullNext := false
                state := if t.state = .degraded ∨ t.state = .takenOver then .resync else t.state }).sendRecord
                (.epoch k t.nextEpoch t.fullNext i)).switchStep t.stream }) ∧
      ((s.dev.slot k).role = .standby → (s.dev.slot k).foreign = false → s.dev.mirrors = true →
        Sys2Proof.Machine.exec (.epochOpen k) s =
          .next { s with
            dev :=
              let t := s.dev.slot k
              s.dev.setSlot k { t with
                incoming := true, opened := t.opened + 1, discarded := if t.incoming = true then t.discarded + 1 else t.discarded } }) ∧
      (∀ (number : BitVec 32) (full : Bool) (i : EpochImage), (s.dev.slot k).role = .standby → (s.dev.slot k).foreign = false → s.dev.mirrors = true →
        (let t := s.dev.slot k
         let opened := t.opened + (if t.incoming = true then 0 else 1)
         Sys2Proof.Machine.exec (.epochClose k number full i true) s =
           .next { s with
             dev := ((((s.dev.setSlot k { t with
               opened := opened, incoming := false, acked := t.acked + 1, epochNo := some number.toNat, nextEpoch := number.toNat + 1
               mark := (i.nextUnit, lastIdOf i), covered := i.nextUnit }).install t.stream i).committed k full).count (ev 12 6) 1).sendRecord
               (.epochAck k number.toNat true) } ∧
         Sys2Proof.Machine.exec (.epochClose k number full i false) s =
           .next { s with
             dev := ((s.dev.setSlot k { t with opened := opened, incoming := false, discarded := t.discarded + 1 }).count (ev 12 7) 1).sendRecord
               (.epochAck k number.toNat false) })) ∧
      (∀ (number : BitVec 32) (e : Sent), (s.dev.slot k).role = .active → ((s.dev.slot k).sent.find? fun f => f.number == number.toNat) = some e →
        (let t := s.dev.slot k
         Sys2Proof.Machine.exec (.epochAck k number true) s =
           .next { s with
             dev := (((s.dev.setSlot k { t with
               sent := t.sent.filter fun f => f.number != number.toNat, acked := t.acked + 1, epochNo := some number.toNat
               mark := (e.image.nextUnit, lastIdOf e.image) }).committed k e.full).count (ev 12 6) 1).settleFeatures t.stream } ∧
         (3 ≤ e.times → Sys2Proof.Machine.exec (.epochAck k number false) s = .next { s with dev := s.dev.abortSlot k }) ∧
         (e.times < 3 →
           Sys2Proof.Machine.exec (.epochAck k number false) s =
             .next { s with
               dev := ((s.dev.count (ev 12 7) 1).setSlot k { t with
                 sent := t.sent.map fun f => if f.number = number.toNat then { f with times := f.times + 1 } else f }).sendRecord
                 (.epoch k number.toNat e.full e.image) }))) ∧
      (∀ e : Sent, e ∈ (s.dev.slot k).sent → (s.dev.slot k).role = .active → 2 * (s.dev.slot k).period * 6 ≤ (s.dev.sys.time - e.opened) * 5 →
        Sys2Proof.Machine.exec (.abort k) s = .next { s with dev := s.dev.abortSlot k }) ∧
      ((s.dev.slot k).role = .standby → (s.dev.slot k).epochNo.isSome = true →
        Sys2Proof.Machine.exec (.switchRecord k) s =
          .next { s with
            dev :=
              let t := s.dev.slot k
              let d := s.dev.endWatch k stDONE (some 3)
              (d.setSlot k { d.slot k with
                role := .active, state := .inSync, forced := false, covered := t.mark.1, acked := t.acked + t.discarded, discarded := 0 }).sendRecord
                (.switchAck k) }) ∧
      (∀ q : Nat, (s.dev.slot k).switchSeq = some q → (s.dev.slot k).role = .active → (s.dev.slot k).switchOut = true →
        Sys2Proof.Machine.exec (.switchAck k) s =
          .next { s with
            dev :=
              let t := s.dev.slot k
              ((s.dev.setSlot k { t with
                role := .standby, state := .inSync, forced := false, switchSeq := none, switchOut := false, ready := [], sent := []
                acked := t.acked + t.sent.length, epochNo := some (t.nextEpoch - 1) }).finish (some q) stDONE 0 0).settleFeatures t.stream }) ∧
      (∀ closed : Bool,
        (let t := s.dev.slot k
         (t.role = .standby →
           Sys2Proof.Machine.exec (.closingNotice k closed) s =
             .next { s with
               dev := (((s.dev.endWatch k stCANCELLED (some (if closed = true then 5 else 4))).finish t.attachSeq stCANCELLED 0 0).freeSlot k).modStream
                 t.stream fun x => { x with mirror := .standby } }) ∧
         ((t.role = .active ∨ t.role = .held) →
           Sys2Proof.Machine.exec (.closingNotice k closed) s =
             .next { s with
               dev := (((((s.dev.finish t.attachSeq stCANCELLED 0 0).finish t.switchSeq stABORTED 0 0).dropUnacked k).freeSlot k).settleFeatures
                 t.stream).modStream t.stream fun x => { x with mirror := .active } }))) ∧
      ((s.dev.slot k).role = .standby →
        Sys2Proof.Machine.exec (.relinquish k) s = .next { s with dev := (s.dev.takeSlot k 1 stTAKEOVER false).refreshStreams })

/-! Arithmetic -/

/-- A right shift of the exact class gives a nearest integer, and the even one of two as near, and requantisation narrows it (R34); narrowing by
saturation gives the nearest value of the width, and by wrapping the value of the width that is congruent (R33). -/
def Obligations.ExactShiftsRoundToNearestEven : Prop :=
  (∀ (x : Int) (n : Nat), 2 * (x - rshiftRne x n * 2 ^ n).natAbs ≤ 2 ^ n ∧
    (2 * (x - rshiftRne x n * 2 ^ n).natAbs = 2 ^ n → rshiftRne x n % 2 = 0) ∧
    ∀ (b : Nat) (wrap : Bool), requantise x n b wrap = narrow (rshiftRne x n) b wrap) ∧
  ∀ (x : Int) (n : Nat), 1 ≤ n →
    (narrow x n false = if x < -(2 ^ (n - 1)) then -(2 ^ (n - 1)) else if 2 ^ (n - 1) - 1 < x then 2 ^ (n - 1) - 1 else x) ∧
      (narrow x n true - x) % 2 ^ n = 0 ∧ -(2 ^ (n - 1)) ≤ narrow x n true ∧ narrow x n true ≤ 2 ^ (n - 1) - 1

/-- Codes of 4 bits lie two in a byte, the first in bits [3:0], and codes of 2 bits four in a byte, code j in bits [2j+1:2j], where the device packs
them and where it reads them (R28). -/
def Obligations.NarrowCodesPackLowestFirst : Prop :=
  (∀ (l : List Nat) (k c : Nat), (∀ x ∈ l, x < 16) →
    (l[2 * k]? = some c → ∃ b : Byte, (packCodes 4 l)[k]? = some b ∧ b.toNat % 16 = c) ∧
    (l[2 * k + 1]? = some c → ∃ b : Byte, (packCodes 4 l)[k]? = some b ∧ b.toNat / 16 = c)) ∧
  (∀ (l : List Nat) (k j c : Nat), (∀ x ∈ l, x < 4) → j < 4 → l[4 * k + j]? = some c →
    ∃ b : Byte, (packCodes 2 l)[k]? = some b ∧ b.toNat / 4 ^ j % 4 = c) ∧
  ∀ (l : Bytes) (k : Nat), k < l.length →
    elemAt false 4 l (2 * k) = (u8At l k % 16 : Nat) ∧ elemAt false 4 l (2 * k + 1) = (u8At l k / 16 : Nat) ∧
      ∀ j : Nat, j < 4 → elemAt false 2 l (4 * k + j) = (u8At l k / 4 ^ j % 4 : Nat)

/-! The whole machine -/

/-- A command that is not one of those that complete descriptors, move data, write records or reset the block changes no byte of host or device
memory. -/
def Obligations.OnlyDataCommandsWriteMemory : Prop :=
  ∀ (c : Instr) (s t : State), keepsMemory c = true → Sys2Proof.Machine.exec c s = .next t → t.dev.hmem = s.dev.hmem ∧ t.dev.dmem = s.dev.dmem

end
end

