-- ==== Sys2Proof/Laws/Map.lean ====
section
/-!
SUPPORT. Sparse tables: what is found after an entry is put or taken away.
-/
namespace Sys2Proof.Machine

theorem SMap.find_put_same {α : Type} (m : SMap α) (n : Nat) (v : α) : (m.put n v).find n = some v := by
  induction m with
  | nil => simp [SMap.put, SMap.find]
  | cons e m ih =>
    obtain ⟨k, w⟩ := e
    by_cases h1 : n < k
    · simp [SMap.put, SMap.find, h1]
    · by_cases h2 : k = n
      · simp [SMap.put, SMap.find, h2]
      · simp [SMap.put, SMap.find, h1, h2, ih]

theorem SMap.find_put_other {α : Type} (m : SMap α) (n k : Nat) (v : α) (h : k ≠ n) : (m.put n v).find k = m.find k := by
  induction m with
  | nil => simp [SMap.put, SMap.find, Ne.symm h]
  | cons e m ih =>
    obtain ⟨j, w⟩ := e
    by_cases h1 : n < j
    · simp [SMap.put, SMap.find, h1, Ne.symm h]
    · by_cases h2 : j = n
      · subst h2; simp [SMap.put, SMap.find, Ne.symm h]
      · simp only [SMap.put, h1, h2, if_false]
        by_cases h3 : j = k <;> simp [SMap.find, h3, ih]

theorem SMap.get_put_same {α : Type} (m : SMap α) (n : Nat) (v d : α) : (m.put n v).get n d = v := by
  simp [SMap.get, SMap.find_put_same]

theorem SMap.get_put_other {α : Type} (m : SMap α) (n k : Nat) (v d : α) (h : k ≠ n) : (m.put n v).get k d = m.get k d := by
  simp [SMap.get, SMap.find_put_other m n k v h]

theorem SMap.find_del_same {α : Type} (m : SMap α) (n : Nat) : (m.del n).find n = none := by
  induction m with
  | nil => rfl
  | cons e m ih =>
    obtain ⟨k, w⟩ := e
    unfold SMap.del at ih ⊢
    by_cases h : k = n <;> simp [h, SMap.find, ih]

theorem SMap.find_del_other {α : Type} (m : SMap α) (n k : Nat) (h : k ≠ n) : (m.del n).find k = m.find k := by
  induction m with
  | nil => rfl
  | cons e m ih =>
    obtain ⟨j, w⟩ := e
    unfold SMap.del at ih ⊢
    by_cases h1 : j = n
    · simp [h1, SMap.find, ih, Ne.symm h]
    · by_cases h2 : j = k <;> simp [h1, h2, SMap.find, ih, h]

end Sys2Proof.Machine
end

