-- ==== Sys2Proof/Laws/Mem.lean ====
section
/-!
SUPPORT. Byte memories: every write keeps the canonical form, a read after a write to the same place gives what was written, and every other
place is left alone.
-/
namespace Sys2Proof.Machine

theorem Mem.read_below (m : Mem) (lo a : Nat) (h : Mem.wfFrom lo m = true) (ha : a < lo) : m.read a = Mem.unlisted := by
  induction m generalizing lo with
  | nil => rfl
  | cons e m ih =>
    obtain ⟨k, v⟩ := e
    simp [Mem.wfFrom] at h
    have hk : k ≠ a := by omega
    simp [Mem.read, hk]
    exact ih (k + 1) h.2 (by omega)

theorem Mem.wfFrom_mono (m : Mem) (lo hi : Nat) (h : Mem.wfFrom hi m = true) (hl : lo ≤ hi) : Mem.wfFrom lo m = true := by
  cases m with
  | nil => rfl
  | cons e m =>
    obtain ⟨k, v⟩ := e
    simp [Mem.wfFrom] at h ⊢
    exact ⟨⟨by omega, h.1.2⟩, h.2⟩

theorem Mem.wfFrom_consCell (m : Mem) (lo a : Nat) (v : Byte) (h : Mem.wfFrom (a + 1) m = true) (hl : lo ≤ a) :
    Mem.wfFrom lo (Mem.consCell a v m) = true := by
  by_cases hv : v = Mem.unlisted
  · simp [Mem.consCell, hv, Mem.wfFrom_mono m lo (a + 1) h (by omega)]
  · simp [Mem.consCell, hv, Mem.wfFrom, hl, h]

theorem Mem.wfFrom_write (m : Mem) (lo a : Nat) (v : Byte) (h : Mem.wfFrom lo m = true) (hl : lo ≤ a) : Mem.wfFrom lo (m.write a v) = true := by
  induction m generalizing lo with
  | nil => exact Mem.wfFrom_consCell [] lo a v rfl hl
  | cons e m ih =>
    obtain ⟨k, w⟩ := e
    simp [Mem.wfFrom] at h
    unfold Mem.write
    by_cases h1 : a < k
    · simp only [h1, if_true]
      refine Mem.wfFrom_consCell _ lo a v ?_ hl
      simp [Mem.wfFrom, h.1.2, h.2]; omega
    · by_cases h2 : k = a
      · subst h2
        simp only [Nat.lt_irrefl, if_false, if_true]
        exact Mem.wfFrom_consCell m lo k v h.2 hl
      · simp only [h1, h2, if_false]
        simp [Mem.wfFrom, h.1.1, h.1.2, ih (k + 1) h.2 (by omega)]

/-- A write keeps the canonical form. -/
theorem Mem.wf_write (m : Mem) (a : Nat) (v : Byte) (h : m.wf = true) : (m.write a v).wf = true :=
  Mem.wfFrom_write m 0 a v h (Nat.zero_le a)

/-- A write of several bytes keeps the canonical form. -/
theorem Mem.wf_writeN (m : Mem) (a : Nat) (b : Bytes) (h : m.wf = true) : (m.writeN a b).wf = true := by
  induction b generalizing m a with
  | nil => exact h
  | cons x b ih => exact ih (m.write a x) (a + 1) (Mem.wf_write m a x h)

theorem Mem.read_consCell_other (m : Mem) (a x : Nat) (v : Byte) (h : x ≠ a) : Mem.read (Mem.consCell a v m) x = m.read x := by
  by_cases hv : v = Mem.unlisted <;> simp [Mem.consCell, hv, Mem.read, Ne.symm h]

/-- A write leaves every other byte alone. -/
theorem Mem.read_write_other (m : Mem) (a x : Nat) (v : Byte) (h : x ≠ a) : (m.write a v).read x = m.read x := by
  induction m with
  | nil => exact Mem.read_consCell_other [] a x v h
  | cons e m ih =>
    obtain ⟨k, w⟩ := e
    unfold Mem.write
    by_cases h1 : a < k
    · simp only [h1, if_true]
      exact Mem.read_consCell_other _ a x v h
    · by_cases h2 : k = a
      · subst h2
        simp only [Nat.lt_irrefl, if_false, if_true]
        rw [Mem.read_consCell_other m k x v h]
        simp [Mem.read, Ne.symm h]
      · simp only [h1, h2, if_false]
        by_cases h3 : k = x <;> simp [Mem.read, h3, ih]

theorem Mem.read_consCell_same (m : Mem) (a : Nat) (v : Byte) (h : Mem.wfFrom (a + 1) m = true) : Mem.read (Mem.consCell a v m) a = v := by
  by_cases hv : v = Mem.unlisted
  · simp [Mem.consCell, hv, Mem.read_below m (a + 1) a h (by omega)]
  · simp [Mem.consCell, hv, Mem.read]

theorem Mem.readFrom_write_same (m : Mem) (lo a : Nat) (v : Byte) (h : Mem.wfFrom lo m = true) : (m.write a v).read a = v := by
  induction m generalizing lo with
  | nil => exact Mem.read_consCell_same [] a v rfl
  | cons e m ih =>
    obtain ⟨k, w⟩ := e
    simp [Mem.wfFrom] at h
    unfold Mem.write
    by_cases h1 : a < k
    · simp only [h1, if_true]
      refine Mem.read_consCell_same _ a v ?_
      simp [Mem.wfFrom, h.1.2, h.2]; omega
    · by_cases h2 : k = a
      · subst h2
        simp only [Nat.lt_irrefl, if_false, if_true]
        exact Mem.read_consCell_same m k v h.2
      · simp only [h1, h2, if_false]
        simp [Mem.read, h2, ih (k + 1) h.2]

/-- A read after a write to the same address gives the byte written. -/
theorem Mem.read_write_same (m : Mem) (a : Nat) (v : Byte) (h : m.wf = true) : (m.write a v).read a = v :=
  Mem.readFrom_write_same m 0 a v h

/-- A write of several bytes leaves every byte outside them alone. -/
theorem Mem.read_writeN_other (m : Mem) (a x : Nat) (b : Bytes) (h : x < a ∨ a + b.length ≤ x) : (m.writeN a b).read x = m.read x := by
  induction b generalizing m a with
  | nil => rfl
  | cons y b ih =>
    simp only [List.length_cons] at h
    show (Mem.writeN (m.write a y) (a + 1) b).read x = m.read x
    rw [ih (m.write a y) (a + 1) (by omega), Mem.read_write_other m a x y (by omega)]

@[simp] theorem Mem.length_readN (m : Mem) (a n : Nat) : (m.readN a n).length = n := by
  induction n generalizing a with
  | zero => rfl
  | succ n ih => simp [Mem.readN, ih]

theorem Mem.readN_congr (m m' : Mem) (a n : Nat) (h : ∀ x : Nat, a ≤ x → x < a + n → m.read x = m'.read x) : m.readN a n = m'.readN a n := by
  induction n generalizing a with
  | zero => rfl
  | succ n ih =>
    simp only [Mem.readN]
    rw [h a (Nat.le_refl a) (by omega), ih (a + 1) (fun x h1 h2 => h x (by omega) (by omega))]

/-- A read of the bytes just written gives them. -/
theorem Mem.readN_writeN_same (m : Mem) (a : Nat) (b : Bytes) (h : m.wf = true) : (m.writeN a b).readN a b.length = b := by
  induction b generalizing m a with
  | nil => rfl
  | cons y b ih =>
    show (Mem.writeN (m.write a y) (a + 1) b).readN a (b.length + 1) = y :: b
    simp only [Mem.readN]
    rw [ih (m.write a y) (a + 1) (Mem.wf_write m a y h), Mem.read_writeN_other (m.write a y) (a + 1) a b (by omega), Mem.read_write_same m a y h]

/-- A read of bytes apart from those written is not changed. -/
theorem Mem.readN_writeN_other (m : Mem) (a x n : Nat) (b : Bytes) (h : x + n ≤ a ∨ a + b.length ≤ x) : (m.writeN a b).readN x n = m.readN x n :=
  Mem.readN_congr _ _ x n fun y h1 h2 => Mem.read_writeN_other m a y b (by omega)

end Sys2Proof.Machine
end

