-- ==== Sys2Proof/Laws/State.lean ====
section
/-!
SUPPORT. What the plain updates of the state leave alone: one lemma per field and update, each true by unfolding a record update.
-/
namespace Sys2Proof.Machine

/-! Updates of the whole state -/

@[simp] theorem State.onDev_pending (s : State) (f : Dev → Dev) : (s.onDev f).pending = s.pending := rfl
@[simp] theorem State.onDev_clk (s : State) (f : Dev → Dev) : (s.onDev f).clk = s.clk := rfl
@[simp] theorem State.onDev_tiles (s : State) (f : Dev → Dev) : (s.onDev f).tiles = s.tiles := rfl
@[simp] theorem State.onDev_fuses (s : State) (f : Dev → Dev) : (s.onDev f).fuses = s.fuses := rfl

@[simp] theorem State.onDev_dev (s : State) (f : Dev → Dev) : (s.onDev f).dev = f s.dev := rfl

@[simp] theorem State.disarm_pending (s : State) : (s.disarm).pending = s.pending := rfl
@[simp] theorem State.disarm_dev (s : State) : (s.disarm).dev = s.dev := rfl
@[simp] theorem State.disarm_clk (s : State) : (s.disarm).clk = s.clk := rfl
@[simp] theorem State.disarm_tiles (s : State) : (s.disarm).tiles = s.tiles := rfl

@[simp] theorem State.disarm_armedAt (s : State) : s.disarm.fuses.armedAt = none := rfl

@[simp] theorem State.setTile_pending (s : State) (n : Nat) (t : Tile) : (s.setTile n t).pending = s.pending := rfl
@[simp] theorem State.setTile_dev (s : State) (n : Nat) (t : Tile) : (s.setTile n t).dev = s.dev := rfl
@[simp] theorem State.setTile_clk (s : State) (n : Nat) (t : Tile) : (s.setTile n t).clk = s.clk := rfl
@[simp] theorem State.setTile_fuses (s : State) (n : Nat) (t : Tile) : (s.setTile n t).fuses = s.fuses := rfl

@[simp] theorem State.setTile_mesh (s : State) (n : Nat) (t : Tile) : (s.setTile n t).tiles.mesh = s.tiles.mesh := rfl

/-! Updates of the device -/

@[simp] theorem Dev.setMode_regs (s : Dev) (m : Mode) : (s.setMode m).regs = s.regs := rfl
@[simp] theorem Dev.setMode_hmem (s : Dev) (m : Mode) : (s.setMode m).hmem = s.hmem := rfl
@[simp] theorem Dev.setMode_dmem (s : Dev) (m : Mode) : (s.setMode m).dmem = s.dmem := rfl
@[simp] theorem Dev.setMode_host (s : Dev) (m : Mode) : (s.setMode m).host = s.host := rfl
@[simp] theorem Dev.setMode_media (s : Dev) (m : Mode) : (s.setMode m).media = s.media := rfl
@[simp] theorem Dev.setMode_units (s : Dev) (m : Mode) : (s.setMode m).units = s.units := rfl
@[simp] theorem Dev.setMode_inst (s : Dev) (m : Mode) : (s.setMode m).inst = s.inst := rfl
@[simp] theorem Dev.setMode_pair (s : Dev) (m : Mode) : (s.setMode m).pair = s.pair := rfl
@[simp] theorem Dev.setMode_chain (s : Dev) (m : Mode) : (s.setMode m).chain = s.chain := rfl

@[simp] theorem Dev.setReg_sys (s : Dev) (a : Nat) (v : Word) : (s.setReg a v).sys = s.sys := rfl
@[simp] theorem Dev.setReg_hmem (s : Dev) (a : Nat) (v : Word) : (s.setReg a v).hmem = s.hmem := rfl
@[simp] theorem Dev.setReg_dmem (s : Dev) (a : Nat) (v : Word) : (s.setReg a v).dmem = s.dmem := rfl
@[simp] theorem Dev.setReg_host (s : Dev) (a : Nat) (v : Word) : (s.setReg a v).host = s.host := rfl
@[simp] theorem Dev.setReg_media (s : Dev) (a : Nat) (v : Word) : (s.setReg a v).media = s.media := rfl
@[simp] theorem Dev.setReg_units (s : Dev) (a : Nat) (v : Word) : (s.setReg a v).units = s.units := rfl
@[simp] theorem Dev.setReg_inst (s : Dev) (a : Nat) (v : Word) : (s.setReg a v).inst = s.inst := rfl
@[simp] theorem Dev.setReg_pair (s : Dev) (a : Nat) (v : Word) : (s.setReg a v).pair = s.pair := rfl
@[simp] theorem Dev.setReg_chain (s : Dev) (a : Nat) (v : Word) : (s.setReg a v).chain = s.chain := rfl

@[simp] theorem Dev.setRegN_sys (s : Dev) (a v : Nat) : (s.setRegN a v).sys = s.sys := rfl
@[simp] theorem Dev.setRegN_hmem (s : Dev) (a v : Nat) : (s.setRegN a v).hmem = s.hmem := rfl
@[simp] theorem Dev.setRegN_dmem (s : Dev) (a v : Nat) : (s.setRegN a v).dmem = s.dmem := rfl
@[simp] theorem Dev.setRegN_host (s : Dev) (a v : Nat) : (s.setRegN a v).host = s.host := rfl
@[simp] theorem Dev.setRegN_media (s : Dev) (a v : Nat) : (s.setRegN a v).media = s.media := rfl
@[simp] theorem Dev.setRegN_units (s : Dev) (a v : Nat) : (s.setRegN a v).units = s.units := rfl
@[simp] theorem Dev.setRegN_inst (s : Dev) (a v : Nat) : (s.setRegN a v).inst = s.inst := rfl
@[simp] theorem Dev.setRegN_pair (s : Dev) (a v : Nat) : (s.setRegN a v).pair = s.pair := rfl
@[simp] theorem Dev.setRegN_chain (s : Dev) (a v : Nat) : (s.setRegN a v).chain = s.chain := rfl

@[simp] theorem Dev.setReg64_sys (s : Dev) (lo hi v : Nat) : (s.setReg64 lo hi v).sys = s.sys := rfl
@[simp] theorem Dev.setReg64_hmem (s : Dev) (lo hi v : Nat) : (s.setReg64 lo hi v).hmem = s.hmem := rfl
@[simp] theorem Dev.setReg64_dmem (s : Dev) (lo hi v : Nat) : (s.setReg64 lo hi v).dmem = s.dmem := rfl
@[simp] theorem Dev.setReg64_host (s : Dev) (lo hi v : Nat) : (s.setReg64 lo hi v).host = s.host := rfl
@[simp] theorem Dev.setReg64_media (s : Dev) (lo hi v : Nat) : (s.setReg64 lo hi v).media = s.media := rfl
@[simp] theorem Dev.setReg64_units (s : Dev) (lo hi v : Nat) : (s.setReg64 lo hi v).units = s.units := rfl
@[simp] theorem Dev.setReg64_inst (s : Dev) (lo hi v : Nat) : (s.setReg64 lo hi v).inst = s.inst := rfl
@[simp] theorem Dev.setReg64_pair (s : Dev) (lo hi v : Nat) : (s.setReg64 lo hi v).pair = s.pair := rfl
@[simp] theorem Dev.setReg64_chain (s : Dev) (lo hi v : Nat) : (s.setReg64 lo hi v).chain = s.chain := rfl

@[simp] theorem Dev.putHost_sys (s : Dev) (a : Nat) (b : Bytes) : (s.putHost a b).sys = s.sys := rfl
@[simp] theorem Dev.putHost_regs (s : Dev) (a : Nat) (b : Bytes) : (s.putHost a b).regs = s.regs := rfl
@[simp] theorem Dev.putHost_dmem (s : Dev) (a : Nat) (b : Bytes) : (s.putHost a b).dmem = s.dmem := rfl
@[simp] theorem Dev.putHost_host (s : Dev) (a : Nat) (b : Bytes) : (s.putHost a b).host = s.host := rfl
@[simp] theorem Dev.putHost_media (s : Dev) (a : Nat) (b : Bytes) : (s.putHost a b).media = s.media := rfl
@[simp] theorem Dev.putHost_units (s : Dev) (a : Nat) (b : Bytes) : (s.putHost a b).units = s.units := rfl
@[simp] theorem Dev.putHost_inst (s : Dev) (a : Nat) (b : Bytes) : (s.putHost a b).inst = s.inst := rfl
@[simp] theorem Dev.putHost_pair (s : Dev) (a : Nat) (b : Bytes) : (s.putHost a b).pair = s.pair := rfl
@[simp] theorem Dev.putHost_chain (s : Dev) (a : Nat) (b : Bytes) : (s.putHost a b).chain = s.chain := rfl

@[simp] theorem Dev.putDev_sys (s : Dev) (a : Nat) (b : Bytes) : (s.putDev a b).sys = s.sys := rfl
@[simp] theorem Dev.putDev_regs (s : Dev) (a : Nat) (b : Bytes) : (s.putDev a b).regs = s.regs := rfl
@[simp] theorem Dev.putDev_hmem (s : Dev) (a : Nat) (b : Bytes) : (s.putDev a b).hmem = s.hmem := rfl
@[simp] theorem Dev.putDev_host (s : Dev) (a : Nat) (b : Bytes) : (s.putDev a b).host = s.host := rfl
@[simp] theorem Dev.putDev_media (s : Dev) (a : Nat) (b : Bytes) : (s.putDev a b).media = s.media := rfl
@[simp] theorem Dev.putDev_units (s : Dev) (a : Nat) (b : Bytes) : (s.putDev a b).units = s.units := rfl
@[simp] theorem Dev.putDev_inst (s : Dev) (a : Nat) (b : Bytes) : (s.putDev a b).inst = s.inst := rfl
@[simp] theorem Dev.putDev_pair (s : Dev) (a : Nat) (b : Bytes) : (s.putDev a b).pair = s.pair := rfl
@[simp] theorem Dev.putDev_chain (s : Dev) (a : Nat) (b : Bytes) : (s.putDev a b).chain = s.chain := rfl

@[simp] theorem Dev.setFn_sys (s : Dev) (f : Nat) (x : Fn) : (s.setFn f x).sys = s.sys := rfl
@[simp] theorem Dev.setFn_regs (s : Dev) (f : Nat) (x : Fn) : (s.setFn f x).regs = s.regs := rfl
@[simp] theorem Dev.setFn_hmem (s : Dev) (f : Nat) (x : Fn) : (s.setFn f x).hmem = s.hmem := rfl
@[simp] theorem Dev.setFn_dmem (s : Dev) (f : Nat) (x : Fn) : (s.setFn f x).dmem = s.dmem := rfl
@[simp] theorem Dev.setFn_media (s : Dev) (f : Nat) (x : Fn) : (s.setFn f x).media = s.media := rfl
@[simp] theorem Dev.setFn_units (s : Dev) (f : Nat) (x : Fn) : (s.setFn f x).units = s.units := rfl
@[simp] theorem Dev.setFn_inst (s : Dev) (f : Nat) (x : Fn) : (s.setFn f x).inst = s.inst := rfl
@[simp] theorem Dev.setFn_pair (s : Dev) (f : Nat) (x : Fn) : (s.setFn f x).pair = s.pair := rfl
@[simp] theorem Dev.setFn_chain (s : Dev) (f : Nat) (x : Fn) : (s.setFn f x).chain = s.chain := rfl

@[simp] theorem Dev.output_sys (s : Dev) (o : Output) : (s.output o).sys = s.sys := rfl
@[simp] theorem Dev.output_regs (s : Dev) (o : Output) : (s.output o).regs = s.regs := rfl
@[simp] theorem Dev.output_hmem (s : Dev) (o : Output) : (s.output o).hmem = s.hmem := rfl
@[simp] theorem Dev.output_dmem (s : Dev) (o : Output) : (s.output o).dmem = s.dmem := rfl
@[simp] theorem Dev.output_media (s : Dev) (o : Output) : (s.output o).media = s.media := rfl
@[simp] theorem Dev.output_units (s : Dev) (o : Output) : (s.output o).units = s.units := rfl
@[simp] theorem Dev.output_inst (s : Dev) (o : Output) : (s.output o).inst = s.inst := rfl
@[simp] theorem Dev.output_pair (s : Dev) (o : Output) : (s.output o).pair = s.pair := rfl
@[simp] theorem Dev.output_chain (s : Dev) (o : Output) : (s.output o).chain = s.chain := rfl

@[simp] theorem Dev.setDring_sys (s : Dev) (f n : Nat) (r : DRing) : (s.setDring f n r).sys = s.sys := rfl
@[simp] theorem Dev.setDring_regs (s : Dev) (f n : Nat) (r : DRing) : (s.setDring f n r).regs = s.regs := rfl
@[simp] theorem Dev.setDring_hmem (s : Dev) (f n : Nat) (r : DRing) : (s.setDring f n r).hmem = s.hmem := rfl
@[simp] theorem Dev.setDring_dmem (s : Dev) (f n : Nat) (r : DRing) : (s.setDring f n r).dmem = s.dmem := rfl
@[simp] theorem Dev.setDring_media (s : Dev) (f n : Nat) (r : DRing) : (s.setDring f n r).media = s.media := rfl
@[simp] theorem Dev.setDring_units (s : Dev) (f n : Nat) (r : DRing) : (s.setDring f n r).units = s.units := rfl
@[simp] theorem Dev.setDring_inst (s : Dev) (f n : Nat) (r : DRing) : (s.setDring f n r).inst = s.inst := rfl
@[simp] theorem Dev.setDring_pair (s : Dev) (f n : Nat) (r : DRing) : (s.setDring f n r).pair = s.pair := rfl
@[simp] theorem Dev.setDring_chain (s : Dev) (f n : Nat) (r : DRing) : (s.setDring f n r).chain = s.chain := rfl

@[simp] theorem Dev.setCring_sys (s : Dev) (f n : Nat) (r : CRing) : (s.setCring f n r).sys = s.sys := rfl
@[simp] theorem Dev.setCring_regs (s : Dev) (f n : Nat) (r : CRing) : (s.setCring f n r).regs = s.regs := rfl
@[simp] theorem Dev.setCring_hmem (s : Dev) (f n : Nat) (r : CRing) : (s.setCring f n r).hmem = s.hmem := rfl
@[simp] theorem Dev.setCring_dmem (s : Dev) (f n : Nat) (r : CRing) : (s.setCring f n r).dmem = s.dmem := rfl
@[simp] theorem Dev.setCring_media (s : Dev) (f n : Nat) (r : CRing) : (s.setCring f n r).media = s.media := rfl
@[simp] theorem Dev.setCring_units (s : Dev) (f n : Nat) (r : CRing) : (s.setCring f n r).units = s.units := rfl
@[simp] theorem Dev.setCring_inst (s : Dev) (f n : Nat) (r : CRing) : (s.setCring f n r).inst = s.inst := rfl
@[simp] theorem Dev.setCring_pair (s : Dev) (f n : Nat) (r : CRing) : (s.setCring f n r).pair = s.pair := rfl
@[simp] theorem Dev.setCring_chain (s : Dev) (f n : Nat) (r : CRing) : (s.setCring f n r).chain = s.chain := rfl


@[simp] theorem Dev.setPba_sys (s : Dev) (f v : Nat) (b : Bool) : (s.setPba f v b).sys = s.sys := rfl
@[simp] theorem Dev.setPba_hmem (s : Dev) (f v : Nat) (b : Bool) : (s.setPba f v b).hmem = s.hmem := rfl
@[simp] theorem Dev.setPba_dmem (s : Dev) (f v : Nat) (b : Bool) : (s.setPba f v b).dmem = s.dmem := rfl
@[simp] theorem Dev.setPba_host (s : Dev) (f v : Nat) (b : Bool) : (s.setPba f v b).host = s.host := rfl
@[simp] theorem Dev.setPba_media (s : Dev) (f v : Nat) (b : Bool) : (s.setPba f v b).media = s.media := rfl
@[simp] theorem Dev.setPba_units (s : Dev) (f v : Nat) (b : Bool) : (s.setPba f v b).units = s.units := rfl
@[simp] theorem Dev.setPba_inst (s : Dev) (f v : Nat) (b : Bool) : (s.setPba f v b).inst = s.inst := rfl
@[simp] theorem Dev.setPba_pair (s : Dev) (f v : Nat) (b : Bool) : (s.setPba f v b).pair = s.pair := rfl
@[simp] theorem Dev.setPba_chain (s : Dev) (f v : Nat) (b : Bool) : (s.setPba f v b).chain = s.chain := rfl

@[simp] theorem Dev.uncover_sys (s : Dev) (p : Nat → Stream → Bool) : (s.uncover p).sys = s.sys := rfl
@[simp] theorem Dev.uncover_regs (s : Dev) (p : Nat → Stream → Bool) : (s.uncover p).regs = s.regs := rfl
@[simp] theorem Dev.uncover_hmem (s : Dev) (p : Nat → Stream → Bool) : (s.uncover p).hmem = s.hmem := rfl
@[simp] theorem Dev.uncover_dmem (s : Dev) (p : Nat → Stream → Bool) : (s.uncover p).dmem = s.dmem := rfl
@[simp] theorem Dev.uncover_host (s : Dev) (p : Nat → Stream → Bool) : (s.uncover p).host = s.host := rfl
@[simp] theorem Dev.uncover_units (s : Dev) (p : Nat → Stream → Bool) : (s.uncover p).units = s.units := rfl
@[simp] theorem Dev.uncover_inst (s : Dev) (p : Nat → Stream → Bool) : (s.uncover p).inst = s.inst := rfl
@[simp] theorem Dev.uncover_pair (s : Dev) (p : Nat → Stream → Bool) : (s.uncover p).pair = s.pair := rfl
@[simp] theorem Dev.uncover_chain (s : Dev) (p : Nat → Stream → Bool) : (s.uncover p).chain = s.chain := rfl

@[simp] theorem Dev.setPlain_sys (s : Dev) (p : Nat) (x : Plain) : (s.setPlain p x).sys = s.sys := rfl
@[simp] theorem Dev.setPlain_regs (s : Dev) (p : Nat) (x : Plain) : (s.setPlain p x).regs = s.regs := rfl
@[simp] theorem Dev.setPlain_hmem (s : Dev) (p : Nat) (x : Plain) : (s.setPlain p x).hmem = s.hmem := rfl
@[simp] theorem Dev.setPlain_dmem (s : Dev) (p : Nat) (x : Plain) : (s.setPlain p x).dmem = s.dmem := rfl
@[simp] theorem Dev.setPlain_host (s : Dev) (p : Nat) (x : Plain) : (s.setPlain p x).host = s.host := rfl
@[simp] theorem Dev.setPlain_media (s : Dev) (p : Nat) (x : Plain) : (s.setPlain p x).media = s.media := rfl
@[simp] theorem Dev.setPlain_inst (s : Dev) (p : Nat) (x : Plain) : (s.setPlain p x).inst = s.inst := rfl
@[simp] theorem Dev.setPlain_pair (s : Dev) (p : Nat) (x : Plain) : (s.setPlain p x).pair = s.pair := rfl
@[simp] theorem Dev.setPlain_chain (s : Dev) (p : Nat) (x : Plain) : (s.setPlain p x).chain = s.chain := rfl

@[simp] theorem Dev.soft_sys (s : Dev) (e : BitVec 64) : (s.soft e).sys = s.sys := rfl
@[simp] theorem Dev.soft_regs (s : Dev) (e : BitVec 64) : (s.soft e).regs = s.regs := rfl
@[simp] theorem Dev.soft_hmem (s : Dev) (e : BitVec 64) : (s.soft e).hmem = s.hmem := rfl
@[simp] theorem Dev.soft_dmem (s : Dev) (e : BitVec 64) : (s.soft e).dmem = s.dmem := rfl
@[simp] theorem Dev.soft_host (s : Dev) (e : BitVec 64) : (s.soft e).host = s.host := rfl
@[simp] theorem Dev.soft_media (s : Dev) (e : BitVec 64) : (s.soft e).media = s.media := rfl
@[simp] theorem Dev.soft_inst (s : Dev) (e : BitVec 64) : (s.soft e).inst = s.inst := rfl
@[simp] theorem Dev.soft_pair (s : Dev) (e : BitVec 64) : (s.soft e).pair = s.pair := rfl
@[simp] theorem Dev.soft_chain (s : Dev) (e : BitVec 64) : (s.soft e).chain = s.chain := rfl

@[simp] theorem Dev.holdEngine_sys (s : Dev) (i : Nat) (u : Option UnitRef) : (s.holdEngine i u).sys = s.sys := rfl
@[simp] theorem Dev.holdEngine_regs (s : Dev) (i : Nat) (u : Option UnitRef) : (s.holdEngine i u).regs = s.regs := rfl
@[simp] theorem Dev.holdEngine_hmem (s : Dev) (i : Nat) (u : Option UnitRef) : (s.holdEngine i u).hmem = s.hmem := rfl
@[simp] theorem Dev.holdEngine_dmem (s : Dev) (i : Nat) (u : Option UnitRef) : (s.holdEngine i u).dmem = s.dmem := rfl
@[simp] theorem Dev.holdEngine_host (s : Dev) (i : Nat) (u : Option UnitRef) : (s.holdEngine i u).host = s.host := rfl
@[simp] theorem Dev.holdEngine_media (s : Dev) (i : Nat) (u : Option UnitRef) : (s.holdEngine i u).media = s.media := rfl
@[simp] theorem Dev.holdEngine_inst (s : Dev) (i : Nat) (u : Option UnitRef) : (s.holdEngine i u).inst = s.inst := rfl
@[simp] theorem Dev.holdEngine_pair (s : Dev) (i : Nat) (u : Option UnitRef) : (s.holdEngine i u).pair = s.pair := rfl
@[simp] theorem Dev.holdEngine_chain (s : Dev) (i : Nat) (u : Option UnitRef) : (s.holdEngine i u).chain = s.chain := rfl

@[simp] theorem Dev.setLle_sys (s : Dev) (e : Nat) (x : Lle) : (s.setLle e x).sys = s.sys := rfl
@[simp] theorem Dev.setLle_regs (s : Dev) (e : Nat) (x : Lle) : (s.setLle e x).regs = s.regs := rfl
@[simp] theorem Dev.setLle_hmem (s : Dev) (e : Nat) (x : Lle) : (s.setLle e x).hmem = s.hmem := rfl
@[simp] theorem Dev.setLle_dmem (s : Dev) (e : Nat) (x : Lle) : (s.setLle e x).dmem = s.dmem := rfl
@[simp] theorem Dev.setLle_host (s : Dev) (e : Nat) (x : Lle) : (s.setLle e x).host = s.host := rfl
@[simp] theorem Dev.setLle_media (s : Dev) (e : Nat) (x : Lle) : (s.setLle e x).media = s.media := rfl
@[simp] theorem Dev.setLle_inst (s : Dev) (e : Nat) (x : Lle) : (s.setLle e x).inst = s.inst := rfl
@[simp] theorem Dev.setLle_pair (s : Dev) (e : Nat) (x : Lle) : (s.setLle e x).pair = s.pair := rfl
@[simp] theorem Dev.setLle_chain (s : Dev) (e : Nat) (x : Lle) : (s.setLle e x).chain = s.chain := rfl

@[simp] theorem Dev.bump_sys (s : Dev) (a n : Nat) : (s.bump a n).sys = s.sys := rfl
@[simp] theorem Dev.bump_hmem (s : Dev) (a n : Nat) : (s.bump a n).hmem = s.hmem := rfl
@[simp] theorem Dev.bump_dmem (s : Dev) (a n : Nat) : (s.bump a n).dmem = s.dmem := rfl
@[simp] theorem Dev.bump_host (s : Dev) (a n : Nat) : (s.bump a n).host = s.host := rfl
@[simp] theorem Dev.bump_media (s : Dev) (a n : Nat) : (s.bump a n).media = s.media := rfl
@[simp] theorem Dev.bump_units (s : Dev) (a n : Nat) : (s.bump a n).units = s.units := rfl
@[simp] theorem Dev.bump_inst (s : Dev) (a n : Nat) : (s.bump a n).inst = s.inst := rfl
@[simp] theorem Dev.bump_pair (s : Dev) (a n : Nat) : (s.bump a n).pair = s.pair := rfl
@[simp] theorem Dev.bump_chain (s : Dev) (a n : Nat) : (s.bump a n).chain = s.chain := rfl

@[simp] theorem Dev.setStream_sys (s : Dev) (n : Nat) (x : Stream) : (s.setStream n x).sys = s.sys := rfl
@[simp] theorem Dev.setStream_regs (s : Dev) (n : Nat) (x : Stream) : (s.setStream n x).regs = s.regs := rfl
@[simp] theorem Dev.setStream_hmem (s : Dev) (n : Nat) (x : Stream) : (s.setStream n x).hmem = s.hmem := rfl
@[simp] theorem Dev.setStream_dmem (s : Dev) (n : Nat) (x : Stream) : (s.setStream n x).dmem = s.dmem := rfl
@[simp] theorem Dev.setStream_host (s : Dev) (n : Nat) (x : Stream) : (s.setStream n x).host = s.host := rfl
@[simp] theorem Dev.setStream_units (s : Dev) (n : Nat) (x : Stream) : (s.setStream n x).units = s.units := rfl
@[simp] theorem Dev.setStream_inst (s : Dev) (n : Nat) (x : Stream) : (s.setStream n x).inst = s.inst := rfl
@[simp] theorem Dev.setStream_pair (s : Dev) (n : Nat) (x : Stream) : (s.setStream n x).pair = s.pair := rfl
@[simp] theorem Dev.setStream_chain (s : Dev) (n : Nat) (x : Stream) : (s.setStream n x).chain = s.chain := rfl

@[simp] theorem Dev.modSeat_sys (s : Dev) (n k : Nat) (f : Seat → Seat) : (s.modSeat n k f).sys = s.sys := rfl
@[simp] theorem Dev.modSeat_regs (s : Dev) (n k : Nat) (f : Seat → Seat) : (s.modSeat n k f).regs = s.regs := rfl
@[simp] theorem Dev.modSeat_hmem (s : Dev) (n k : Nat) (f : Seat → Seat) : (s.modSeat n k f).hmem = s.hmem := rfl
@[simp] theorem Dev.modSeat_dmem (s : Dev) (n k : Nat) (f : Seat → Seat) : (s.modSeat n k f).dmem = s.dmem := rfl
@[simp] theorem Dev.modSeat_host (s : Dev) (n k : Nat) (f : Seat → Seat) : (s.modSeat n k f).host = s.host := rfl
@[simp] theorem Dev.modSeat_units (s : Dev) (n k : Nat) (f : Seat → Seat) : (s.modSeat n k f).units = s.units := rfl
@[simp] theorem Dev.modSeat_inst (s : Dev) (n k : Nat) (f : Seat → Seat) : (s.modSeat n k f).inst = s.inst := rfl
@[simp] theorem Dev.modSeat_pair (s : Dev) (n k : Nat) (f : Seat → Seat) : (s.modSeat n k f).pair = s.pair := rfl
@[simp] theorem Dev.modSeat_chain (s : Dev) (n k : Nat) (f : Seat → Seat) : (s.modSeat n k f).chain = s.chain := rfl

@[simp] theorem Dev.setBuf_sys (s : Dev) (i : Nat) (b : Buf) : (s.setBuf i b).sys = s.sys := rfl
@[simp] theorem Dev.setBuf_regs (s : Dev) (i : Nat) (b : Buf) : (s.setBuf i b).regs = s.regs := rfl
@[simp] theorem Dev.setBuf_hmem (s : Dev) (i : Nat) (b : Buf) : (s.setBuf i b).hmem = s.hmem := rfl
@[simp] theorem Dev.setBuf_dmem (s : Dev) (i : Nat) (b : Buf) : (s.setBuf i b).dmem = s.dmem := rfl
@[simp] theorem Dev.setBuf_host (s : Dev) (i : Nat) (b : Buf) : (s.setBuf i b).host = s.host := rfl
@[simp] theorem Dev.setBuf_units (s : Dev) (i : Nat) (b : Buf) : (s.setBuf i b).units = s.units := rfl
@[simp] theorem Dev.setBuf_inst (s : Dev) (i : Nat) (b : Buf) : (s.setBuf i b).inst = s.inst := rfl
@[simp] theorem Dev.setBuf_pair (s : Dev) (i : Nat) (b : Buf) : (s.setBuf i b).pair = s.pair := rfl
@[simp] theorem Dev.setBuf_chain (s : Dev) (i : Nat) (b : Buf) : (s.setBuf i b).chain = s.chain := rfl

@[simp] theorem Dev.freeBuf_sys (s : Dev) (i : Nat) : (s.freeBuf i).sys = s.sys := rfl
@[simp] theorem Dev.freeBuf_regs (s : Dev) (i : Nat) : (s.freeBuf i).regs = s.regs := rfl
@[simp] theorem Dev.freeBuf_hmem (s : Dev) (i : Nat) : (s.freeBuf i).hmem = s.hmem := rfl
@[simp] theorem Dev.freeBuf_dmem (s : Dev) (i : Nat) : (s.freeBuf i).dmem = s.dmem := rfl
@[simp] theorem Dev.freeBuf_host (s : Dev) (i : Nat) : (s.freeBuf i).host = s.host := rfl
@[simp] theorem Dev.freeBuf_units (s : Dev) (i : Nat) : (s.freeBuf i).units = s.units := rfl
@[simp] theorem Dev.freeBuf_inst (s : Dev) (i : Nat) : (s.freeBuf i).inst = s.inst := rfl
@[simp] theorem Dev.freeBuf_pair (s : Dev) (i : Nat) : (s.freeBuf i).pair = s.pair := rfl
@[simp] theorem Dev.freeBuf_chain (s : Dev) (i : Nat) : (s.freeBuf i).chain = s.chain := rfl

@[simp] theorem Dev.setKey_sys (s : Dev) (f : KeySlot → KeySlot) : (s.setKey f).sys = s.sys := rfl
@[simp] theorem Dev.setKey_regs (s : Dev) (f : KeySlot → KeySlot) : (s.setKey f).regs = s.regs := rfl
@[simp] theorem Dev.setKey_hmem (s : Dev) (f : KeySlot → KeySlot) : (s.setKey f).hmem = s.hmem := rfl
@[simp] theorem Dev.setKey_dmem (s : Dev) (f : KeySlot → KeySlot) : (s.setKey f).dmem = s.dmem := rfl
@[simp] theorem Dev.setKey_host (s : Dev) (f : KeySlot → KeySlot) : (s.setKey f).host = s.host := rfl
@[simp] theorem Dev.setKey_units (s : Dev) (f : KeySlot → KeySlot) : (s.setKey f).units = s.units := rfl
@[simp] theorem Dev.setKey_inst (s : Dev) (f : KeySlot → KeySlot) : (s.setKey f).inst = s.inst := rfl
@[simp] theorem Dev.setKey_pair (s : Dev) (f : KeySlot → KeySlot) : (s.setKey f).pair = s.pair := rfl
@[simp] theorem Dev.setKey_chain (s : Dev) (f : KeySlot → KeySlot) : (s.setKey f).chain = s.chain := rfl

@[simp] theorem Dev.setInj_regs (s : Dev) (f : Inj → Inj) : (s.setInj f).regs = s.regs := rfl
@[simp] theorem Dev.setInj_hmem (s : Dev) (f : Inj → Inj) : (s.setInj f).hmem = s.hmem := rfl
@[simp] theorem Dev.setInj_dmem (s : Dev) (f : Inj → Inj) : (s.setInj f).dmem = s.dmem := rfl
@[simp] theorem Dev.setInj_host (s : Dev) (f : Inj → Inj) : (s.setInj f).host = s.host := rfl
@[simp] theorem Dev.setInj_media (s : Dev) (f : Inj → Inj) : (s.setInj f).media = s.media := rfl
@[simp] theorem Dev.setInj_units (s : Dev) (f : Inj → Inj) : (s.setInj f).units = s.units := rfl
@[simp] theorem Dev.setInj_inst (s : Dev) (f : Inj → Inj) : (s.setInj f).inst = s.inst := rfl
@[simp] theorem Dev.setInj_pair (s : Dev) (f : Inj → Inj) : (s.setInj f).pair = s.pair := rfl
@[simp] theorem Dev.setInj_chain (s : Dev) (f : Inj → Inj) : (s.setInj f).chain = s.chain := rfl

@[simp] theorem Dev.setSlot_sys (s : Dev) (k : Nat) (t : Slot) : (s.setSlot k t).sys = s.sys := rfl
@[simp] theorem Dev.setSlot_regs (s : Dev) (k : Nat) (t : Slot) : (s.setSlot k t).regs = s.regs := rfl
@[simp] theorem Dev.setSlot_hmem (s : Dev) (k : Nat) (t : Slot) : (s.setSlot k t).hmem = s.hmem := rfl
@[simp] theorem Dev.setSlot_dmem (s : Dev) (k : Nat) (t : Slot) : (s.setSlot k t).dmem = s.dmem := rfl
@[simp] theorem Dev.setSlot_host (s : Dev) (k : Nat) (t : Slot) : (s.setSlot k t).host = s.host := rfl
@[simp] theorem Dev.setSlot_media (s : Dev) (k : Nat) (t : Slot) : (s.setSlot k t).media = s.media := rfl
@[simp] theorem Dev.setSlot_units (s : Dev) (k : Nat) (t : Slot) : (s.setSlot k t).units = s.units := rfl
@[simp] theorem Dev.setSlot_inst (s : Dev) (k : Nat) (t : Slot) : (s.setSlot k t).inst = s.inst := rfl
@[simp] theorem Dev.setSlot_chain (s : Dev) (k : Nat) (t : Slot) : (s.setSlot k t).chain = s.chain := rfl

@[simp] theorem Dev.freeSlot_sys (s : Dev) (k : Nat) : (s.freeSlot k).sys = s.sys := rfl
@[simp] theorem Dev.freeSlot_regs (s : Dev) (k : Nat) : (s.freeSlot k).regs = s.regs := rfl
@[simp] theorem Dev.freeSlot_hmem (s : Dev) (k : Nat) : (s.freeSlot k).hmem = s.hmem := rfl
@[simp] theorem Dev.freeSlot_dmem (s : Dev) (k : Nat) : (s.freeSlot k).dmem = s.dmem := rfl
@[simp] theorem Dev.freeSlot_host (s : Dev) (k : Nat) : (s.freeSlot k).host = s.host := rfl
@[simp] theorem Dev.freeSlot_media (s : Dev) (k : Nat) : (s.freeSlot k).media = s.media := rfl
@[simp] theorem Dev.freeSlot_units (s : Dev) (k : Nat) : (s.freeSlot k).units = s.units := rfl
@[simp] theorem Dev.freeSlot_inst (s : Dev) (k : Nat) : (s.freeSlot k).inst = s.inst := rfl
@[simp] theorem Dev.freeSlot_chain (s : Dev) (k : Nat) : (s.freeSlot k).chain = s.chain := rfl

@[simp] theorem Dev.modLink_sys (s : Dev) (l : Nat) (f : PassLink → PassLink) : (s.modLink l f).sys = s.sys := rfl
@[simp] theorem Dev.modLink_regs (s : Dev) (l : Nat) (f : PassLink → PassLink) : (s.modLink l f).regs = s.regs := rfl
@[simp] theorem Dev.modLink_hmem (s : Dev) (l : Nat) (f : PassLink → PassLink) : (s.modLink l f).hmem = s.hmem := rfl
@[simp] theorem Dev.modLink_dmem (s : Dev) (l : Nat) (f : PassLink → PassLink) : (s.modLink l f).dmem = s.dmem := rfl
@[simp] theorem Dev.modLink_host (s : Dev) (l : Nat) (f : PassLink → PassLink) : (s.modLink l f).host = s.host := rfl
@[simp] theorem Dev.modLink_media (s : Dev) (l : Nat) (f : PassLink → PassLink) : (s.modLink l f).media = s.media := rfl
@[simp] theorem Dev.modLink_units (s : Dev) (l : Nat) (f : PassLink → PassLink) : (s.modLink l f).units = s.units := rfl
@[simp] theorem Dev.modLink_inst (s : Dev) (l : Nat) (f : PassLink → PassLink) : (s.modLink l f).inst = s.inst := rfl
@[simp] theorem Dev.modLink_chain (s : Dev) (l : Nat) (f : PassLink → PassLink) : (s.modLink l f).chain = s.chain := rfl

@[simp] theorem Dev.setChain_sys (s : Dev) (f : Chain → Chain) : (s.setChain f).sys = s.sys := rfl
@[simp] theorem Dev.setChain_regs (s : Dev) (f : Chain → Chain) : (s.setChain f).regs = s.regs := rfl
@[simp] theorem Dev.setChain_hmem (s : Dev) (f : Chain → Chain) : (s.setChain f).hmem = s.hmem := rfl
@[simp] theorem Dev.setChain_dmem (s : Dev) (f : Chain → Chain) : (s.setChain f).dmem = s.dmem := rfl
@[simp] theorem Dev.setChain_host (s : Dev) (f : Chain → Chain) : (s.setChain f).host = s.host := rfl
@[simp] theorem Dev.setChain_media (s : Dev) (f : Chain → Chain) : (s.setChain f).media = s.media := rfl
@[simp] theorem Dev.setChain_units (s : Dev) (f : Chain → Chain) : (s.setChain f).units = s.units := rfl
@[simp] theorem Dev.setChain_inst (s : Dev) (f : Chain → Chain) : (s.setChain f).inst = s.inst := rfl
@[simp] theorem Dev.setChain_pair (s : Dev) (f : Chain → Chain) : (s.setChain f).pair = s.pair := rfl

@[simp] theorem Dev.testState_sys (s : Dev) (st : Nat) : (s.testState st).sys = s.sys := rfl
@[simp] theorem Dev.testState_hmem (s : Dev) (st : Nat) : (s.testState st).hmem = s.hmem := rfl
@[simp] theorem Dev.testState_dmem (s : Dev) (st : Nat) : (s.testState st).dmem = s.dmem := rfl
@[simp] theorem Dev.testState_host (s : Dev) (st : Nat) : (s.testState st).host = s.host := rfl
@[simp] theorem Dev.testState_media (s : Dev) (st : Nat) : (s.testState st).media = s.media := rfl
@[simp] theorem Dev.testState_units (s : Dev) (st : Nat) : (s.testState st).units = s.units := rfl
@[simp] theorem Dev.testState_inst (s : Dev) (st : Nat) : (s.testState st).inst = s.inst := rfl
@[simp] theorem Dev.testState_pair (s : Dev) (st : Nat) : (s.testState st).pair = s.pair := rfl
@[simp] theorem Dev.testState_chain (s : Dev) (st : Nat) : (s.testState st).chain = s.chain := rfl

@[simp] theorem Dev.draw_regs (s : Dev) : s.draw.2.regs = s.regs := rfl
@[simp] theorem Dev.draw_hmem (s : Dev) : s.draw.2.hmem = s.hmem := rfl
@[simp] theorem Dev.draw_dmem (s : Dev) : s.draw.2.dmem = s.dmem := rfl
@[simp] theorem Dev.draw_host (s : Dev) : s.draw.2.host = s.host := rfl
@[simp] theorem Dev.draw_media (s : Dev) : s.draw.2.media = s.media := rfl
@[simp] theorem Dev.draw_units (s : Dev) : s.draw.2.units = s.units := rfl
@[simp] theorem Dev.draw_inst (s : Dev) : s.draw.2.inst = s.inst := rfl
@[simp] theorem Dev.draw_pair (s : Dev) : s.draw.2.pair = s.pair := rfl
@[simp] theorem Dev.draw_chain (s : Dev) : s.draw.2.chain = s.chain := rfl

@[simp] theorem Dev.output_outputs (s : Dev) (o : Output) : (s.output o).host.outputs = s.host.outputs ++ [o] := rfl
@[simp] theorem Dev.setFn_accepted (s : Dev) (f : Nat) (x : Fn) : (s.setFn f x).host.accepted = s.host.accepted := rfl
@[simp] theorem Dev.setMode_mode (s : Dev) (m : Mode) : (s.setMode m).sys.mode = m := rfl
@[simp] theorem Dev.draw_mode (s : Dev) : s.draw.2.sys.mode = s.sys.mode := rfl

end Sys2Proof.Machine
end

