-- ==== Sys2Proof/Laws/Ops.lean ====
section
/-!
SUPPORT. What each shared operation of the device leaves alone, and what the ones that answer with an option do where they answer.
-/
namespace Sys2Proof.Machine

@[simp] theorem Dev.count_sys (s : Dev) (e n : Nat) : (s.count e n).sys = s.sys := by
  unfold Dev.count; split <;> rfl
@[simp] theorem Dev.count_regs (s : Dev) (e n : Nat) : (s.count e n).regs = s.regs := by
  unfold Dev.count; split <;> rfl
@[simp] theorem Dev.count_hmem (s : Dev) (e n : Nat) : (s.count e n).hmem = s.hmem := by
  unfold Dev.count; split <;> rfl
@[simp] theorem Dev.count_dmem (s : Dev) (e n : Nat) : (s.count e n).dmem = s.dmem := by
  unfold Dev.count; split <;> rfl
@[simp] theorem Dev.count_host (s : Dev) (e n : Nat) : (s.count e n).host = s.host := by
  unfold Dev.count; split <;> rfl
@[simp] theorem Dev.count_media (s : Dev) (e n : Nat) : (s.count e n).media = s.media := by
  unfold Dev.count; split <;> rfl
@[simp] theorem Dev.count_units (s : Dev) (e n : Nat) : (s.count e n).units = s.units := by
  unfold Dev.count; split <;> rfl
@[simp] theorem Dev.count_pair (s : Dev) (e n : Nat) : (s.count e n).pair = s.pair := by
  unfold Dev.count; split <;> rfl
@[simp] theorem Dev.count_chain (s : Dev) (e n : Nat) : (s.count e n).chain = s.chain := by
  unfold Dev.count; split <;> rfl

@[simp] theorem Dev.trace_sys (s : Dev) (t domain source : Nat) (p : Option Nat) (payload : Bytes) : (s.trace t domain source p payload).sys = s.sys := by
  unfold Dev.trace; split <;> rfl
@[simp] theorem Dev.trace_regs (s : Dev) (t domain source : Nat) (p : Option Nat) (payload : Bytes) : (s.trace t domain source p payload).regs = s.regs := by
  unfold Dev.trace; split <;> rfl
@[simp] theorem Dev.trace_hmem (s : Dev) (t domain source : Nat) (p : Option Nat) (payload : Bytes) : (s.trace t domain source p payload).hmem = s.hmem := by
  unfold Dev.trace; split <;> rfl
@[simp] theorem Dev.trace_dmem (s : Dev) (t domain source : Nat) (p : Option Nat) (payload : Bytes) : (s.trace t domain source p payload).dmem = s.dmem := by
  unfold Dev.trace; split <;> rfl
@[simp] theorem Dev.trace_host (s : Dev) (t domain source : Nat) (p : Option Nat) (payload : Bytes) : (s.trace t domain source p payload).host = s.host := by
  unfold Dev.trace; split <;> rfl
@[simp] theorem Dev.trace_media (s : Dev) (t domain source : Nat) (p : Option Nat) (payload : Bytes) : (s.trace t domain source p payload).media = s.media := by
  unfold Dev.trace; split <;> rfl
@[simp] theorem Dev.trace_units (s : Dev) (t domain source : Nat) (p : Option Nat) (payload : Bytes) : (s.trace t domain source p payload).units = s.units := by
  unfold Dev.trace; split <;> rfl
@[simp] theorem Dev.trace_pair (s : Dev) (t domain source : Nat) (p : Option Nat) (payload : Bytes) : (s.trace t domain source p payload).pair = s.pair := by
  unfold Dev.trace; split <;> rfl
@[simp] theorem Dev.trace_chain (s : Dev) (t domain source : Nat) (p : Option Nat) (payload : Bytes) : (s.trace t domain source p payload).chain = s.chain := by
  unfold Dev.trace; split <;> rfl

@[simp] theorem Dev.msi_sys (s : Dev) (f v : Nat) : (s.msi f v).sys = s.sys := by
  simp [Dev.msi]
@[simp] theorem Dev.msi_regs (s : Dev) (f v : Nat) : (s.msi f v).regs = s.regs := by
  simp [Dev.msi]
@[simp] theorem Dev.msi_hmem (s : Dev) (f v : Nat) : (s.msi f v).hmem = s.hmem := by
  simp [Dev.msi]
@[simp] theorem Dev.msi_dmem (s : Dev) (f v : Nat) : (s.msi f v).dmem = s.dmem := by
  simp [Dev.msi]
@[simp] theorem Dev.msi_media (s : Dev) (f v : Nat) : (s.msi f v).media = s.media := by
  simp [Dev.msi]
@[simp] theorem Dev.msi_units (s : Dev) (f v : Nat) : (s.msi f v).units = s.units := by
  simp [Dev.msi]
@[simp] theorem Dev.msi_pair (s : Dev) (f v : Nat) : (s.msi f v).pair = s.pair := by
  simp [Dev.msi]
@[simp] theorem Dev.msi_chain (s : Dev) (f v : Nat) : (s.msi f v).chain = s.chain := by
  simp [Dev.msi]

@[simp] theorem Dev.trigger_sys (s : Dev) (f v : Nat) : (s.trigger f v).sys = s.sys := by
  unfold Dev.trigger; split; · rfl
  split <;> simp
@[simp] theorem Dev.trigger_hmem (s : Dev) (f v : Nat) : (s.trigger f v).hmem = s.hmem := by
  unfold Dev.trigger; split; · rfl
  split <;> simp
@[simp] theorem Dev.trigger_dmem (s : Dev) (f v : Nat) : (s.trigger f v).dmem = s.dmem := by
  unfold Dev.trigger; split; · rfl
  split <;> simp
@[simp] theorem Dev.trigger_media (s : Dev) (f v : Nat) : (s.trigger f v).media = s.media := by
  unfold Dev.trigger; split; · rfl
  split <;> simp
@[simp] theorem Dev.trigger_units (s : Dev) (f v : Nat) : (s.trigger f v).units = s.units := by
  unfold Dev.trigger; split; · rfl
  split <;> simp
@[simp] theorem Dev.trigger_pair (s : Dev) (f v : Nat) : (s.trigger f v).pair = s.pair := by
  unfold Dev.trigger; split; · rfl
  split <;> simp
@[simp] theorem Dev.trigger_chain (s : Dev) (f v : Nat) : (s.trigger f v).chain = s.chain := by
  unfold Dev.trigger; split; · rfl
  split <;> simp

@[simp] theorem Dev.freeze_hmem (s : Dev) (c : Nat) : (s.freeze c).hmem = s.hmem := by
  unfold Dev.freeze; split <;> rfl
@[simp] theorem Dev.freeze_dmem (s : Dev) (c : Nat) : (s.freeze c).dmem = s.dmem := by
  unfold Dev.freeze; split <;> rfl
@[simp] theorem Dev.freeze_media (s : Dev) (c : Nat) : (s.freeze c).media = s.media := by
  unfold Dev.freeze; split <;> rfl
@[simp] theorem Dev.freeze_units (s : Dev) (c : Nat) : (s.freeze c).units = s.units := by
  unfold Dev.freeze; split <;> rfl
@[simp] theorem Dev.freeze_inst (s : Dev) (c : Nat) : (s.freeze c).inst = s.inst := by
  unfold Dev.freeze; split <;> rfl
@[simp] theorem Dev.captureFirst_sys (s : Dev) (g b det : Nat) : (s.captureFirst g b det).sys = s.sys := by
  unfold Dev.captureFirst; split <;> rfl
@[simp] theorem Dev.captureFirst_hmem (s : Dev) (g b det : Nat) : (s.captureFirst g b det).hmem = s.hmem := by
  unfold Dev.captureFirst; split <;> rfl
@[simp] theorem Dev.captureFirst_dmem (s : Dev) (g b det : Nat) : (s.captureFirst g b det).dmem = s.dmem := by
  unfold Dev.captureFirst; split <;> rfl
@[simp] theorem Dev.captureFirst_host (s : Dev) (g b det : Nat) : (s.captureFirst g b det).host = s.host := by
  unfold Dev.captureFirst; split <;> rfl
@[simp] theorem Dev.captureFirst_media (s : Dev) (g b det : Nat) : (s.captureFirst g b det).media = s.media := by
  unfold Dev.captureFirst; split <;> rfl
@[simp] theorem Dev.captureFirst_units (s : Dev) (g b det : Nat) : (s.captureFirst g b det).units = s.units := by
  unfold Dev.captureFirst; split <;> rfl
@[simp] theorem Dev.captureFirst_inst (s : Dev) (g b det : Nat) : (s.captureFirst g b det).inst = s.inst := by
  unfold Dev.captureFirst; split <;> rfl
@[simp] theorem Dev.captureFirst_pair (s : Dev) (g b det : Nat) : (s.captureFirst g b det).pair = s.pair := by
  unfold Dev.captureFirst; split <;> rfl
@[simp] theorem Dev.captureFirst_chain (s : Dev) (g b det : Nat) : (s.captureFirst g b det).chain = s.chain := by
  unfold Dev.captureFirst; split <;> rfl

@[simp] theorem Dev.sticky_hmem (s : Dev) (g b det : Nat) : (s.sticky g b det).hmem = s.hmem := by
  unfold Dev.sticky; split; · rfl
  dsimp only; split <;> split <;> simp
@[simp] theorem Dev.sticky_dmem (s : Dev) (g b det : Nat) : (s.sticky g b det).dmem = s.dmem := by
  unfold Dev.sticky; split; · rfl
  dsimp only; split <;> split <;> simp
@[simp] theorem Dev.sticky_media (s : Dev) (g b det : Nat) : (s.sticky g b det).media = s.media := by
  unfold Dev.sticky; split; · rfl
  dsimp only; split <;> split <;> simp
@[simp] theorem Dev.sticky_units (s : Dev) (g b det : Nat) : (s.sticky g b det).units = s.units := by
  unfold Dev.sticky; split; · rfl
  dsimp only; split <;> split <;> simp
@[simp] theorem Dev.failStop_regs (s : Dev) : (s.failStop).regs = s.regs := by
  unfold Dev.failStop; split <;> rfl
@[simp] theorem Dev.failStop_hmem (s : Dev) : (s.failStop).hmem = s.hmem := by
  unfold Dev.failStop; split <;> rfl
@[simp] theorem Dev.failStop_dmem (s : Dev) : (s.failStop).dmem = s.dmem := by
  unfold Dev.failStop; split <;> rfl
@[simp] theorem Dev.failStop_media (s : Dev) : (s.failStop).media = s.media := by
  unfold Dev.failStop; split <;> rfl
@[simp] theorem Dev.failStop_units (s : Dev) : (s.failStop).units = s.units := by
  unfold Dev.failStop; split <;> rfl
@[simp] theorem Dev.failStop_inst (s : Dev) : (s.failStop).inst = s.inst := by
  unfold Dev.failStop; split <;> rfl
@[simp] theorem Dev.failStop_pair (s : Dev) : (s.failStop).pair = s.pair := by
  unfold Dev.failStop; split <;> rfl

@[simp] theorem Dev.rerr_sys (s : Dev) (f b ring : Nat) (cpl : Bool) : (s.rerr f b ring cpl).sys = s.sys := by
  unfold Dev.rerr; dsimp only; split <;> rfl
@[simp] theorem Dev.rerr_hmem (s : Dev) (f b ring : Nat) (cpl : Bool) : (s.rerr f b ring cpl).hmem = s.hmem := by
  unfold Dev.rerr; dsimp only; split <;> rfl
@[simp] theorem Dev.rerr_dmem (s : Dev) (f b ring : Nat) (cpl : Bool) : (s.rerr f b ring cpl).dmem = s.dmem := by
  unfold Dev.rerr; dsimp only; split <;> rfl
@[simp] theorem Dev.rerr_host (s : Dev) (f b ring : Nat) (cpl : Bool) : (s.rerr f b ring cpl).host = s.host := by
  unfold Dev.rerr; dsimp only; split <;> rfl
@[simp] theorem Dev.rerr_media (s : Dev) (f b ring : Nat) (cpl : Bool) : (s.rerr f b ring cpl).media = s.media := by
  unfold Dev.rerr; dsimp only; split <;> rfl
@[simp] theorem Dev.rerr_units (s : Dev) (f b ring : Nat) (cpl : Bool) : (s.rerr f b ring cpl).units = s.units := by
  unfold Dev.rerr; dsimp only; split <;> rfl
@[simp] theorem Dev.rerr_inst (s : Dev) (f b ring : Nat) (cpl : Bool) : (s.rerr f b ring cpl).inst = s.inst := by
  unfold Dev.rerr; dsimp only; split <;> rfl
@[simp] theorem Dev.rerr_pair (s : Dev) (f b ring : Nat) (cpl : Bool) : (s.rerr f b ring cpl).pair = s.pair := by
  unfold Dev.rerr; dsimp only; split <;> rfl
@[simp] theorem Dev.rerr_chain (s : Dev) (f b ring : Nat) (cpl : Bool) : (s.rerr f b ring cpl).chain = s.chain := by
  unfold Dev.rerr; dsimp only; split <;> rfl

@[simp] theorem Dev.ringFault_hmem (s : Dev) (f b ring : Nat) (cpl : Bool) : (s.ringFault f b ring cpl).hmem = s.hmem := by
  simp [Dev.ringFault]
@[simp] theorem Dev.ringFault_dmem (s : Dev) (f b ring : Nat) (cpl : Bool) : (s.ringFault f b ring cpl).dmem = s.dmem := by
  simp [Dev.ringFault]
@[simp] theorem Dev.ringFault_media (s : Dev) (f b ring : Nat) (cpl : Bool) : (s.ringFault f b ring cpl).media = s.media := by
  simp [Dev.ringFault]
@[simp] theorem Dev.ringFault_units (s : Dev) (f b ring : Nat) (cpl : Bool) : (s.ringFault f b ring cpl).units = s.units := by
  simp [Dev.ringFault]
@[simp] theorem Dev.dataFault_hmem (s : Dev) (f ring : Nat) : (s.dataFault f ring).hmem = s.hmem := by
  simp [Dev.dataFault]
@[simp] theorem Dev.dataFault_dmem (s : Dev) (f ring : Nat) : (s.dataFault f ring).dmem = s.dmem := by
  simp [Dev.dataFault]
@[simp] theorem Dev.dataFault_media (s : Dev) (f ring : Nat) : (s.dataFault f ring).media = s.media := by
  simp [Dev.dataFault]
@[simp] theorem Dev.dataFault_units (s : Dev) (f ring : Nat) : (s.dataFault f ring).units = s.units := by
  simp [Dev.dataFault]
@[simp] theorem Dev.fuseErr_hmem (s : Dev) : (s.fuseErr).hmem = s.hmem := by
  simp [Dev.fuseErr]
@[simp] theorem Dev.fuseErr_dmem (s : Dev) : (s.fuseErr).dmem = s.dmem := by
  simp [Dev.fuseErr]
@[simp] theorem Dev.fuseErr_media (s : Dev) : (s.fuseErr).media = s.media := by
  simp [Dev.fuseErr]
@[simp] theorem Dev.fuseErr_units (s : Dev) : (s.fuseErr).units = s.units := by
  simp [Dev.fuseErr]
/-- Where a write to host memory answers, it is the bytes stored and counted. -/
theorem Dev.hostWrite_eq {s t : Dev} {a : Nat} {b : Bytes} (h : s.hostWrite a b = some t) : t = (s.putHost a b).count (ev 11 1) b.length := by
  unfold Dev.hostWrite at h
  split at h
  · cases h
  · exact (Option.some.inj h).symm

/-- A write to host memory does not fail where no address fails. -/
theorem Dev.hostWrite_some (s : Dev) (a : Nat) (b : Bytes) (h : s.sys.hostFaults = []) :
    s.hostWrite a b = some ((s.putHost a b).count (ev 11 1) b.length) := by
  simp [Dev.hostWrite, Dev.hostFails, h]

/-- A read of host memory does not fail where no address fails. -/
theorem Dev.hostRead_some (s : Dev) (a n : Nat) (h : s.sys.hostFaults = []) : s.hostRead a n = some (s.hmem.readN a n) := by
  simp [Dev.hostRead, Dev.hostFails, h]

@[simp] theorem Dev.writeAcc_dmem (s : Dev) (f n : Nat) : (s.writeAcc f n).dmem = s.dmem := by
  unfold Dev.writeAcc; dsimp only; split
  · simp
  · split
    · rename_i h; have := Dev.hostWrite_eq h; subst this; simp
    · simp
@[simp] theorem Dev.writeAcc_media (s : Dev) (f n : Nat) : (s.writeAcc f n).media = s.media := by
  unfold Dev.writeAcc; dsimp only; split
  · simp
  · split
    · rename_i h; have := Dev.hostWrite_eq h; subst this; simp
    · simp
@[simp] theorem Dev.writeAcc_units (s : Dev) (f n : Nat) : (s.writeAcc f n).units = s.units := by
  unfold Dev.writeAcc; dsimp only; split
  · simp
  · split
    · rename_i h; have := Dev.hostWrite_eq h; subst this; simp
    · simp
@[simp] theorem Dev.cplIrq_sys (s : Dev) (f c : Nat) (now : Bool) : (s.cplIrq f c now).sys = s.sys := by
  unfold Dev.cplIrq; dsimp only; split; · rfl
  split <;> simp
@[simp] theorem Dev.cplIrq_hmem (s : Dev) (f c : Nat) (now : Bool) : (s.cplIrq f c now).hmem = s.hmem := by
  unfold Dev.cplIrq; dsimp only; split; · rfl
  split <;> simp
@[simp] theorem Dev.cplIrq_dmem (s : Dev) (f c : Nat) (now : Bool) : (s.cplIrq f c now).dmem = s.dmem := by
  unfold Dev.cplIrq; dsimp only; split; · rfl
  split <;> simp
@[simp] theorem Dev.cplIrq_media (s : Dev) (f c : Nat) (now : Bool) : (s.cplIrq f c now).media = s.media := by
  unfold Dev.cplIrq; dsimp only; split; · rfl
  split <;> simp
@[simp] theorem Dev.cplIrq_units (s : Dev) (f c : Nat) (now : Bool) : (s.cplIrq f c now).units = s.units := by
  unfold Dev.cplIrq; dsimp only; split; · rfl
  split <;> simp
@[simp] theorem Dev.cplIrq_pair (s : Dev) (f c : Nat) (now : Bool) : (s.cplIrq f c now).pair = s.pair := by
  unfold Dev.cplIrq; dsimp only; split; · rfl
  split <;> simp
@[simp] theorem Dev.cplIrq_chain (s : Dev) (f c : Nat) (now : Bool) : (s.cplIrq f c now).chain = s.chain := by
  unfold Dev.cplIrq; dsimp only; split; · rfl
  split <;> simp

/-- What every write to host memory leaves alone. -/
theorem Dev.hostWrite_frame {s t : Dev} {a : Nat} {b : Bytes} (h : s.hostWrite a b = some t) :
    t.dmem = s.dmem ∧ t.media = s.media ∧ t.units = s.units ∧ t.pair = s.pair ∧ t.chain = s.chain ∧ t.sys = s.sys ∧ t.regs = s.regs ∧
      t.host = s.host := by
  rw [Dev.hostWrite_eq h]; simp

/-! Completions -/

/-- Device memory, the media state and the shared units are those of another state. -/
abbrev Dev.SameWork (t s : Dev) : Prop := t.dmem = s.dmem ∧ t.media = s.media ∧ t.units = s.units

theorem Dev.SameWork.trans {a b c : Dev} (h : a.SameWork b) (k : b.SameWork c) : a.SameWork c :=
  ⟨h.1.trans k.1, h.2.1.trans k.2.1, h.2.2.trans k.2.2⟩

theorem Dev.hostWrite_work {s t : Dev} {a : Nat} {b : Bytes} (h : s.hostWrite a b = some t) : t.SameWork s :=
  let f := Dev.hostWrite_frame h
  ⟨f.1, f.2.1, f.2.2.1⟩

theorem Dev.writeHallmark_work {s t : Dev} {r : CRing} {h : Cpl} (e : s.writeHallmark r h = some t) : t.SameWork s := by
  unfold Dev.writeHallmark at e
  split at e
  · exact Dev.hostWrite_work e
  · cases e; exact ⟨rfl, rfl, rfl⟩

theorem Dev.writeEntry_work (s : Dev) (r : CRing) (h : Cpl) : (s.writeEntry r h).1.SameWork s := by
  unfold Dev.writeEntry
  split
  · exact ⟨rfl, rfl, rfl⟩
  · split
    · exact ⟨rfl, rfl, rfl⟩
    · rename_i ht
      split
      · rename_i hu; exact (Dev.hostWrite_work hu).trans (Dev.writeHallmark_work ht)
      · exact Dev.writeHallmark_work ht

theorem Dev.publish_work (s : Dev) (f c : Nat) (r : CRing) (h : Cpl) (rest : List Cpl) : (s.publish f c r h rest).1.SameWork s := by
  unfold Dev.publish; dsimp only
  split
  · simp [Dev.SameWork]
  · rename_i hx; simpa [Dev.SameWork] using Dev.hostWrite_work hx

/-- Writing a completion leaves the device's work alone. -/
theorem Dev.writeHead_work (s : Dev) (f c : Nat) (h : Cpl) (rest : List Cpl) : (s.writeHead f c h rest).1.SameWork s := by
  have w := s.writeEntry_work (s.cring f c) h
  unfold Dev.writeHead
  split <;> rename_i hx <;> rw [hx] at w
  · exact (Dev.publish_work _ _ _ _ _ _).trans w
  · simpa [Dev.SameWork] using w

theorem Dev.flushRing_work (f c n : Nat) (s : Dev) : (Dev.flushRing f c n s).SameWork s := by
  induction n generalizing s with
  | zero => exact ⟨rfl, rfl, rfl⟩
  | succ n ih =>
    unfold Dev.flushRing; dsimp only
    split
    · exact ⟨rfl, rfl, rfl⟩
    · split
      · split
        · rename_i hx
          exact (ih _).trans (by simpa [Dev.SameWork] using Dev.hostWrite_work hx)
        · simp [Dev.SameWork]
      · split
        · exact ⟨rfl, rfl, rfl⟩
        · rename_i h rest _
          have w := s.writeHead_work f c h rest
          split
          · rename_i hx; rw [hx] at w; exact (ih _).trans w
          · rename_i hx; rw [hx] at w; exact w

theorem Dev.conclude_work (s : Dev) (a : Acc) (st r fl : Nat) (hm : Option Bytes) : (s.conclude a st r fl hm).SameWork s := by
  have w := Dev.flushRing_work a.func a.cq
  simp only [Dev.conclude, Dev.flush, Dev.SameWork, Dev.count_dmem, Dev.count_media, Dev.count_units]
  exact (w _ _).trans ⟨rfl, rfl, rfl⟩

theorem Dev.settle_work (n : Nat) (s : Dev) : (Dev.settle n s).SameWork s := by
  induction n generalizing s with
  | zero => exact ⟨rfl, rfl, rfl⟩
  | succ n ih =>
    unfold Dev.settle
    split
    · exact (ih _).trans (Dev.conclude_work _ _ _ _ _ _)
    · exact ⟨rfl, rfl, rfl⟩

/-- Completing a descriptor leaves the device's work alone. -/
theorem Dev.complete_work (s : Dev) (a : Acc) (st r fl : Nat) (hm : Option Bytes) : (s.complete a st r fl hm).SameWork s :=
  (Dev.settle_work _ _).trans (s.conclude_work a st r fl hm)

/-- So does a change of its stage. -/
theorem Dev.setStage_work (s : Dev) (q : Nat) (st : Stage) : (s.setStage q st).SameWork s := (Dev.settle_work _ _).trans ⟨rfl, rfl, rfl⟩

@[simp] theorem Dev.complete_dmem (s : Dev) (a : Acc) (st r fl : Nat) (hm : Option Bytes) : (s.complete a st r fl hm).dmem = s.dmem :=
  (s.complete_work a st r fl hm).1
@[simp] theorem Dev.complete_media (s : Dev) (a : Acc) (st r fl : Nat) (hm : Option Bytes) : (s.complete a st r fl hm).media = s.media :=
  (s.complete_work a st r fl hm).2.1
@[simp] theorem Dev.complete_units (s : Dev) (a : Acc) (st r fl : Nat) (hm : Option Bytes) : (s.complete a st r fl hm).units = s.units :=
  (s.complete_work a st r fl hm).2.2
@[simp] theorem Dev.setStage_dmem (s : Dev) (q : Nat) (st : Stage) : (s.setStage q st).dmem = s.dmem := (s.setStage_work q st).1
@[simp] theorem Dev.setStage_media (s : Dev) (q : Nat) (st : Stage) : (s.setStage q st).media = s.media := (s.setStage_work q st).2.1
@[simp] theorem Dev.setStage_units (s : Dev) (q : Nat) (st : Stage) : (s.setStage q st).units = s.units := (s.setStage_work q st).2.2

end Sys2Proof.Machine
end

