-- ==== Sys2Proof/Tests/Slice0.lean ====
section
/-!
SUPPORT. Tests: terms that are not well formed, a state and operands that meet the hypotheses of each statement, and single steps on small
states. The file's words and values come from the rules cited.
-/
namespace Sys2Proof.Tests
open Sys2Proof Sys2Proof.Machine
set_option Elab.async false

/-! Small states -/

/-- The ready device after reset, changed by f. -/
def readyWith (f : Dev → Dev) : State := State.reset.onDev fun d => f (d.setMode .ready)

/-- A descriptor of ring 0 of the physical function with byte fields (offset, value) (R293). -/
def descWith (fs : List (Nat × Nat)) : Desc := ⟨0, 0, 0, BitVec.ofNat 512 (fs.foldl (fun a e => a + e.2 * 2 ^ (8 * e.1)) 0)⟩

/-- That descriptor as accepted, and waiting. -/
def accWith (fs : List (Nat × Nat)) : Acc :=
  { seq := 7, time := 0, func := 0, ring := 0, cq := 0, index := 0, raw := descBytes (descWith fs).raw, stage := .waiting, injected := false }

/-- The ready device, changed by f, with that descriptor accepted. -/
def descState (fs : List (Nat × Nat)) (f : Dev → Dev) : State :=
  readyWith fun d => f { d with host := { d.host with accepted := [accWith fs] } }

/-- A parameter block of n bytes with byte fields. -/
def blockOf (n : Nat) (fs : List (Nat × Nat)) : Bytes := leBytes n (fs.foldl (fun a e => a + e.2 * 2 ^ (8 * e.1)) 0)

/-- A package with a manifest for a medium and entries without records: exact decode kinds in PROG_X, others in the manifest. -/
def bareEntry (kind : Nat) : Bytes := leBytes 8 (kind + 256) ++ leBytes 56 0
def barePkg (media : Nat) (encKinds : List Nat) (decKind : Nat) : Pkg :=
  { Pkg.empty with
    sections := [(1, leBytes 4 1 ++ leBytes 1 media ++ leBytes 1 (if media = 0 then 0 else 255) ++ leBytes 1 3 ++ leBytes 1 1 ++ leBytes 12 0 ++
      leBytes 4 encKinds.length ++ leBytes 40 0 ++ encKinds.flatMap bareEntry),
      (2, leBytes 4 0 ++ leBytes 4 128 ++ leBytes 12 0 ++ leBytes 1 (if decKind = 0 then 0 else 1) ++ leBytes 43 0 ++ bareEntry decKind)] }

/-- An open stream of contract 0, seat 0. -/
def bareStream (medium : Nat) (enc : Bool) (param : Bytes) : Stream := Stream.fresh 0 0 0 0 medium enc param 0 Pkg.empty
def seatOf (n : Option Nat) : Seat :=
  { tiles := [0], plains := [0], stream := n, lost := false, bookings := [], offset := 0, tokens := 0, tokenAt := 0, redos := 0, redoMark := 0
    uncovered := false, moving := false, departed := none, link := false }
def contractOf (cpb : Bytes) (t : Seat) : Contract := { func := 0, cpb := cpb, pkg := 0, k := 1, rTrain := 0, bound := 0, seats := [t] }
/-- The device with contract 0, its seat, and stream 0. -/
def withStream (x : Stream) (cpb : Bytes) (d : Dev) : Dev :=
  { d with media := { d.media with contracts := [(0, contractOf cpb (seatOf (some 0)))], streams := [(0, x)] } }

/-! Well-formedness: one term for each check -/

theorem illFormed_descriptors :
    ([.nop (descWith [(0, 2)]), .fence (descWith [(0, 1)]), .modelLoad (descWith [(0, 0x11)]), .modelUnload (descWith [(0, 0x10)]),
      .contractOpen (descWith [(0, 0x21)]), .contractClose (descWith [(0, 0x20)]), .streamOpen (descWith [(0, 0x31)]),
      .streamClose (descWith [(0, 0x30)]), .encPicture (descWith [(0, 0x41)]), .decUnits (descWith [(0, 0x40)]),
      .audEnc (descWith [(0, 0x51)]), .audDec (descWith [(0, 0x50)]), .fldEnc (descWith [(0, 0x61)]), .fldDec (descWith [(0, 0x60)]),
      .llComp (descWith [(0, 0x71)]), .llDecomp (descWith [(0, 0x70)]), .copy2d (descWith [(0, 0x79)])] : List Instr).all (fun c => !c.wf) = true := by
  decide +kernel
theorem illFormed_operations :
    ([.poolMarkAlloc (descWith [(0, 0x48), (16, 2)]), .poolMarkTake (descWith [(0, 0x48), (16, 1)]), .poolMarkRelease (descWith [(0, 0x48), (16, 4)]),
      .poolMarkDiscard (descWith [(0, 0x48), (16, 3)]), .attach (descWith [(0, 0x80), (16, 2)]), .detach (descWith [(0, 0x80), (16, 1)]),
      .watch (descWith [(0, 0x80), (16, 4)]), .switch (descWith [(0, 0x80), (16, 3)]), .takeover (descWith [(0, 0x48), (16, 5)])] : List Instr).all
      (fun c => !c.wf) = true := by
  decide +kernel
theorem illFormed_others :
    ([.pmcValCapture 3, .glbTimeCapture 0, .registerWrite 0 .bar0 2 4 0, .registerWrite 0 .bar0 0 3 0, .plainLimit 3 4, .plainLimitEnd 0 2,
      .powerCapStep 0 [1], .functionLevelReset 1 true, .linkRetrain 3 16, .linkRetrain 64 3, .survey ⟨[0, 0, 2, 0, 0, 0, 0, 0]⟩,
      .assign ⟨[0, 0, 1, 0, 0, 0, 0, 0]⟩, .join ⟨[0, 0, 3, 1, 0, 0, 0, 0]⟩, .status ⟨[0, 0, 0x11, 0, 0, 0, 0, 0]⟩, .statusReq ⟨[]⟩,
      .attachMatch ⟨0, true, false, 0, 0, 0, [], [], []⟩] : List Instr).all (fun c => !c.wf) = true := by
  decide +kernel
theorem wellFormed_terms :
    ([.nop (descWith [(0, 1)]), .poolMarkAlloc (descWith [(0, 0x48), (16, 1)]), .takeover (descWith [(0, 0x80), (16, 5)]), .pmcValCapture 8,
      .registerWrite 0 .bar0 6 2 0, .plainLimit 3 7, .plainLimitEnd 4 5, .powerCapStep 0 [1, 2, 3, 4, 5, 6, 7, 8], .functionLevelReset 0 true,
      .linkRetrain 64 16, .linkRetrain 0 0, .survey ⟨[0, 0, 1, 0, 0, 0, 0, 0]⟩, .coldPower] : List Instr).all (fun c => c.wf) = true := by
  decide +kernel

/-! Hypotheses met: invariants and shared operations -/

theorem met_IdleStepIsOneTick : State.reset.pending = [] ∧ (readyWith id).pending = [] := by decide +kernel
theorem met_BurntRecordsNeverChange :
    let s : State := { readyWith id with fuses := { Fuses.blank with records := (List.replicate 64 0).set 63 1, burning := some (0, 5) }
                                         pending := [.fusBurnDone .ok] }
    s.fuses.wf = true ∧ (∃ t : State, step s = .next t) ∧ listGet s.fuses.records 63 0 ≠ 0 := by
  exact ⟨by decide +kernel, ⟨_, rfl⟩, by decide +kernel⟩
theorem met_CapDividersStayFrom4To6 :
    let s : State := { readyWith id with pending := [.powerCapStep 651 [0, 0, 0, 0, 0, 0, 0, 9]] }
    s.clk.wf = true ∧ ∃ t : State, step s = .next t := ⟨by decide +kernel, ⟨_, rfl⟩⟩
theorem met_MemoriesKeepTheirForm :
    let s : State := { readyWith fun d => { d with hmem := [(0, 1), (2 ^ 64 - 1, 255)], dmem := [(5, 7)] } with pending := [.coldPower] }
    s.dev.hmem.wf = true ∧ s.dev.dmem.wf = true ∧ ∃ t : State, step s = .next t := ⟨by decide +kernel, by decide +kernel, ⟨_, rfl⟩⟩
theorem met_BytesAreStoredLowestFirst :
    (∃ t : Dev, Dev.reset.hostWrite (2 ^ 64 - 2) [1, 2] = some t) ∧ Dev.reset.hmem.wf = true := ⟨⟨_, rfl⟩, by decide +kernel⟩
theorem met_CompletionIsWrittenInOrder : Dev.reset.sys.hostFaults = [] ∧ (Dev.reset.cring 63 63).wrHeld = false := by decide +kernel
theorem met_D3hotHoldsCompletions :
    let s := ({ Dev.reset with host := { HostIf.reset with fns := [(0, { Fn.reset with d3 := true })] } } : Dev)
    ∃ x : Fn, s.host.fns.find (accWith [(0, 1)]).func = some x ∧ x.d3 = true := ⟨{ Fn.reset with d3 := true }, by decide +kernel⟩
theorem met_StickyBitAndFirstErrorCapture :
    Dev.reset.sys.mode ≠ .frozen ∧ Dev.reset.stickyClear = true ∧ (Dev.reset.setRegN ERR 1).stickyClear = false ∧ 3 < 4 ∧ 31 < 32 := by
  decide +kernel
theorem met_CountersStopAtTheirEnd :
    unseen (ev 0 0) = false ∧ ({ Inst.reset with cnt := [(0, 2 ^ 48 - 1)] } : Inst).cnt.get 0 0 + 0 ≤ 2 ^ 48 - 1 ∧
      2 ^ 48 - 1 < ({ Inst.reset with cnt := [(0, 2 ^ 48 - 1)] } : Inst).cnt.get 0 0 + 1 ∧
      ({ Inst.reset with cnt := [(0, 2 ^ 48)] } : Inst).cnt.get 0 0 ≤ 2 ^ 48 := by decide +kernel
theorem met_TriggersAreSentOrKept :
    let s : Dev := ({ Dev.reset with host := { HostIf.reset with fns := [(63, { Fn.reset with msixEn := true })] } } : Dev).setMode .ready
    (s.setRegN (MSI 63 + 16 * 31 + 12) 0).sys.mode = .ready ∧ (s.setRegN (MSI 63 + 16 * 31 + 12) 0).canSend 63 31 = true ∧ s.sys.mode = .ready ∧
      s.canSend 0 31 = false := by decide +kernel

/-! Hypotheses met: descriptors -/

theorem met_NopAndFenceComplete :
    (let s := descState [(0, 1)] id; s.dev.Runs (descWith [(0, 1)]) 0x01 (accWith [(0, 1)])) ∧
    (let s := descState [(0, 2), (16, 1)] id
     s.dev.Runs (descWith [(0, 2), (16, 1)]) 0x02 (accWith [(0, 2), (16, 1)]) ∧ fenceScope (accWith [(0, 2), (16, 1)]).raw = some 1) := by
  decide +kernel
theorem met_BadDescriptorsAreRejected :
    let s := descState [(0, 1), (3, 1)] id
    plainDesc (.nop (descWith [(0, 1), (3, 1)])) = some (descWith [(0, 1), (3, 1)], 1) ∧
      s.dev.Fails (descWith [(0, 1), (3, 1)]) 0x01 (accWith [(0, 1), (3, 1)]) := by decide +kernel
def loadArgs : List (Nat × Nat) := [(0, 0x10), (16, 2 ^ 64 - 64), (24, 64)]
theorem met_ModelLoadCompletes :
    let s := descState loadArgs id
    let a := accWith loadArgs
    s.dev.Runs (descWith loadArgs) 0x10 a ∧ 64 ≤ u64At a.raw 24 ∧ u64At a.raw 24 ≤ 2 ^ 32 ∧
      s.dev.addrOk a.func (bitAt (spacesOf a.raw) 0) (u64At a.raw 16) (u64At a.raw 24) = true ∧
      s.dev.readSpace (bitAt (spacesOf a.raw) 0) (u64At a.raw 16) (u64At a.raw 24) = some (List.replicate 64 0) ∧
      needsEngine (List.replicate 64 0) [] false = false := by decide +kernel
/-- A package file of the five sections that every package has, empty, the first compressed (R132 to R134). -/
def fileOf : Bytes :=
  blockOf 384 ([(0, 0x4B505248), (4, 1), (6, 5), (8, 384), (66, 1)] ++
    ([1, 2, 4, 6, 11] : List Nat).zipIdx.flatMap fun e => [(64 + 64 * e.2, e.1), (72 + 64 * e.2, 384)])
def loadFileArgs : List (Nat × Nat) := [(0, 0x10), (16, 4096), (24, 384)]
theorem met_ModelLoadCompletes_engine :
    let s := descState loadFileArgs fun d => { d with hmem := Mem.writeN [] 4096 fileOf }
    let a := accWith loadFileArgs
    s.dev.Runs (descWith loadFileArgs) 0x10 a ∧ s.dev.addrOk a.func (bitAt (spacesOf a.raw) 0) (u64At a.raw 16) (u64At a.raw 24) = true ∧
      s.dev.readSpace (bitAt (spacesOf a.raw) 0) (u64At a.raw 16) (u64At a.raw 24) = some fileOf ∧
      needsEngine fileOf (s.dev.keysFor a.seq).1 (s.dev.keysFor a.seq).2 = true ∧ s.dev.engineFor a = true := by decide +kernel
def withHandle (d : Dev) : Dev :=
  { d with host := { d.host with fns := [(0, { Fn.reset with handles := [(1, { pkg := 0, count := 1, since := 0 })] })] }
           media := { d.media with pkgs := [(0, Pkg.empty)] } }
theorem met_ModelUnloadFollowsItsRule :
    (let s := descState [(0, 0x11), (4, 1)] id
     s.dev.Runs (descWith [(0, 0x11), (4, 1)]) 0x11 (accWith [(0, 0x11), (4, 1)]) ∧
       (s.dev.fn 0).handleAt 7 (handleOf (accWith [(0, 0x11), (4, 1)]).raw) = none) ∧
    (let s := descState [(0, 0x11), (4, 1)] withHandle
     s.dev.Runs (descWith [(0, 0x11), (4, 1)]) 0x11 (accWith [(0, 0x11), (4, 1)]) ∧
       (s.dev.fn 0).handleAt 7 (handleOf (accWith [(0, 0x11), (4, 1)]).raw) = some { pkg := 0, count := 1, since := 0 }) := by decide +kernel
def openArgs : List (Nat × Nat) := [(0, 0x20), (16, 2 ^ 64 - 128)]
theorem met_ContractCommandsComplete :
    (let s := descState openArgs fun d => { withHandle d with hmem := [(2 ^ 64 - 128, 1)] }
     s.dev.Runs (descWith openArgs) 0x20 (accWith openArgs) ∧ u64At (accWith openArgs).raw 16 + 128 ≤ 2 ^ 64 ∧ s.dev.sys.hostFaults = [] ∧
       (s.dev.fn 0).handleAt 7 (u16At (s.dev.hmem.readN (u64At (accWith openArgs).raw 16) 64) 0) = some { pkg := 0, count := 1, since := 0 }) ∧
    (let s := descState [(0, 0x21)] fun d => { d with media := { d.media with contracts := [(0, contractOf [] (seatOf none))] } }
     s.dev.Runs (descWith [(0, 0x21)]) 0x21 (accWith [(0, 0x21)]) ∧
       s.dev.media.contracts.find (handleOf (accWith [(0, 0x21)]).raw) = some (contractOf [] (seatOf none)) ∧
       ((contractOf [] (seatOf none)).seats.any fun x => x.stream.isSome) = false) := by decide +kernel

/-- The parameter block of a one-dimensional field of one element, decoded (R251). -/
def fpb : Bytes := blockOf 64 [(1, 1), (2, 1), (4, 1), (8, 1), (12, 1), (16, 1), (29, 6), (32, 4096), (40, 8192), (48, 12288)]
def cpbField : Bytes := blockOf 64 [(2, 5), (6, 1), (7, 1), (8, 4), (12, 100000), (16, 10000), (20, 256)]
def streamArgs : List (Nat × Nat) := [(0, 0x30)]
def openPkg : Pkg := barePkg 2 [] 9
def openContract : Contract := contractOf cpbField (seatOf none)
def openState : State := descState streamArgs fun d =>
  { d with hmem := Mem.writeN [] 0 fpb, media := { d.media with contracts := [(0, openContract)], pkgs := [(0, openPkg)] } }
def openCounted : Dev := openState.dev.count (ev 11 0) (paramLen 2)
def openStream : Stream := Stream.fresh 0 0 0 (openCounted.media.gens.get 1 0) 2 false fpb openContract.pkg openPkg
theorem met_StreamOpenAndCloseComplete_open :
    openState.dev.Runs (descWith streamArgs) 0x30 (accWith streamArgs) ∧
      openState.dev.media.contracts.find (handleOf (accWith streamArgs).raw) = some openContract ∧ openContract.func = (accWith streamArgs).func ∧
      openContract.job = 2 * 2 + 1 ∧ u8At (accWith streamArgs).raw 24 = 0 ∧ u64At (accWith streamArgs).raw 16 + paramLen 2 ≤ 2 ^ 64 ∧
      openState.dev.hostRead (u64At (accWith streamArgs).raw 16) (paramLen 2) = some fpb ∧
      openPkg = openState.dev.media.pkgs.get openContract.pkg Pkg.empty ∧ fpbOk fpb false openPkg = true ∧
      geometryOk openContract 2 fpb openPkg = true ∧ openContract.fitsStream 2 fpb = true ∧ paramA 2 fpb ≤ openContract.rerunA ∧
      openContract.freeSeat = some 0 ∧ 1 = lowestFree openCounted.media.streams 1025 ∧
      openCounted.reserve openStream openPkg = some openStream := by
  refine ⟨?_, ?_, ?_, ?_, ?_, ?_, ?_, ?_, ?_, ?_, ?_, ?_, ?_, ?_, ?_⟩ <;> decide +kernel
theorem met_StreamOpenAndCloseComplete_close :
    let x := bareStream 1 false []
    let s := descState [(0, 0x31)] (withStream x [])
    let a := accWith [(0, 0x31)]
    s.dev.Runs (descWith [(0, 0x31)]) 0x31 a ∧ 0 = handleOf a.raw % 65536 ∧ s.dev.stream 0 = some x ∧ x.func = a.func ∧
      x.gen = handleOf a.raw / 65536 ∧ x.closing = none := by decide +kernel

/-- The parameter block of a 16 × 16 picture of 4:4:4 samples of 8 bits, with more fields. -/
def vpbOf (fs : List (Nat × Nat)) : Bytes := blockOf 128 ([(0, 16), (2, 16), (4, 2), (5, 8), (22, 1)] ++ fs)
theorem met_StreamJobsAreQueued_encPicture :
    let x := bareStream 0 true (vpbOf [])
    let fs := [(0, 0x40), (56, 1), (58, 1), (60, 1), (62, 63), (63, 31)]
    let s := descState fs (withStream x [])
    s.dev.Runs (descWith fs) 0x40 (accWith fs) ∧ s.dev.Names (accWith fs) 0 x ∧ x.medium = 0 ∧ x.enc = true ∧
      s.dev.encPictureOk (accWith fs) x = true := by decide +kernel
def decArgs (op : Nat) : List (Nat × Nat) := [(0, op), (24, 2 ^ 30)]
theorem met_StreamJobsAreQueued_decode :
    ([(0, 0x41), (1, 0x51), (2, 0x61)] : List (Nat × Nat)).all fun e =>
      let x := bareStream e.1 false []
      let a := accWith (decArgs e.2)
      let s := descState (decArgs e.2) (withStream x [])
      decide (s.dev.Runs (descWith (decArgs e.2)) e.2 a ∧ s.dev.Names a 0 x ∧ x.medium = e.1 ∧ x.enc = false ∧ 1 ≤ u64At a.raw 24 ∧
        u64At a.raw 24 ≤ 2 ^ 30 ∧ s.dev.addrOk a.func (bitAt (spacesOf a.raw) 0) (u64At a.raw 16) (u64At a.raw 24) = true ∧
        s.dev.statOk a = true) := by decide +kernel
theorem met_StreamJobsAreQueued_audEnc :
    let x := bareStream 1 true (blockOf 64 [(0, 16000), (4, 1)])
    let fs := [(0, 0x50), (24, 320)]
    let a := accWith fs
    let s := descState fs (withStream x [])
    s.dev.Runs (descWith fs) 0x50 a ∧ s.dev.Names a 0 x ∧ x.medium = 1 ∧ x.enc = true ∧ 1 ≤ u64At a.raw 24 ∧
      u64At a.raw 24 % max 1 x.frameBytes = 0 ∧ s.dev.addrOk a.func (bitAt (spacesOf a.raw) 0) (u64At a.raw 16) (u64At a.raw 24) = true ∧
      s.dev.statOk a = true := by decide +kernel
theorem met_StreamJobsAreQueued_fldEnc :
    let x := bareStream 2 true fpb
    let fs := [(0, 0x60), (16, 2 ^ 64 - 4)]
    let a := accWith fs
    let s := descState fs (withStream x [])
    s.dev.Runs (descWith fs) 0x60 a ∧ s.dev.Names a 0 x ∧ x.medium = 2 ∧ x.enc = true ∧ u64At a.raw 16 + x.arrayBytes ≤ 2 ^ 64 ∧
      s.dev.statOk a = true ∧
      (∀ k ∈ List.range 4, u32At a.raw (24 + 4 * k) < listGet (blockCounts x.fieldShape.1 x.fieldShape.2.1 x.fieldShape.2.2) k 1) := by
  decide +kernel

/-- A frame pool of 16 granules (R214). -/
def withPool (d : Dev) : Dev := d.setRegN (HBM + 0x104) 16
theorem met_PoolMarksComplete_alloc :
    let fs := [(0, 0x48), (16, 1), (24, 16 * 65536)]
    let a := accWith fs
    let s := descState fs withPool
    s.dev.Runs (descWith fs) 0x4801 a ∧ poolArgsOk true a.raw = true ∧ s.dev.freeRecord = some 0 ∧
      s.dev.freeRun s.dev.poolTaken (ceilDiv (u64At a.raw 24) granule) = some 0 ∧ s.dev.recordsFree ≠ 0 ∧
      ceilDiv (u64At a.raw 24) granule ≤ s.dev.poolFree := by decide +kernel
def withBuf (st : BufState) (d : Dev) : Dev :=
  (withStream (bareStream 0 false (vpbOf [])) [] d).setBuf 4095 { Buf.none with state := st, stream := some 0, output := true, granules := 1 }
theorem met_PoolMarksComplete_take :
    ([2, 4] : List Nat).all fun op =>
      let fs := [(0, 0x48), (16, op), (4, 4095)]
      let s := descState fs (withBuf .outputPending)
      decide (s.dev.Runs (descWith fs) (0x4800 + op) (accWith fs) ∧ s.dev.takable (accWith fs) = some 4095 ∧
        poolArgsOk false (accWith fs).raw = true) := by decide +kernel
theorem met_PoolMarksComplete_release :
    let fs := [(0, 0x48), (16, 3), (4, 4095)]
    let s := descState fs (withBuf .hostHeld)
    s.dev.Runs (descWith fs) 0x4803 (accWith fs) ∧ s.dev.bufNamed 0 (handleOf (accWith fs).raw) [.hostHeld] = some 4095 ∧
      poolArgsOk false (accWith fs).raw = true := by decide +kernel
def copyArgs : List (Nat × Nat) := [(0, 0x78), (2, 3), (16, 0), (24, 2), (32, 4), (36, 1)]
theorem met_Copy2dMovesItsRows :
    let s := descState copyArgs fun d => { d with dmem := [(0, 1), (3, 4)] }
    let a := accWith copyArgs
    let c := copyOf a.raw
    s.dev.Runs (descWith copyArgs) 0x78 a ∧ 1 ≤ c.width ∧ 1 ≤ c.rows ∧ c.width * c.rows ≤ 2 ^ 26 ∧ (c.rows = 1 ∨ c.width ≤ c.sD.natAbs) ∧
      s.dev.rectOk a.func c.spS c.src c.sS c.width c.rows = true ∧ s.dev.rectOk a.func c.spD c.dst c.sD c.width c.rows = true ∧
      c.staged = false ∧ c.spS = true ∧ c.spD = true ∧ c.rows = 1 ∧ s.dev.dmem.wf = true := by decide +kernel
def copyStaged : List (Nat × Nat) := [(0, 0x78), (16, 0), (24, 1), (32, 2), (36, 2), (40, 2), (44, 3)]
theorem met_Copy2dMovesItsRows_staged :
    let s := descState copyStaged withPool
    let c := copyOf (accWith copyStaged).raw
    s.dev.Runs (descWith copyStaged) 0x78 (accWith copyStaged) ∧ c.staged = true ∧ (c.rows = 1 ∨ c.width ≤ c.sD.natAbs) ∧
      ceilDiv (c.width * c.rows) 65536 + s.dev.poolReserved ≤ s.dev.poolGranules ∧ ceilDiv (c.width * c.rows) 65536 ≤ s.dev.poolFree ∧
      s.dev.rectOk 0 c.spS c.src c.sS c.width c.rows = true ∧ s.dev.rectOk 0 c.spD c.dst c.sD c.width c.rows = true := by decide +kernel
def llArgs (op : Nat) : List (Nat × Nat) := [(0, op), (24, 1), (32, 4096), (40, 64)]
theorem met_LosslessJobsRunAndYield_jobs :
    ([0x70, 0x71] : List Nat).all fun op =>
      let s := descState (llArgs op) id
      let busy := descState (llArgs op) fun d => (List.range 4).foldl (fun t e => t.setLle e { Lle.reset with segment := true }) d
      decide (s.dev.Runs (descWith (llArgs op)) op (accWith (llArgs op)) ∧ s.dev.llOk (accWith (llArgs op)) (op == 0x70) = true ∧
        s.dev.llAhead (accWith (llArgs op)) < s.dev.llFree ∧ (s.dev.findLle fun l => l.job.isNone && !l.segment) = some 0 ∧
        busy.dev.Runs (descWith (llArgs op)) op (accWith (llArgs op)) ∧ busy.dev.llAhead (accWith (llArgs op)) < busy.dev.llFree ∧
        (busy.dev.findLle fun l => l.job.isNone && !l.segment) = none ∧
        (busy.dev.findLle fun l => l.job.isNone) = some 0) := by decide +kernel
theorem met_LosslessJobsRunAndYield_engines : (readyWith id).dev.working = true ∧ ((readyWith id).dev.lle 3).failed = false := by decide +kernel

/-! Hypotheses met: rings -/

theorem met_LoadAppliesTheRingTable : (readyWith id).dev.serving = true ∧ (readyWith id).dev.exists 0 = true ∧ ((readyWith id).dev.fn 0).d3 = false := by
  decide +kernel
def withRing (d : Dev) : Dev :=
  let c : CRing := { CRing.off with en := true, irqEn := true, oldest := some 0 }
  ({ d with host := { d.host with fns := [(0, { Fn.reset with msixEn := true, crings := [(63, c)] })] } } : Dev).setRegN (WINF 0) 1
theorem met_RingCommandsComplete :
    let s := readyWith fun d => (({ withRing d with sys := { d.sys with time := 0 } } : Dev).setRegN (MSI 0 + 0x800) (2 ^ 31)).setRegN (MSI 0 + 16 * 31 + 12) 0
    s.dev.pollDue 0 = true ∧ s.dev.sys.hostFaults = [] ∧ s.dev.clocked = true ∧ (s.dev.cring 0 63).oldest = some 0 ∧ (s.dev.cring 0 63).en = true ∧
      (s.dev.cring 0 63).irqEn = true ∧ 0 + (s.dev.cring 0 63).modTime * 1200 ≤ s.dev.sys.time ∧ bitAt (s.dev.regN (MSI 0 + 0x800)) 31 = true ∧
      s.dev.canSend 0 31 = true := by decide +kernel

/-! Hypotheses met: mirrors, keys, the chain -/

def mirrorArgs (op flags : Nat) (report : Nat) : List (Nat × Nat) := [(0, 0x80), (16, op), (17, flags), (24, 2 ^ 64 - 1), (32, report)]
def withSlot (t : Slot) (d : Dev) : Dev :=
  { withStream (bareStream 1 true []) [] d with pair := { Pair.reset with slots := [(1023, t)] } }
theorem met_MirrorControlsComplete_attach :
    let s := descState (mirrorArgs 1 1 0) (withSlot Slot.free)
    let a := accWith (mirrorArgs 1 1 0)
    s.dev.Runs (descWith (mirrorArgs 1 1 0)) 0x8001 a ∧ s.dev.mirrorStream a 1 false = some (0, bareStream 1 true []) ∧
      (bareStream 1 true []).failed ≠ some stABORTED := by decide +kernel
theorem met_MirrorControlsComplete_detach :
    let s := descState (mirrorArgs 2 0 0) (withSlot { Slot.free with role := .active })
    let q := descState (mirrorArgs 2 0 0) fun d => { withSlot { Slot.free with role := .standby } d with pair := { d.pair with
      silent := true, waiting := [⟨5, 0, 0, 1, false⟩] } }
    let a := accWith (mirrorArgs 2 0 0)
    s.dev.Runs (descWith (mirrorArgs 2 0 0)) 0x8002 a ∧ s.dev.mirrorStream a 0 false = some (0, bareStream 1 true []) ∧
      (s.dev.pair.detaching.any fun e => e.1 == a.seq) = false ∧ (s.dev.slotOf 0).isSome = true ∧ s.dev.pair.silent = false ∧
      q.dev.Runs (descWith (mirrorArgs 2 0 0)) 0x8002 a ∧ q.dev.pair.silent = true ∧ (q.dev.pair.waiting.any fun w => w.stream == 0) = true := by
  decide +kernel
theorem met_MirrorControlsComplete_watch :
    let t : Slot := { Slot.free with role := .standby }
    let fs := mirrorArgs 3 0 (2 ^ 64 - 32)
    let s := descState fs (withSlot t)
    s.dev.Runs (descWith fs) 0x8003 (accWith fs) ∧ s.dev.mirrorStream (accWith fs) 0 true = some (0, bareStream 1 true []) ∧
      s.dev.slotOf 0 = some (1023, t) ∧ t.role = .standby ∧ t.watchSeq = none := by decide +kernel
theorem met_MirrorControlsComplete_switch :
    let t : Slot := { Slot.free with role := .active }
    let fs := mirrorArgs 4 0 0
    let s := descState fs (withSlot t)
    s.dev.Runs (descWith fs) 0x8004 (accWith fs) ∧ s.dev.mirrorStream (accWith fs) 0 false = some (0, bareStream 1 true []) ∧
      s.dev.slotOf 0 = some (1023, t) ∧ t.role = .active ∧ t.switchSeq = none ∧ s.dev.pair.silent = false := by decide +kernel
theorem met_MirrorControlsComplete_takeover :
    ([{ Slot.free with role := .standby, epochNo := some 0 }, { Slot.free with role := .held }] : List Slot).all fun t =>
      let fs := mirrorArgs 5 2 0
      let s := descState fs (withSlot t)
      decide (s.dev.Runs (descWith fs) 0x8005 (accWith fs) ∧ s.dev.mirrorStream (accWith fs) 2 false = some (0, bareStream 1 true []) ∧
        s.dev.slotOf 0 = some (1023, t) ∧ u8At (accWith fs).raw 17 ≠ 0 ∧ ((t.role = .standby ∧ t.epochNo.isSome = true) ∨ t.role = .held)) := by
  decide +kernel
theorem met_KeyCommandsComplete : (readyWith id).dev.writable 6 = true ∧ (readyWith id).dev.keyLocked = false := by decide +kernel
theorem met_ChainCommandsComplete :
    let s := readyWith fun d => { d with chain := { Chain.reset with head := true, addr := 1 } }
    let q := readyWith fun d =>
      { d with chain := { Chain.reset with hostQuery := some (254, 1) }, sys := { d.sys with time := 3600001 } }
    s.dev.writable 10 = true ∧ s.dev.chain.head = true ∧ s.dev.chain.hostQuery = none ∧ s.dev.onChain = true ∧ s.dev.chain.addr ≠ 0 ∧
      q.dev.onChain = true ∧ q.dev.chain.hostQuery = some (254, 1) ∧ q.dev.chain.ownQuery = none ∧ 1 + 3600000 ≤ q.dev.sys.time := by
  decide +kernel
/-- A frame with its CRC (R338). -/
def frameWith (dst src typ : Nat) (payload : Bytes) : Frame :=
  ⟨reframe (leBytes 1 dst ++ leBytes 1 src ++ leBytes 1 typ ++ leBytes 1 payload.length) payload⟩
def chainState (head : Bool) (addr serial : Nat) : State :=
  { readyWith fun d => { d with chain := { Chain.reset with head := head, addr := addr } } with fuses := { Fuses.blank with serial := serial } }
theorem met_ChainFramesComplete_survey :
    let fr := frameWith 0 0 1 (leBytes 40 (9 * 2 ^ 256))
    let s := chainState false 254 9
    let h := chainState true 1 9
    carries fr.bytes 0x01 40 = true ∧ u64At fr.bytes 36 = 9 ∧ s.dev.onChain = true ∧ s.dev.chain.head = false ∧ h.dev.onChain = true ∧
      h.dev.chain.head = true := by decide +kernel
theorem met_ChainFramesComplete_assign :
    let fr := frameWith 0 0 2 (leBytes 40 (9 * 2 ^ 256 + (2 ^ 254 - 1)))
    let s := chainState false 0 5
    s.dev.onChain = true ∧ carries fr.bytes 0x02 40 = true ∧ s.dev.chain.head = false ∧ s.dev.chain.addr = 0 ∧ s.dev.serving = true ∧
      lowestClear (slice fr.bytes 4 32) = some 254 ∧ (chainState true 1 9).dev.onChain = true ∧ u64At fr.bytes 36 = 9 := by decide +kernel
theorem met_ChainFramesComplete_others :
    let s := chainState false 254 9
    let q := frameWith 254 1 0x11 []
    s.dev.onChain = true ∧ carries (frameWith 0 0 3 (leBytes 8 9)).bytes 0x03 8 = true ∧ carries (frameWith 254 1 0x10 (leBytes 16 0)).bytes 0x10 16 = true ∧
      carries q.bytes 0x11 0 = true ∧ frameDst q.bytes ≠ 0 ∧ frameDst q.bytes = s.dev.chain.addr ∧ frameOk (List.replicate 8 0x01#8) = false ∧
      State.reset.dev.onChain = false := by decide +kernel
theorem met_HeadsYieldToLowerSerials :
    let fr := frameWith 0 0 1 (leBytes 40 (9 * 2 ^ 256))
    let g := frameWith 0 0 2 (leBytes 40 (9 * 2 ^ 256))
    let h := chainState true 1 10
    h.dev.onChain = true ∧ h.dev.chain.head = true ∧ carries fr.bytes 0x01 40 = true ∧ carries g.bytes 0x02 40 = true ∧
      u64At fr.bytes 36 < h.fuses.serial ∧ (chainState true 1 8).fuses.serial < u64At g.bytes 36 := by decide +kernel

/-! Hypotheses met: fuses, injection, tests, resets -/

theorem met_FuseCommandsComplete :
    let s : State := { readyWith fun d => { d with sys := { d.sys with time := 1200003 }, units := { d.units with soft := [fuseRecord 4] } } with
      fuses := { Fuses.blank with armedAt := some 3 } }
    let b : State := { s with fuses := { Fuses.blank with burning := some (63, fuseRecord 4) } }
    s.dev.writable 0xE = true ∧ s.fuses.burning = none ∧ s.fuses.armedAt = some 3 ∧ s.dev.sys.time ≤ 3 + 1200000 ∧
      fuseRecord 4 = fuseRecord (listGet s.dev.units.soft 0 0).toNat ∧ b.fuses.burning = some (63, fuseRecord 4) := by decide +kernel
theorem met_InjectionAndFreezeComplete :
    let s := readyWith fun d => (d.setInj fun j => { j with step := 1, lastAt := 0 }).setRegN DBG 2
    let late := readyWith fun d => 
      { d with sys := { d.sys with time := 120001, inj := { Inj.reset with step := 2, lastAt := 0 } } }
    s.dev.writable 0xD = true ∧ s.dev.injLate = false ∧ late.dev.clocked = true ∧ late.dev.injLate = true ∧ s.dev.writable 0x20 = true ∧
      s.dev.sys.pins.frz = true ∧ s.dev.sys.pins.frzArmed = true ∧ bitAt (s.dev.regN DBG) 1 = true ∧ s.dev.clocked = true := by decide +kernel
theorem met_TestsStartAndComplete :
    let u : Test := { kind := 1, cls := 1, plain := 7, inst := 0, pos := 271, waiting := false }
    let s := readyWith fun d => { d with units := { d.units with test := some u } }
    (readyWith id).dev.writable 0x20 = true ∧ (readyWith id).dev.sys.mode ≠ .boot ∧ (readyWith id).dev.units.test = none ∧
      s.dev.units.test = some u ∧ s.dev.clocked = true ∧ u.waiting = false ∧ u.cls < 2 := by decide +kernel
theorem met_ResetCommandsComplete :
    (readyWith id).dev.writable 2 = true ∧ (readyWith id).dev.sys.mode ≠ .powerOn ∧ 1000 ≤ 1000 ∧ 99 < 100 ∧
      (State.reset.onDev fun d => d.setMode .held).dev.sys.mode = .held ∧ (State.reset.onDev fun d => d.setMode .powerOn).dev.sys.mode = .powerOn := by
  decide +kernel
theorem met_BootCommandsComplete :
    let s := State.reset.onDev fun d => (d.setMode .boot).setRegN (PWR + 0x108) 256
    State.reset.dev.sys.mode = .waitRef ∧ (-1300 : Int).natAbs ≤ 1300 ∧ s.dev.sys.mode = .boot ∧ s.dev.writable 2 = true ∧ s.dev.sys.bootState = 0 ∧
      256 ≤ s.dev.regN (PWR + 0x108) ∧ s.dev.regN (PWR + 0x108) ≤ 2 ^ 24 ∧
      s.dev.hostRead (s.dev.reg64 (PWR + 0x100) (PWR + 0x104)) (s.dev.regN (PWR + 0x108)) = some (List.replicate 256 0) := by decide +kernel

/-! Hypotheses met: instruments, registers -/

def sampling : State := readyWith fun d =>
  { (d.setRegN (PMC + 0x30) (2 ^ 31 + 1023)).setRegN (PMC + 4) 1 with inst := { Inst.reset with sampCount := 1 }, sys := { d.sys with time := 1200000 } }
theorem met_InstrumentCommandsComplete :
    sampling.dev.serving = true ∧ bitAt ((readyWith id).dev.regN (PMC + 0x04)) 0 = false ∧ sizeOk (8 : Fin 9) = true ∧
      sampling.dev.clocked = true ∧ bitAt (sampling.dev.regN (PMC + 0x30)) 31 = true ∧
      bits (sampling.dev.regN (PMC + 0x30)) 0 10 = (1023 : Fin 1024) ∧
      sampling.dev.inst.sampTaken < sampling.dev.inst.sampCount / sampling.dev.regN (PMC + 0x34) := by decide +kernel
theorem met_InstrumentCommandsComplete_dump :
    let s := readyWith fun d => { (d.setRegN (PMC + 0x04) 1).setReg64 (PMC + 0x1C) (PMC + 0x20) 8448 with sys := { d.sys with time := 1200000 } }
    bitAt (s.dev.regN (PMC + 0x04)) 0 = true ∧ s.dev.inst.lastDump + s.dev.regN (PMC + 0x0C) * 1200 ≤ s.dev.sys.time ∧ s.dev.instMay = true ∧
      bitAt (s.dev.regN (PMC + 0x04)) 1 = false ∧ s.dev.sys.hostFaults = [] ∧ s.dev.hmem.wf = true ∧
      (s.dev.inst.dumped + 2 ^ 64 - leNat (s.dev.hmem.readN (s.dev.pmcPtr + 8) 8)) % 2 ^ 64 < 2 ^ s.dev.regN (PMC + 0x18) ∧
      s.dev.pmcRing + 8448 * (s.dev.inst.dumped % 2 ^ s.dev.regN (PMC + 0x18)) + 8448 ≤ s.dev.pmcPtr := by decide +kernel
theorem met_InstrumentCommandsComplete_mark :
    let s := readyWith fun d => (d.setRegN TRC 1).setRegN (TRC + 4) 8192
    s.dev.serving = true ∧ bitAt (s.dev.regN TRC) 0 = true ∧ bitAt (s.dev.regN (TRC + 4)) 13 = true := by decide +kernel
theorem met_InstrumentCommandsComplete_trace :
    let r : TRec := ⟨0, 13, 38, 0, [1, 2, 3, 4]⟩
    let s := readyWith fun d => { d.setRegN (TRC + 0x18) 32 with inst := { Inst.reset with trace := [r] }, sys := { d.sys with time := 2400 } }
    firstTrace s.dev.inst.trace = some r ∧ s.dev.instMay = true ∧ r.time + 2400 ≤ s.dev.sys.time ∧ s.dev.inst.dropped = 0 ∧
      bitAt (s.dev.regN TRC) 1 = false ∧ s.dev.sys.hostFaults = [] ∧ s.dev.hmem.wf = true ∧
      (s.dev.inst.written + 2 ^ 64 - leNat (s.dev.hmem.readN (s.dev.reg64 (TRC + 0x18) (TRC + 0x1C) + 8) 8)) % 2 ^ 64 < 2 ^ s.dev.regN (TRC + 0x14) ∧
      s.dev.reg64 (TRC + 0x0C) (TRC + 0x10) + 32 * (s.dev.inst.written % 2 ^ s.dev.regN (TRC + 0x14)) + 32 ≤ s.dev.reg64 (TRC + 0x18) (TRC + 0x1C) := by
  decide +kernel
theorem met_ClearingWritesComplete : (readyWith id).dev.stickyWritable = true ∧ (readyWith id).dev.writable 6 = true := by decide +kernel
theorem met_RegisterWritesMergeTheirBytes :
    (readyWith id).dev.regServed 0 .bar0 0 = true ∧ (4 : Fin 9).val = 4 ∧ (0x40#24).toNat = 0x40 + 0 ∧ (1 : Fin 9).val = 1 ∧
      (0x43#24).toNat = 0x40 + 3 ∧ 3 < 4 ∧ 3 % 1 = 0 ∧ (2 : Fin 9).val = 2 ∧ (0x42#24).toNat = 0x40 + 2 ∧ 2 % 2 = 0 ∧
      ¬((3 : Fin 9).val = 1 ∨ (3 : Fin 9).val = 2 ∨ (3 : Fin 9).val = 4 ∨ (3 : Fin 9).val = 8) ∧ (2#24).toNat % (4 : Fin 9).val ≠ 0 := by
  decide +kernel
theorem met_FunctionsUseTheirOwnWindows :
    let s := readyWith fun d => { d with host := { d.host with vfs := 63 } }
    s.dev.clocked = true ∧ s.dev.sys.mode ≠ .boot ∧ 0x1FF < 0x200 ∧ (s.dev.fn 0).d3 = false ∧ (63 : Fin 64).val ≠ 0 ∧ s.dev.exists 63 = true ∧
      (s.dev.fn 63).d3 = false ∧ RNG + 0x200 ≤ (BitVec.ofNat 24 (RNG + 0x7FFF)).toNat ∧ (BitVec.ofNat 24 (RNG + 0x7FFF)).toNat < RNG + 0x8000 ∧
      0x200 ≤ (0x200#24).toNat ∧ (0x000#24).toNat ≠ 0x008 ∧ WINF 62 + 0x200 ≤ WINF 63 := by decide +kernel

/-! Hypotheses met: clocks, power, the link -/

theorem met_EffectiveDividerFollowsItsCauses :
    let e := (contractOf (blockOf 64 [(8, 4)]) (seatOf none), seatOf none)
    let s := readyWith fun d => { d with media := { d.media with contracts := [(0, e.1)] } }
    e ∈ s.dev.media.allSeats ∧ e.1.guaranteed = true ∧ e.2.inPlain 0 = true := by decide +kernel
theorem met_ProtectionCausesComplete :
    (readyWith id).dev.clocked = true ∧ 1050 ≤ 1050 ∧ 999 < 1000 ∧ adjacentPlains 3 7 = true ∧ adjacentPlains 0 1 = true := by decide +kernel
theorem met_DividersFollowAndHeatStops :
    let s : State := { readyWith fun d => { d.setPlain 7 { Plain.reset with div := 6 } with sys := { d.sys with time := 12000000 } } with
      clk := Clocks.reset.setPlain 7 { PlainClk.reset with hotFrom := some 0 } }
    s.dev.clocked = true ∧ s.dev.units.plains.length = 8 ∧ 1150 ≤ 1150 ∧ s.heldHot 7 1050 = true := by decide +kernel
theorem met_PowerCapStepsOnePlain :
    let s := readyWith id
    s.dev.clocked = true ∧ s.dev.regN (PWR + 0x08) < 651 ∧ 618 ≤ s.dev.regN (PWR + 0x08) ∧ s.dev.regN (PWR + 0x08) * 95 ≤ 618 * 100 ∧
      617 * 100 < s.dev.regN (PWR + 0x08) * 95 ∧ s.clk.plains.length = 8 := by decide +kernel
theorem met_ReferenceAndRailsComplete :
    let h : State := { readyWith fun d => { d with sys := { d.sys with time := 12000000 } } with clk := { Clocks.reset with holdover := true } }
    (readyWith id).dev.clocked = true ∧ (readyWith id).clk.holdover = false ∧ h.dev.clocked = true ∧ h.clk.holdover = true ∧
      h.dev.sys.mode ≠ .quiesced ∧ h.clk.holdFrom + 12000000 ≤ h.dev.sys.time ∧ h.dev.sys.mode = .ready := by decide +kernel
theorem met_LinkAndPowerStatesComplete :
    let s := readyWith fun d => { d with host := { d.host with vfs := 63, fns := [(63, { Fn.reset with d3 := true })] } }
    let g := readyWith fun d => { d.setPlain 7 { Plain.reset with gated := false, idleFrom := some 0 } with sys := { d.sys with time := 1200000 } }
    let k := readyWith fun d => d.setRegN PWR 128
    s.dev.clocked = true ∧ s.dev.exists 63 = true ∧ (s.dev.fn 63).d3 = true ∧ (63 : Fin 64).val ≠ 0 ∧ (readyWith id).dev.host.vfs = 0 ∧
      g.dev.clocked = true ∧ (g.dev.plain 7).gated = false ∧ g.dev.mayGate 7 = true ∧ (g.dev.plain 7).idleFrom = some 0 ∧
      0 + 1200000 ≤ g.dev.sys.time ∧ k.dev.clocked = true ∧ k.dev.mayGate 7 = false := by decide +kernel
theorem met_LedgerAuditComplete :
    (readyWith id).dev.clocked = true ∧ (readyWith id).dev.sys.mode ≠ .failStop ∧
      ((readyWith id).dev.inst.audited.map (·.1)) ≠ some ((readyWith id).dev.sys.time / 1200000) := by decide +kernel

/-! Hypotheses met: the wheel, units and streams -/

/-- The device that serves a stream's unit: contract 0 with a parameter block, its seat, and the stream. -/
def unitState (x : Stream) (cpb : Bytes) : State := readyWith (withStream x cpb)
def queuedUnit (ic : Rat) : MUnit := { MUnit.blank with ic := ic }
theorem met_WheelCommandsComplete_release :
    ([([(4, 1)], 0), ([(12, 100000), (7, 1), (22, 16), (24, 1)], 0), ([(12, 100000), (7, 1), (22, 16), (24, 1)], 1)] :
      List (List (Nat × Nat) × Rat)).all fun e =>
      let u := queuedUnit e.2
      let x := { bareStream 0 false (vpbOf []) with units := [u] }
      let c := contractOf (blockOf 64 e.1) { seatOf (some 0) with tokens := 1 }
      let s := readyWith fun d => { d with media := { d.media with contracts := [(0, c)], streams := [(0, x)] } }
      let r0 : Rat := max e.2 0
      let tok : Rat := min (c.burst : Rat) (1 + (r0 - 0) / ((c.period : Rat) / (c.units : Rat)))
      decide (s.dev.serving = true ∧ s.dev.stream 0 = some x ∧ x.firstQueued = some u ∧ u.number = 0 ∧
        s.dev.seatOf x = some (c, { seatOf (some 0) with tokens := 1 }) ∧ s.dev.inputComplete x u = some e.2 ∧ x.tokenFree = false ∧
        (c.guaranteed = false ∨ (c.guaranteed = true ∧ tok = 1 ∧ (r0 ≤ s.dev.nowNs ∨ s.dev.nowNs < r0)))) := by decide +kernel
theorem met_WheelCommandsComplete_adapter :
    let u := queuedUnit 0
    let x := { bareStream 0 true (vpbOf [(25, 1)]) with units := [u] }
    let s := unitState x (blockOf 64 [(12, 100000), (7, 1)])
    s.dev.serving = true ∧ s.dev.stream 0 = some x ∧ x.firstQueued = some u ∧ x.tokenFree = true ∧ s.dev.inputComplete x u = some 0 ∧
      (s.dev.seatOf x).isSome = true := by decide +kernel
/-- The departures of contract 0's seat t at a time, with its stream x. -/
def departing (t : Seat) (x : Stream) (cpb : Bytes) (time : Nat) : State :=
  readyWith fun d => { withStream x cpb d with
    sys := { d.sys with time := time, mode := .ready }, media := { d.media with contracts := [(0, contractOf cpb t)], streams := [(0, x)] } }
theorem met_WheelCommandsComplete_departure :
    let u := { queuedUnit 0 with stage := .released }
    let x := { bareStream 0 false (vpbOf []) with units := [u] }
    let t := seatOf (some 0)
    let s := departing t x [] 0
    let late := departing t x [] 1172
    s.dev.serving = true ∧ s.dev.media.contracts.find (0#16).toNat = some (contractOf [] t) ∧ (contractOf [] t).seats[0]? = some t ∧
      (contractOf [] t).guaranteed = true ∧ (contractOf (blockOf 64 [(4, 1)]) t).guaranteed = false ∧ t.lost = false ∧
      (trainStarts (contractOf [] t).k t.offset).contains (s.dev.slotNow % 1024) = true ∧ t.departed ≠ some s.dev.slotNow ∧
      (trainStarts (contractOf [] t).k t.offset).contains (late.dev.slotNow % 1024) = false ∧
      ({ t with departed := some 0 } : Seat).departed = some s.dev.slotNow ∧ ({ t with moving := true } : Seat).moving = true ∧
      t.moving = false ∧ (seatOf none).stream = none ∧ t.stream = some (t.stream.getD 1025) ∧ s.dev.stream (t.stream.getD 1025) = some x ∧
      x.adapterTurn = false ∧ x.firstReleased = some u ∧ ((bareStream 0 false (vpbOf [])).units.any fun v => v.stage == .released) = false := by
  decide +kernel
/-- A video package whose DEC_I entry runs one record, which writes the parameter tensor (R163, R458). -/
def paramPkg : Pkg :=
  { Pkg.empty with
    sections := [(2, blockOf 272 [(0, 1), (4, 256), (8, 1), (20, 1), (64, 3), (65, 1), (78, 1), (128, 4), (184, 0x2000), (256, 6)])] }
def flyingUnit (passes segs : Nat) : MUnit := { MUnit.blank with stage := .flying, passes := passes, segs := segs }
/-- A unit in flight since slot 0 of a seat with one booking, of engine 0 in slot 0, under a contract with parameter block cpb. -/
def flyingWith (cpb : Bytes) (enc : Bool) (passes segs : Nat) : State :=
  readyWith fun d =>
    let t := withStream { bareStream 0 enc (vpbOf []) with units := [flyingUnit passes segs] } cpb d
    let c : Contract := { contractOf cpb { seatOf (some 0) with bookings := [⟨0, 0, 1, 0⟩] } with rTrain := 1 }
    { t with media := { t.media with pkgs := [(0, paramPkg)], contracts := [(0, c)] } }
def flyingState : Bool → Nat → Nat → State := flyingWith (blockOf 64 [(4, 1)])
theorem met_UnitStepsComplete :
    (let s := flyingState false 7 8
     let x := { bareStream 0 false (vpbOf []) with units := [flyingUnit 7 8] }
     s.dev.serving = true ∧ s.dev.flying ⟨0, 0⟩ = some (x, flyingUnit 7 8) ∧ s.dev.engineNow x (flyingUnit 7 8) = some 0 ∧
       (s.dev.unitPhases x).param = true ∧ 7 < 8 ∧ 8 = 7 + 1) ∧
    (let s := flyingState false 8 8
     let x := { bareStream 0 false (vpbOf []) with units := [flyingUnit 8 8] }
     s.dev.flying ⟨0, 0⟩ = some (x, flyingUnit 8 8) ∧ s.dev.engineNow x (flyingUnit 8 8) = some 0 ∧
       x.enc = false ∧ 8 < 9 ∧ (flyingUnit 8 8).passes = (flyingUnit 8 8).segs) ∧
    (let s := flyingState true 8 0
     let x := { bareStream 0 true (vpbOf []) with units := [flyingUnit 8 0] }
     s.dev.flying ⟨0, 0⟩ = some (x, flyingUnit 8 0) ∧ s.dev.engineNow x (flyingUnit 8 0) = some 0 ∧ x.enc = true ∧ 8 ≤ (flyingUnit 8 0).passes) := by
  decide +kernel
theorem met_UnitStepsComplete_segments :
    let x := { bareStream 0 false (vpbOf []) with units := [flyingUnit 0 0] }
    let s := flyingWith [] false 0 0
    let late := s.onDev fun d => { d with sys := { d.sys with time := 1172 } }
    s.dev.flying ⟨0, 0⟩ = some (x, flyingUnit 0 0) ∧ s.dev.engineNow x (flyingUnit 0 0) = some 0 ∧ late.dev.serving = true ∧
      late.dev.flying ⟨0, 0⟩ = some (x, flyingUnit 0 0) ∧ late.dev.engineNow x (flyingUnit 0 0) = none := by decide +kernel
/-- A picture that is open, with index 0 accepted. -/
def openPic : Pic :=
  { picId := 5, intra := true, quality := 0, mark := 0, refShort := 0, refLong := 0, pts := 0, refS := none, refL := none, flags := 0, buf := 0
    out := none, maps := [], lastIdx := some 0, job := 0, damaged := false, bytes := 0, rows := 16, planes := [], roi := [], hallmark := false
    qOper := 0, trained := false, region := true, asked := false, unitsIn := [], begun := true, trainDeps := 0, finDeps := 0 }
theorem met_StreamStepsComplete_train :
    let x := { bareStream 0 true (vpbOf [(25, 1)]) with pic := some openPic, units := [{ MUnit.blank with subject := 5, stage := .coded }] }
    let s := unitState x []
    s.dev.serving = true ∧ s.dev.stream 0 = some x ∧ x.tokenFree = true ∧ openPic.trained = false ∧
      (x.units.filter fun u => u.subject == openPic.picId).length = x.slices ∧
      ((x.units.filter fun u => u.subject == openPic.picId).all fun u => u.stage == .coded) = true ∧
      s.dev.seatOf x = some (contractOf [] (seatOf (some 0)), seatOf (some 0)) ∧
      (contractOf [] (seatOf (some 0))).trainDeps (s.dev.pkgOf x) (contractOf [] (seatOf (some 0))).spacing ≤ openPic.trainDeps ∧
      x.adapterTurn = true := by decide +kernel
theorem met_StreamStepsComplete_region :
    let x := { bareStream 0 true (vpbOf [(25, 2)]) with regionDue := true }
    let s := unitState x (blockOf 64 [(4, 1)])
    s.dev.stream 0 = some x ∧ x.regionDue = true ∧ s.dev.regionNow x = true := by decide +kernel
theorem met_StreamStepsComplete_close :
    let x := { bareStream 0 false (vpbOf []) with
      pic := some openPic, units := [{ MUnit.blank with subject := 5, stage := .done, fin := true }] }
    (unitState x []).dev.stream 0 = some x ∧ x.pictureDone openPic = true ∧ openPic.begun = true := by decide +kernel
def rings : List (Nat × Nat) := [(64, 65536), (72, 16), (80, 131072), (88, 262144), (96, 4096), (100, 1)]
def headRec : RecOut := { bytes := List.replicate 64 1, job := 0, unit := none, buf := some 0, copied := false }
theorem met_StreamStepsComplete_emit :
    let e : Emit := ⟨List.replicate 16 7, none, none⟩
    let x := { bareStream 0 true (vpbOf rings) with emits := [e], emitted := 65520 }
    let s := unitState x []
    s.dev.stream 0 = some x ∧ s.dev.mayWrite x.func = true ∧ s.dev.sys.hostFaults = [] ∧ s.dev.hmem.wf = true ∧ x.waiting ≠ Wait.room ∧
      x.emits = e :: [] ∧ x.emitted + e.bytes.length ≤ leNat (s.dev.hmem.readN (x.ptr + 8) 8) + 2 ^ x.ringLog2 ∧ x.ring + 2 ^ x.ringLog2 ≤ x.ptr ∧
      e.bytes.length ≤ 2 ^ x.ringLog2 := by decide +kernel
theorem met_StreamStepsComplete_records :
    (let r := { headRec with copied := true }
     let x := { bareStream 0 false (vpbOf (rings ++ [(25, 8)])) with recs := [r] }
     let s := unitState x []
     s.dev.stream 0 = some x ∧ s.dev.mayWrite x.func = true ∧ x.recs = r :: [] ∧ x.medium = 0 ∧ r.copied = true ∧ x.autoCopy = true ∧
       x.records < leNat (s.dev.hmem.readN (x.ptr + 8) 8) + min (2 ^ x.ringLog2) (u16At x.param 100)) ∧
    (let x := { bareStream 1 false (blockOf 64 [(16, 65536), (24, 16), (32, 131072)]) with recs := [headRec] }
     let s := unitState x []
     s.dev.stream 0 = some x ∧ x.medium = 1 ∧ x.emitted + headRec.bytes.length ≤ leNat (s.dev.hmem.readN (x.ptr + 8) 8) + 2 ^ x.ringLog2) ∧
    (let x := { bareStream 2 false fpb with recs := [headRec], records := 63 }
     let s := unitState x []
     s.dev.stream 0 = some x ∧ x.medium = 2 ∧ x.autoCopy = false ∧ x.records < leNat (s.dev.hmem.readN (x.ptr + 8) 8) + 2 ^ x.ringLog2) ∧
    (let x := { bareStream 0 false (vpbOf (rings ++ [(25, 8)])) with recs := [headRec] }
     let s := unitState x []
     s.dev.stream 0 = some x ∧ x.autoCopy = true ∧ (x.recs.findIdx? fun q => !q.copied) = some 0 ∧ x.recs[0]? = some headRec ∧
       headRec.buf = some 0 ∧ x.records + 0 < leNat (s.dev.hmem.readN (x.ptr + 8) 8) + u16At x.param 100) := by
  refine ⟨?_, ?_, ?_, ?_⟩ <;> decide +kernel

/-! Hypotheses met: tiles -/

/-- Fields of a CONV record of 16 channels at a byte of a program: class and flags, kernel, formats, source (R141). -/
def recFields (base cls kh fmts out src : Nat) : List (Nat × Nat) :=
  ([(0, 1), (1, cls), (2, fmts), (3, out), (4, kh), (5, kh), (6, 1), (7, 1), (8, kh / 2), (9, kh / 2), (10, kh / 2), (11, kh / 2), (12, 1), (14, 8),
    (16, 16), (18, 16), (23, 12), (52, src), (68, 1)] : List (Nat × Nat)).map fun e => (e.1 + base, e.2)
/-- A package whose DEC_I entry runs a stack of three records on two slivers of eight columns: exact, 3 × 3 taps; bounded, one tap, with FP64
activations; bounded, 3 × 3 taps, into whose line buffer the second writes. -/
def tilePkg : Pkg :=
  { Pkg.empty with
    sections := [(1, blockOf 64 [(7, 1)]), (11, blockOf 72 [(0, 1), (8, 2)]),
      (2, blockOf 592 ([(0, 3), (4, 512), (8, 1), (12, 528), (16, 64), (20, 1), (64, 3), (65, 1), (78, 3), (512, 4), (514, 16), (528, 1), (532, 8),
        (536, 2), (539, 1)] ++ recFields 128 0x10 3 0x33 3 0x2000 ++ recFields 256 0x11 1 0x88 8 0x1000 ++ recFields 384 1 3 0x88 8 0x1001))] }
/-- Tile 0 of stream 0's seat of tiles 0 and 1 with those records in its sequencer, changed by f. -/
def tileState (f : Tile → Tile) : State :=
  { readyWith fun d =>
      let t := withStream (bareStream 0 false (vpbOf [])) [] d
      { t.setPlain 0 { Plain.reset with gated := false } with
        media := { t.media with pkgs := [(0, tilePkg)], contracts := [(0, contractOf [] { seatOf (some 0) with tiles := [0, 1] })] } } with
    tiles := { tiles := [(0, f { Tile.blank with owner := some (0, 0), recs := [(0, 0), (0, 1), (0, 2)] })], mesh := [] } }
def ctx (n : Nat) : RecCtx :=
  ((tileState id).ctxOf 0 n).getD { pkg := Pkg.empty, kr := (0, 0), r := [], part := 0, stream := 0, inGrid := (0, 0), outGrid := (0, 0), tiles := [] }
/-- A double-bit error in every group of the tile's SRAM from byte 0 on. -/
def broken : State := tileState fun t => { t with planted := (List.range 32).map fun g => (g, true) }
theorem met_TileRecordsComplete :
    (tileState id).tileRuns 0 = true ∧ (tileState id).Issues 0 0 (ctx 0) ∧ (tileState id).Issues 0 1 (ctx 1) ∧ (tileState id).Issues 0 2 (ctx 2) ∧
      (ctx 0).r.exact = true ∧ (ctx 1).r.exact = false ∧ (ctx 1).r.accFmt = .fp64 ∧
      (195 : Fin 196).val + 1 = (ctx 1).r.slots false false := by
  decide +kernel
theorem met_TileMovesComplete :
    (tileState id).tileRuns 0 = true ∧ (((tileState id).naming 0 0x01 0 0).sramRead 0 (128 * 2047) 128).isSome = true ∧
      broken.tileRuns 0 = true ∧ (broken.naming 0 0x01 0 0).sramRead 0 0 128 = none := by decide +kernel
theorem met_TileMovesComplete_lda :
    let t := (tileState id).issued 0 0x03 0 (ctx 0)
    let u := (tileState id).issued 0 0x03 1 (ctx 1)
    let b := broken.issued 0 0x03 0 (ctx 0)
    let o : LdaOp := { src := .line 0 0, group := 0, kx := 1, part := 0, shift := 0, wide := false, toLine := none }
    broken.Issues 0 0 (ctx 0) ∧ (ctx 0).realRows 0 0 0 = [] ∧ (ctx 0).realRows 0 0 1 = (1, 0) :: [(2, 1)] ∧
      (t.sramRead 0 ((ctx 0).lineAddr 0 ((ctx 0).r.tapCol 0 1) 0 0) 128).isSome = true ∧
      b.sramRead 0 ((ctx 0).lineAddr 0 ((ctx 0).r.tapCol 0 1) 0 0) 128 = none ∧
      (u.loadRows 0 1 (ctx 1) o 15 15 15).isSome = true ∧ (broken.issued 0 0x03 1 (ctx 1)).loadRows 0 1 (ctx 1) o 0 0 0 = none ∧
      (t.sramRead 0 (128 * 2047) 128).isSome = true ∧ (t.sramRead 0 (2 ^ 18 - 1) 1).isSome = true := by decide +kernel
theorem met_TileMovesComplete_st :
    let short := tileState fun t => { t with recs := [(0, 0), (0, 1)] }
    (ctx 0).toLines = false ∧ (ctx 1).toLines = true ∧ ((tileState id).issued 0 0x0B 1 (ctx 1)).ctxOf 0 2 = some (ctx 2) ∧ short.Issues 0 1 (ctx 1) ∧
      (short.issued 0 0x0B 1 (ctx 1)).ctxOf 0 2 = none := by decide +kernel
theorem met_TileMovesComplete_transfer :
    placeOk (ctx 0).r (.hbm (BitVec.ofNat 36 (modelStore - 128))) = true ∧ placeOk (ctx 0).r (.hbm (BitVec.ofNat 36 (modelStore - 127))) = false ∧
      (((tileState id).issued 0 0x0E 0 (ctx 0)).transfer 0 (ctx 0) ⟨0, false, .acc 3 63, .pool 65535⟩).isSome = true := by decide +kernel
theorem met_TileMovesComplete_halo :
    let s := tileState fun t => { t with stored := (List.range 8).map fun x => (cellKey 1 x 0, false) }
    let o : HaloOp := { y := 0, cons := 2, side := 1, part := 0, k := 0 }
    s.Issues 0 1 (ctx 1) ∧ s.ctxOf 0 o.cons = some (ctx 2) ∧ ((tileState id).tileOf 0).rowFinal (ctx 1) 1 0 = false ∧
      (s.tileOf 0).rowFinal (ctx 1) 1 0 = true ∧ (ctx 2).readsHalo (ctx 1) = true ∧ haloDest (ctx 1) (ctx 2) o = some (1, 1) ∧
      ((State.outUnits 0 1 0 (ctx 1) (haloCols (ctx 1) (ctx 2) (ctx 1).sliver 1) (s.issued 0 0x0C 1 (ctx 1))).any fun u =>
        decide (o.k.val < ceilDiv u.1.1.length 128)) = true := by decide +kernel
theorem met_TileMovesComplete_receive :
    ([false, true] : List Bool).all fun last =>
      let m : HaloMsg := { dest := 0, prod := 0, rcd := 23, side := 1, part := 3, y := 0, last := last, data := [] }
      let s : State := { tileState id with tiles := { (tileState id).tiles with mesh := [m] } }
      decide (s.dev.serving = true ∧ (s.dev.plain 0).gated = false ∧ (s.dev.plain 0).failed = false ∧
        (s.tiles.mesh.find? fun q => q.dest == 0) = some m ∧ m.last = last) := by decide +kernel
theorem met_TilesKeepToThemselves :
    microOf (.ldw 0 0 0 2047) = some 0 ∧ (((tileState id).tileOf 0).planted.any fun e => e.2) = false ∧
      ∃ t : State, exec (.ldw 0 0 0 2047) (tileState id) = .next t := ⟨by decide +kernel, by decide +kernel, ⟨_, rfl⟩⟩

/-! Hypotheses met: faults -/

theorem met_FaultCommandsComplete :
    let x := { bareStream 1 false [] with jobs := [Job.new 3 0x51 []] }
    let s := unitState x []
    s.dev.clocked = true ∧ (s.dev.plain (2047 / 256)).failed = false ∧ (s.dev.plain (2047 / 256)).lost.contains (2047 % 256) = false ∧
      s.dev.units.engines[17]? = some (Engine.reset 17) ∧ (Engine.reset 17).failed = false ∧ (s.dev.plain 7).rimDown = false ∧
      (s.dev.plain 7).warpDown = false ∧ listGet s.dev.units.regionDown 1 false = false ∧ (s.dev.lle 3).failed = false ∧
      (s.dev.sticky 2 1 (firstDet 1 0 0 0)).stream 0 = some x ∧ x.holdsRef 256 = false ∧ x.jobs = Job.new 3 0x51 [] :: [] ∧
      ({ x with featSpans := [0], featGran := 1 } : Stream).holdsRef 65535 = true := by decide +kernel

/-! Hypotheses met: the pair -/

def linkUp : PassLink := { PassLink.reset with up := true, everUp := true }
def pairState (links : List PassLink) (time : Nat) (f : Pair → Pair) : State :=
  readyWith fun d =>
    { withStream (bareStream 1 true []) (blockOf 64 [(2, 2)]) d with
      pair := f { Pair.reset with links := links, mpl := some 0 }, sys := { d.sys with time := time, mode := .ready } }
theorem met_PairLinkCommandsComplete :
    let s := pairState [PassLink.reset, linkUp] 36000 id
    let f := pairState [linkUp, { linkUp with failLane := some 8, txSeq := 5, kept := 3 }] 12000 id
    s.dev.serving = true ∧ s.dev.pair.lastBeat + 12000 ≤ s.dev.sys.time ∧ f.dev.pair.lastBeat + 12000 ≤ f.dev.sys.time ∧ s.dev.linkOn 1 = true ∧
      (s.dev.link 1).everUp = true ∧ (s.dev.link 1).up = true ∧ (s.dev.link 1).lastBeat + 36000 ≤ s.dev.sys.time ∧ s.dev.linkOn 0 = true ∧
      s.dev.pair.silent = false ∧ (s.dev.link 1).failLane = none ∧ (f.dev.link 1).failLane = some 8 ∧ (8 : Nat) ≠ (7 : Fin 9).val ∧
      (1 : Fin 2).val < s.dev.pair.hellos.length ∧ (1 : Fin 2).val < s.dev.pair.links.length ∧ (f.dev.link 1).up = true ∧
      ((f.dev.link 1).txSeq + 2 ^ 24 - (2#24).toNat) % 2 ^ 24 = (f.dev.link 1).kept ∧ ((f.dev.link 1).txSeq + 2 ^ 24 - (5#24).toNat) % 2 ^ 24 = 0 ∧
      (f.dev.link 1).kept < ((f.dev.link 1).txSeq + 2 ^ 24 - (1#24).toNat) % 2 ^ 24 := by decide +kernel
def waitActive : WaitAttach := { seq := 9, func := 0, stream := 0, mirrorId := 77, active := true }
def otherSide (job : Nat) : PartnerAttach :=
  { mirrorId := 77, active := false, refused := false, job := job, cls := 0, rerun := 0, param := [], pkgDigest := [], modelDigest := [] }
theorem met_MirrorSlotCommandsComplete_match :
    let s := pairState [linkUp, linkUp] 0 fun p => { p with waiting := [waitActive] }
    let x := bareStream 1 true []
    let c := contractOf (blockOf 64 [(2, 2)]) (seatOf (some 0))
    s.dev.serving = true ∧ (s.dev.pair.waiting.find? fun v => v.mirrorId == (otherSide 3).mirrorId && v.active != (otherSide 3).active) = some waitActive ∧
      s.dev.stream 0 = some x ∧ s.dev.seatOf x = some (c, seatOf (some 0)) ∧ s.dev.mirrors = true ∧ c.job ≠ (otherSide 3).job ∧
      c.job = (otherSide 2).job ∧ u8At c.cpb 4 = (otherSide 2).cls ∧ c.rerunA = (otherSide 2).rerun ∧
      mirrorParam x.medium x.param = mirrorParam x.medium (otherSide 2).param ∧ (s.dev.pkgOf x).pkgDigest = (otherSide 2).pkgDigest ∧
      (otherSide 2).refused = false ∧ waitActive.active = true ∧ s.dev.slotOf 0 = none ∧ s.dev.pair.slots.length < 1024 ∧ x.medium ≠ 0 ∧
      s.dev.pair.booked (!waitActive.active) + (s.dev.mirrorBooking c x).1 ≤ 950 := by decide +kernel
def slotState (t : Slot) (time : Nat) : State := pairState [linkUp, linkUp] time fun p => { p with slots := [(1023, t)] }
def image0 : EpochImage :=
  { header := [], bound := true, short := none, long := none, last := none, adapter := [], scratch := [], rcF := 0, rcNext := 0, rcBits := []
    rcQ := [], rcLog := [], nextUnit := 0, lastPicId := none, frame := none, lastUnit := none, sinceI := 0, sinceLong := 0, sticky := false
    derived := false, lastOutput := [], digest := [], sliceIdx := none, model := [] }
def sent0 (times : Nat) : Sent := { number := 4, times := times, opened := 0, full := false, image := image0, bufs := [] }
theorem met_MirrorSlotCommandsComplete_epochs :
    let o := slotState { Slot.free with role := .active, ready := [image0] } 0
    let s := slotState { Slot.free with role := .active, sent := [sent0 3, { sent0 2 with number := 5 }], period := 5 } 12
    let b := slotState { Slot.free with role := .standby, epochNo := some 3 } 0
    o.dev.serving = true ∧ (o.dev.slot 1023).ready = image0 :: [] ∧ o.dev.stream (o.dev.slot 1023).stream = some (bareStream 1 true []) ∧
      (o.dev.slot 1023).role = .active ∧ (o.dev.slot 1023).state ≠ .conflict ∧ (o.dev.slot 1023).foreign = false ∧
      o.dev.mirrors = true ∧
      image0.nextUnit ≤ (bareStream 1 true []).delivered ∧
      (b.dev.slot 1023).role = .standby ∧ (b.dev.slot 1023).foreign = false ∧ b.dev.mirrors = true ∧ (b.dev.slot 1023).epochNo.isSome = true ∧
      (s.dev.slot 1023).role = .active ∧ ((s.dev.slot 1023).sent.find? fun f => f.number == (4#32).toNat) = some (sent0 3) ∧ 3 ≤ (sent0 3).times ∧
      ((s.dev.slot 1023).sent.find? fun f => f.number == (5#32).toNat) = some { sent0 2 with number := 5 } ∧ (sent0 2).times < 3 ∧
      sent0 3 ∈ (s.dev.slot 1023).sent ∧ 2 * (s.dev.slot 1023).period * 6 ≤ (s.dev.sys.time - (sent0 3).opened) * 5 := by decide +kernel
theorem met_MirrorSlotCommandsComplete_switch :
    let s := slotState { Slot.free with role := .active, switchSeq := some 6, switchOut := true } 0
    let h := slotState { Slot.free with role := .held } 0
    s.dev.serving = true ∧ (s.dev.slot 1023).switchSeq = some 6 ∧ (s.dev.slot 1023).role = .active ∧ (s.dev.slot 1023).switchOut = true ∧
      (h.dev.slot 1023).role = .held := by decide +kernel

/-! Hypotheses met: arithmetic, the whole machine -/

theorem met_ExactShiftsRoundToNearestEven : 2 * ((3 : Int) - rshiftRne 3 1 * 2 ^ 1).natAbs = 2 ^ 1 ∧ 1 ≤ 1 := by decide +kernel
theorem met_NarrowCodesPackLowestFirst :
    (∀ x ∈ [1, 15, 0], x < 16) ∧ [1, 15, 0][2 * 1]? = some 0 ∧ [1, 15, 0][2 * 0 + 1]? = some 15 ∧ (∀ x ∈ [1, 3, 0, 2], x < 4) ∧
      [1, 3, 0, 2][4 * 0 + 3]? = some 2 ∧ 0 < [0x5A#8].length := by decide +kernel
theorem met_OnlyDataCommandsWriteMemory : keepsMemory .freeze = true ∧ ∃ t : State, exec .freeze (readyWith id) = .next t :=
  ⟨by decide +kernel, ⟨_, rfl⟩⟩


/-! Worked examples of the spec. The expected values are the chapters' own tables. -/

/-- Requantising three sums (R34). -/
theorem test_requantise : [40, -40, 2100].map (fun x => requantise x 4 8 false) = [2, -2, 127] := by decide +kernel
/-- INT8 v = 200 and its shift (R10). -/
theorem test_narrow_wraps : narrow 200 8 true = -56 ∧ narrow 200 8 false = 127 := by decide +kernel
/-- One E4M3 group: S = 134,217,689 at 2^-11, and the accumulator 65,535.98046875 (R41, R42). -/
theorem test_e4m3_group :
    let ps := [(0x78, 0x78), (0x09, 0x21), (0xBB, 0x08)].map fun e => (cellOp .e4m3 e.1).mul (cellOp .e4m3 e.2)
    groupValue ps (windowBits .e4m3) = .fin false 134217689 (-11) ∧ accAdd .fp32 0 (groupValue ps (windowBits .e4m3)) = 0x477FFFFB := by
  decide +kernel
/-- One lane's draws (R52). -/
theorem test_stochastic_draws :
    let a := srDraw (srSeed 1 0) 12
    let b := srDraw a.1 12
    let c := srDraw b.1 12
    [a.2, b.2, c.2] = [0, 64, 2524] ∧ c.1 = 0x9DCCA8C5 := by decide +kernel
/-- 1.171875 to E4M3 with those draws: 1.25, 1.25 and 1.125 (R54). -/
theorem test_stochastic_convert :
    [0, 64, 2524].map (fun r => (convert .fp32 .e4m3 (.sr 12 r) true 0x3F960000).1) = [0x3A, 0x3A, 0x39] := by decide +kernel

/-- Tables of the four-element example: the cdf values it names. -/
def toyTable : List Nat :=
  0 :: List.replicate 126 2 ++ [2000, 14000, 38000, 50000] ++ List.replicate 126 65536
def toyUnit : List Coded := [⟨toyTable, 0, false, 0⟩, ⟨toyTable, 1, false, 0⟩, ⟨toyTable, 300, true, 0⟩, ⟨toyTable, -1, false, 0⟩]
/-- Four elements (R167 to R169): 130 bytes, their head and their last word. -/
theorem test_entropy_encode :
    let b := encodeUnit toyUnit
    b.length = 130 ∧ leNat (b.take 16) = leNat [0x30, 0x7B, 2, 0, 0x10, 0xAA, 5, 0, 0, 0, 0, 0x96, 0x70, 0x1D, 5, 0] ∧
      b.drop 128 = [0x00, 0x01] := by decide +kernel
/-- Their residuals and codes (R165, R166), with y in binary32. -/
theorem test_residuals :
    [formResidual 0x3E99999A 1 2 0 1, formResidual 0x3ECCCCCD (-3) 2 0 1, formResidual 0x4396999A 6 2 0 1, formResidual 0xBF666666 0 2 1 1] =
      [(0, false, false), (1, false, false), (300, true, false), (-1, false, false)] ∧
    [symbolCode 0 1 2, symbolCode 1 (-3) 2, symbolCode 300 6 2, symbolCode (-1) 0 2] = [1, 1, 1206, -4] := by decide +kernel
/-- Rate control's logarithm (R227). -/
theorem test_lg8 : [16000, 9803, 60, 2560, 0].map lg8 = [111, 105, 47, 90, 0] := by decide +kernel
/-- Fade at 48 kHz (R248). -/
theorem test_fade : [fade 10000 1 0 480, fade 10000 2 479 480, fade 10000 4 479 480] = [9995, 5000, 0] := by decide +kernel
/-- Two elements of an FP64 block (R253, R254): x = 1.2509765625 and infinity, with v = 10112 and e = 2^-10. -/
theorem test_field_elements :
    fieldEncode 0x3FF4040000000000 10112 0x3F50000000000000 false = (false, 8) ∧ fieldEncode 0x7FF0000000000000 10112 0x3F50000000000000 false = (true, 0) ∧
      fieldReconstruct 10112 8 0x3F50000000000000 false = 0x3FF4000000000000 := by decide +kernel
/-- The unit check value of "123456789" (R187). -/
theorem test_crc : crc32c ("123456789".toList.map fun c => BitVec.ofNat 8 c.toNat) = 0xE3069283 := by decide +kernel

def abcZlib : Bytes := [0x78, 0x01, 0x01, 0x03, 0x00, 0xFC, 0xFF, 0x61, 0x62, 0x63, 0x02, 0x4D, 0x01, 0x27]
/-- A zlib round trip (R312 to R314). -/
theorem test_zlib_compress : compress 1 0 [0x61, 0x62, 0x63] = abcZlib := by decide +kernel
/-- A decompression's status and bytes. -/
def unpacked (b : Bytes) (cap : Nat) : Nat × Bytes :=
  match decompress 1 b cap [] with
  | .ok x => (0, x)
  | .error e => (e, [])
/-- Its five decompressions (R315 to R319). -/
theorem test_zlib_decompress :
    [unpacked abcZlib 3, unpacked abcZlib 2, unpacked (abcZlib.take 13 ++ [0x28]) 3, unpacked (abcZlib.take 10) 3, unpacked (abcZlib ++ [0]) 3] =
      [(0, [0x61, 0x62, 0x63]), (0x24, []), (0x23, []), (0x25, []), (0x22, [])] := by decide +kernel

/-- A diagonal move (R303 to R305) in host memory, and its completion. -/
theorem test_diagonal_move :
    let m : Bytes := [0, 1, 2, 0xEE, 0x10, 0x11, 0x12, 0xEE, 0x20, 0x21, 0x22, 0xEE, 0xEE, 0xEE, 0xEE, 0xEE]
    let fs := [(0, 0x78), (16, 0x100), (24, 0x105), (32, 3), (36, 3), (40, 4), (44, 4)]
    let s := descState fs fun d => { d with hmem := Mem.writeN [] 0x100 m }
    (match exec (.copy2d (descWith fs)) s with
      | .next t => t.dev.hmem.readN 0x100 16
      | _ => []) = [0, 1, 2, 0xEE, 0x10, 0, 1, 2, 0x20, 0x10, 0x11, 0x12, 0xEE, 0x20, 0x21, 0x22] := by decide +kernel
/-- Raising a plain's minimum voltage (R416, R417). -/
theorem test_calibration :
    let s : State := { readyWith fun d => d.setRegN CAL (4 * 256 + 3) with fuses := { Fuses.blank with cal := [(4 * 256 + 3, 660)] } }
    let t : State := { s with clk := { s.clk with calUser := [(4 * 256 + 3, 50)] } }
    s.readReg 0 .bar0 0x030004 = some 0x0294 ∧ t.readReg 0 .bar0 0x03000C = some 0x000102BC := by decide +kernel
/-- The identity registers (R438). -/
theorem test_identity : (readyWith id).readReg 0 .bar0 0 = some 0x0C811F6E := by decide +kernel
/-- Reading a repair: row 6 of array 1 of tile 0x25 of plain 3 (R105). -/
theorem test_repair_read :
    let s := readyWith fun d => (d.setRegN (PLN 3 + 0x1000) 0x25).setPlain 3 { Plain.reset with arrays := [(4 * 39 + 1, (some 6, [], false))] }
    s.readReg 0 .bar0 0x131014 = some 0x0D := by decide +kernel


/-! Bounded records -/

/-- A bounded 1 × 1 CONV with E4M3 operands, 3 input channels, 1 output channel, offsets named, in a package with WGT_B bytes w. -/
def convRec (outFmt vec : Nat) : Rec :=
  leBytes 128 ([(0, 1), (1, 1), (2, 0x44), (3, outFmt), (4, 1), (5, 1), (6, 1), (7, 1), (12, 1), (14, 16), (16, 3), (18, 1), (23, 12), (32, 1),
    (44, 0), (45, 8), (76, 0), (80, noOff), (84, noOff), (88, noOff), (92, noOff), (96, vec)].foldl (fun a e => a + e.2 * 2 ^ (8 * e.1)) 0)
def convPkg (w aux : Bytes) : Pkg :=
  { pkgDigest := [], modelDigest := [], digests := []
    sections := [(3, leBytes 12 0 ++ leBytes 4 128 ++ leBytes 4 aux.length ++ leBytes 108 0 ++ aux), (5, w)] }
/-- The activations of the worked example of R47, and the weights. -/
def groupX : BPos := { q := [0x78, 0x09, 0xBB], rho := [0], fmt := .e4m3, wide := false }
def groupW : Bytes := [0x78, 0x21, 0x08]
/-- The worked example of R47 as a record's position: the accumulator holds 65,535.98046875; read as FP16 the group is exact (R39, R41). -/
theorem test_conv_bounded :
    (convPkg groupW []).convBounded 1 (convRec 7 noOff) [some groupX] false id 0 = 0x477FFFFB ∧
    (convPkg groupW []).convBounded 1 (convRec 7 noOff) [some groupX] true id 0 = 0x477FFFFB ∧
    (convPkg groupW []).issueBounded 1 (convRec 7 noOff) [some groupX] true 0 0 = [.fin false (134217689 * 2 ^ 12 + 256) (-23)] := by
  decide +kernel
/-- A row exponent adds to the operand's exponent (R37): 256 × 2^3 × 256. -/
theorem test_conv_row_exponent :
    (convPkg groupW []).convBounded 1 (convRec 7 noOff) [some { groupX with q := [0x78, 0, 0], rho := [3] }] false id 0 = 0x49000000 := by
  decide +kernel
/-- A vector list (R143): T1 = 1.0 × 2.0, then destination 0 = T1 + the read-out value. -/
theorem test_vector_list :
    let imm := leBytes 8 0x40000000
    let es : List Bytes := [[3, 1, 0, 8, 0, 0, 0, 0] ++ imm, [1, 0, 1, 0, 0, 0, 0, 0] ++ leBytes 8 0]
    (convPkg [] (es.flatMap id ++ leBytes 16 0)).vecOf 1 (convRec 7 0) = es ∧
    (vecRun .fp32 (fun c f => if c == 0 && f = .fp32 then some 0x3F800000 else none) (fun _ => 0) es).1 = 0x40400000 := by decide +kernel
/-- The draws of lane 0 with seed 1 (R52 to R54): 0, 64, 2,524; 1.171875 becomes the E4M3 codes of 1.25, 1.25, 1.125. -/
theorem test_record_draws :
    let md (n : Nat) := (convRec 4 noOff).roundings .fp32 1 0 n [0]
    [0, 1, 2].map md = [[.sr 12 0], [.sr 12 64], [.sr 12 2524]] ∧
    [0, 1, 2].map (fun n => (rowElem .fp32 .e4m3 448 0 (listGet (md n) 0 .rne) 0x3F960000).1) = [0x3A, 0x3A, 0x39] := by decide +kernel
/-- The bounded average of 1 and 2 over two slivers, and of nothing else (R123). -/
theorem test_gap_bounded :
    let p (c : Int) : BPos := { q := [c], rho := [1], fmt := .fp32, wide := false }
    (gapFloat [[p 0x3F800000], [p 0x40000000]] 0).1 = 0x40400000 := by decide +kernel
/-- UNSUBPIX aligns to the larger exponent (R113): 1.0 at exponent 0 beside exponent 1 becomes 0.5. -/
theorem test_unsubpix_bounded :
    let p (e : Int) : BPos := { q := [0x38], rho := [e], fmt := .e4m3, wide := false }
    let r : Rec := leBytes 128 (3 + 2 ^ 8 + 0x44 * 2 ^ 16 + 4 * 2 ^ 24)
    r.moveFloat [(p 0, 0), (p 1, 0)] = ([0x30, 0x38], [1], false, {}) := by decide +kernel

end Sys2Proof.Tests
end

section
/-!
Byte order (R6) and writes to host memory (R301): the bytes of a number, what a count of events leaves alone, and the statement about both.
-/
namespace Sys2Proof.Machine

/-! The bytes of a number, lowest first -/

theorem two_pow_eight_mul_succ (n : Nat) : 2 ^ (8 * (n + 1)) = 256 * 2 ^ (8 * n) := by
  rw [Nat.mul_succ, Nat.pow_add, Nat.mul_comm]

@[simp] theorem length_leBytes (n v : Nat) : (leBytes n v).length = n := by
  induction n generalizing v with
  | zero => rfl
  | succ n ih => simp [leBytes, ih]

/-- The lowest byte of v and the n bytes above it are v's lowest n + 1 bytes (`Nat.mod_mul`). -/
theorem leNat_leBytes (n v : Nat) : leNat (leBytes n v) = v % 2 ^ (8 * n) := by
  induction n generalizing v with
  | zero => simp [leBytes, leNat, Nat.mod_one]
  | succ n ih => simp [leBytes, leNat, ih, two_pow_eight_mul_succ, Nat.mod_mul]

theorem getElem?_leBytes {n k : Nat} (v : Nat) (h : k < n) : (leBytes n v)[k]? = some (BitVec.ofNat 8 (v / 2 ^ (8 * k))) := by
  induction n generalizing v k with
  | zero => omega
  | succ n ih =>
    cases k with
    | zero => simp [leBytes]
    | succ k =>
      rw [two_pow_eight_mul_succ, ← Nat.div_div_eq_div_mul]
      simpa [leBytes] using ih (v / 256) (by omega)

/-! A write to host memory -/

/-- Counting an event changes the counters' part of the device alone. -/
theorem Dev.count_eq (s : Dev) (e n : Nat) : s.count e n = { s with inst := (s.count e n).inst } := by
  unfold Dev.count
  split <;> rfl

theorem Dev.hostWrite_hmem {s t : Dev} {a : Nat} {b : Bytes} (h : s.hostWrite a b = some t) : t.hmem = s.hmem.writeN a b := by
  rw [Dev.hostWrite_eq h, Dev.count_hmem]
  rfl

/-- A write to host memory changes that memory and the counters' part of the device, and nothing else. -/
theorem Dev.hostWrite_eq_with_hmem_inst {s t : Dev} {a : Nat} {b : Bytes} (h : s.hostWrite a b = some t) :
    t = { s with hmem := t.hmem, inst := t.inst } := by
  rw [Dev.hostWrite_eq h, Dev.count_hmem]
  exact Dev.count_eq (s.putHost a b) (ev 11 1) b.length

/-- Settles O8: the bytes of a number by induction on how many there are, a write by what `Mem.writeN` stores and leaves alone. -/
theorem bytesAreStoredLowestFirst : Obligations.BytesAreStoredLowestFirst := by
  unfold Obligations.BytesAreStoredLowestFirst
  refine ⟨fun n v => ⟨length_leBytes n v, leNat_leBytes n v, fun k hk => getElem?_leBytes v hk⟩, fun s t a b h => ?_⟩
  have hmem := Dev.hostWrite_hmem h
  refine ⟨fun wf => ?_, fun x hx => ?_, fun wf => ?_, Dev.hostWrite_eq_with_hmem_inst h⟩
  · rw [hmem]; exact Mem.readN_writeN_same s.hmem a b wf
  · rw [hmem]; exact Mem.read_writeN_other s.hmem a x b hx
  · rw [hmem]; exact Mem.wf_writeN s.hmem a b wf

end Sys2Proof.Machine
end

section
/-!
The exact class's right shift (R34) and narrowing (R33): when the shift rounds up and what its error is, wrapping as the balanced remainder, and the
statement about both.
-/
namespace Sys2Proof.Machine

theorem two_pow_succ_int (n : Nat) : (2 : Int) ^ (n + 1) = 2 * 2 ^ n :=
  (Int.pow_succ 2 n).trans (Int.mul_comm (2 ^ n) 2)

theorem natCast_two_pow (n : Nat) : ((2 ^ n : Nat) : Int) = 2 ^ n :=
  Int.natCast_pow 2 n

theorem two_pow_pos_int (n : Nat) : (0 : Int) < 2 ^ n :=
  Int.pow_pos (by decide)

theorem sub_ediv_mul_eq_emod (x d : Int) : x - x / d * d = x % d := by
  rw [Int.emod_def, Int.mul_comm]

/-! Right shift to nearest, ties to even -/

theorem rshiftRne_zero (x : Int) : rshiftRne x 0 = x := rfl

/-- Where a shift by n + 1 rounds up: the remainder is more than half a unit, or is half of one under an odd quotient. -/
def RoundsUp (x : Int) (n : Nat) : Prop := 2 ^ n < x % 2 ^ (n + 1) ∨ x % 2 ^ (n + 1) = 2 ^ n ∧ x / 2 ^ (n + 1) % 2 = 1

theorem rshiftRne_succ_cases (x : Int) (n : Nat) :
    RoundsUp x n ∧ rshiftRne x (n + 1) = x / 2 ^ (n + 1) + 1 ∨ ¬ RoundsUp x n ∧ rshiftRne x (n + 1) = x / 2 ^ (n + 1) := by
  simp only [rshiftRne, beq_iff_eq, Nat.succ_ne_zero, if_false, Nat.add_sub_cancel, natCast_two_pow, sub_ediv_mul_eq_emod, gt_iff_lt,
    Bool.or_eq_true, Bool.and_eq_true, decide_eq_true_eq]
  by_cases up : RoundsUp x n
  · exact .inl ⟨up, if_pos up⟩
  · exact .inr ⟨up, if_neg up⟩

/-- The error of a shift is the floor's remainder, less a whole unit where the shift rounds up: `RoundsUp` keeps it within half a unit, and lets it
be half of one only at an even result. -/
theorem rshiftRne_succ_nearest_even (x : Int) (n : Nat) :
    2 * (x - rshiftRne x (n + 1) * 2 ^ (n + 1)).natAbs ≤ 2 ^ (n + 1) ∧
      (2 * (x - rshiftRne x (n + 1) * 2 ^ (n + 1)).natAbs = 2 ^ (n + 1) → rshiftRne x (n + 1) % 2 = 0) := by
  have unit_pos := two_pow_pos_int (n + 1)
  have rem_nonneg := Int.emod_nonneg x (Int.ne_of_gt unit_pos)
  have rem_lt := Int.emod_lt_of_pos x unit_pos
  have rem_eq := sub_ediv_mul_eq_emod x (2 ^ (n + 1))
  have unit_eq := two_pow_succ_int n
  have half_cast := natCast_two_pow n
  obtain ⟨up, shift_eq⟩ | ⟨up, shift_eq⟩ := rshiftRne_succ_cases x n
  · have error_eq : x - (x / 2 ^ (n + 1) + 1) * 2 ^ (n + 1) = x % 2 ^ (n + 1) - 2 ^ (n + 1) := by
      rw [Int.add_mul, Int.one_mul, ← Int.sub_sub, rem_eq]
    rw [shift_eq, error_eq]
    unfold RoundsUp at up
    omega
  · rw [shift_eq, rem_eq]
    unfold RoundsUp at up
    omega

/-! Narrowing -/

theorem narrow_saturating (x : Int) (n : Nat) :
    narrow x n false = if x < -(2 ^ (n - 1)) then -(2 ^ (n - 1)) else if 2 ^ (n - 1) - 1 < x then 2 ^ (n - 1) - 1 else x := by
  simp only [narrow, Bool.false_eq_true, if_false, natCast_two_pow, gt_iff_lt]

/-- Wrapping takes the balanced remainder (`Int.bmod`): the half it compares the remainder with is 2 ^ n. -/
theorem narrow_wrapping_eq_bmod (x : Int) (n : Nat) : narrow x (n + 1) true = x.bmod (2 ^ (n + 1)) := by
  have unit_eq := two_pow_succ_int n
  have below_half : x % 2 ^ (n + 1) < (2 ^ (n + 1) + 1) / 2 ↔ ¬ 2 ^ n - 1 < x % 2 ^ (n + 1) := by omega
  simp only [narrow, Int.bmod_def, if_true, Nat.add_sub_cancel, natCast_two_pow, gt_iff_lt, below_half]
  by_cases high : 2 ^ n - 1 < x % 2 ^ (n + 1)
  · rw [if_pos high, if_neg (not_not_intro high)]
  · rw [if_neg high, if_pos high]

theorem narrow_wrapping_congruent (x : Int) (n : Nat) : (narrow x (n + 1) true - x) % 2 ^ (n + 1) = 0 := by
  rw [narrow_wrapping_eq_bmod, ← natCast_two_pow]
  exact Int.emod_eq_zero_of_dvd Int.dvd_bmod_sub_self

theorem narrow_wrapping_bounds (x : Int) (n : Nat) : -(2 ^ n) ≤ narrow x (n + 1) true ∧ narrow x (n + 1) true ≤ 2 ^ n - 1 := by
  have low := Int.le_bmod (x := x) (Nat.two_pow_pos (n + 1))
  have high := Int.bmod_lt (x := x) (Nat.two_pow_pos (n + 1))
  rw [natCast_two_pow, two_pow_succ_int] at low high
  rw [narrow_wrapping_eq_bmod]
  omega

/-- Settles O58: the shift by whether it rounds up, wrapping by the library's facts about balanced remainders. -/
theorem exactShiftsRoundToNearestEven : Obligations.ExactShiftsRoundToNearestEven := by
  unfold Obligations.ExactShiftsRoundToNearestEven
  refine ⟨fun x n => ?_, fun x n hn => ⟨narrow_saturating x n, ?_⟩⟩
  · cases n with
    | zero =>
      have exact_shift : x - rshiftRne x 0 * 2 ^ 0 = 0 := by rw [rshiftRne_zero, Int.pow_zero, Int.mul_one, Int.sub_self]
      rw [exact_shift]
      exact ⟨by decide, fun h => absurd h (by decide), fun _ _ => rfl⟩
    | succ n =>
      obtain ⟨nearest, even⟩ := rshiftRne_succ_nearest_even x n
      exact ⟨nearest, even, fun _ _ => rfl⟩
  · obtain ⟨n, rfl⟩ := Nat.exists_eq_add_of_le' hn
    exact ⟨narrow_wrapping_congruent x n, narrow_wrapping_bounds x n⟩

end Sys2Proof.Machine
end

section
/-!
Codes narrower than a byte (R28): the number a run of codes packs to has the codes as its digits, a code that does not cross a byte's end is read
from one byte, and the statement about both. Throughout, m codes of w bits fill a byte.
-/
namespace Sys2Proof.Machine

/-! Packing -/

/-- The number whose digits to the base 2 ^ w are the codes, lowest first. -/
def packedNumber (w : Nat) (l : List Nat) : Nat := l.foldr (fun c a => c + a * 2 ^ w) 0

theorem packCodes_eq_leBytes (w : Nat) (l : List Nat) : packCodes w l = leBytes (ceilDiv (l.length * w) 8) (packedNumber w l) := rfl

theorem packedNumber_cons (w c : Nat) (l : List Nat) : packedNumber w (c :: l) = c + packedNumber w l * 2 ^ w := rfl

theorem packedNumber_div_pow_mod {w i c : Nat} {l : List Nat} (hl : ∀ x ∈ l, x < 2 ^ w) (h : l[i]? = some c) :
    packedNumber w l / (2 ^ w) ^ i % 2 ^ w = c := by
  induction l generalizing i with
  | nil => cases h
  | cons d l ih =>
    obtain ⟨d_lt, l_lt⟩ := List.forall_mem_cons.1 hl
    cases i with
    | zero =>
      cases h
      rw [packedNumber_cons, Nat.pow_zero, Nat.div_one, Nat.add_mul_mod_self_right, Nat.mod_eq_of_lt d_lt]
    | succ i =>
      have rest_eq : (d + packedNumber w l * 2 ^ w) / 2 ^ w = packedNumber w l := by
        rw [Nat.add_mul_div_right _ _ (Nat.two_pow_pos w), Nat.div_eq_of_lt d_lt, Nat.zero_add]
      rw [packedNumber_cons, Nat.pow_succ', ← Nat.div_div_eq_div_mul, rest_eq]
      exact ih l_lt h

section
variable {w m j : Nat} (hw : m * w = 8) (hj : j < m)
include hw

theorem index_mul_width (k i : Nat) : (m * k + i) * w = 8 * k + i * w := by
  rw [Nat.add_mul, Nat.mul_right_comm, hw]

theorem width_pos : 0 < w := Nat.pos_of_ne_zero fun h => by subst h; omega

include hj

theorem place_add_width_le : j * w + w ≤ 8 := by
  rw [← hw, ← Nat.succ_mul]
  exact Nat.mul_le_mul_right w hj

/-- A code of a byte does not see what lies above the byte. -/
theorem mod_byte_div_mod (v : Nat) : v % 2 ^ 8 / (2 ^ w) ^ j % 2 ^ w = v / (2 ^ w) ^ j % 2 ^ w := by
  have byte_eq : 2 ^ 8 = (2 ^ w) ^ j * (2 ^ w) ^ (m - j) := by
    rw [← Nat.pow_add, Nat.add_sub_of_le (Nat.le_of_lt hj), ← Nat.pow_mul, Nat.mul_comm, hw]
  have code_dvd : (2 ^ w) ^ 1 ∣ (2 ^ w) ^ (m - j) := Nat.pow_dvd_pow (2 ^ w) (Nat.sub_pos_of_lt hj)
  rw [Nat.pow_one] at code_dvd
  rw [byte_eq, Nat.mod_mul_right_div_self, Nat.mod_mod_of_dvd _ code_dvd]

theorem exists_byte_packCodes {k c : Nat} {l : List Nat} (hl : ∀ x ∈ l, x < 2 ^ w) (h : l[m * k + j]? = some c) :
    ∃ b : Byte, (packCodes w l)[k]? = some b ∧ b.toNat / (2 ^ w) ^ j % 2 ^ w = c := by
  have byte_lt : k < ceilDiv (l.length * w) 8 := by
    have bits_le := Nat.mul_le_mul_right w (List.getElem?_eq_some_iff.1 h).1
    rw [Nat.succ_mul, index_mul_width hw] at bits_le
    have pos := width_pos hw
    unfold ceilDiv
    omega
  have byte_eq : 2 ^ (8 * k) = (2 ^ w) ^ (m * k) := by
    rw [← Nat.pow_mul, ← Nat.mul_assoc, Nat.mul_comm w, hw]
  refine ⟨_, by rw [packCodes_eq_leBytes, getElem?_leBytes _ byte_lt], ?_⟩
  rw [BitVec.toNat_ofNat, mod_byte_div_mod hw hj, byte_eq, Nat.div_div_eq_div_mul, ← Nat.pow_add]
  exact packedNumber_div_pow_mod hl h

/-! Reading -/

theorem codeAt_eq_u8At_div_mod (b : Bytes) (k : Nat) : codeAt w b (m * k + j) = u8At b k / (2 ^ w) ^ j % 2 ^ w := by
  have fits := place_add_width_le hw hj
  have pos := width_pos hw
  have byte_eq : (8 * k + j * w) / 8 = k := by omega
  have place_eq : (8 * k + j * w) % 8 = j * w := by omega
  have one_byte : ceilDiv (j * w + w) 8 = 1 := by unfold ceilDiv; omega
  rw [codeAt, index_mul_width hw, byte_eq, place_eq, one_byte, bits, u8At, ← Nat.pow_mul, Nat.mul_comm w]

end

theorem u8At_lt (b : Bytes) (k : Nat) : u8At b k < 256 := by
  unfold u8At fieldAt
  cases b.drop k with
  | nil => decide
  | cons x xs =>
    have byte_lt := x.isLt
    simp only [List.take_succ_cons, List.take_zero, leNat]
    omega

/-- Settles O59: at widths 4 and 2, what packing stores and what reading finds of codes that fill a byte. -/
theorem narrowCodesPackLowestFirst : Obligations.NarrowCodesPackLowestFirst := by
  unfold Obligations.NarrowCodesPackLowestFirst
  have two_fill : 2 * 4 = 8 := rfl
  have four_fill : 4 * 2 = 8 := rfl
  refine ⟨fun l k c hl => ⟨fun h => ?_, fun h => ?_⟩, fun l k j c hl hj h => exists_byte_packCodes four_fill hj hl h,
    fun l k _ => ⟨?_, ?_, fun j hj => congrArg Nat.cast (codeAt_eq_u8At_div_mod four_fill hj l k)⟩⟩
  · obtain ⟨b, hb, hc⟩ := exists_byte_packCodes (j := 0) two_fill (by decide) hl h
    exact ⟨b, hb, by omega⟩
  · obtain ⟨b, hb, hc⟩ := exists_byte_packCodes (j := 1) two_fill (by decide) hl h
    exact ⟨b, hb, by omega⟩
  · have code := codeAt_eq_u8At_div_mod (j := 0) two_fill (by decide) l k
    exact congrArg Nat.cast (code.trans (by omega))
  · have code := codeAt_eq_u8At_div_mod (j := 1) two_fill (by decide) l k
    have lt := u8At_lt l k
    exact congrArg Nat.cast (code.trans (by omega))

end Sys2Proof.Machine
end

section
/-!
Micro-instructions of a record that a tile runs (R66, R69, R82 to R88, R94 to R103, R116): what dispatching one comes to while its tile runs, and the
statement about each of them.
-/
namespace Sys2Proof.Machine

/-! Dispatch on a tile that runs (R100, R102) -/

/-- A micro-instruction of no record whose body has no double-bit error takes effect and retires. -/
theorem State.dispatch_of_tileRuns {s t : State} {tile code : Nat} {body : State → Option State} (runs : s.tileRuns tile = true)
    (effect : body (s.naming tile code 0 0) = some t) : s.dispatch tile code body = t.retire tile := by
  rw [State.dispatch, if_pos runs]
  exact congrArg (State.finish _ tile) effect

/-- A micro-instruction of a record whose body has no double-bit error takes effect in the state that it is issued in, and retires. -/
theorem State.dispatchRec_of_issues {s t : State} {tile code n : Nat} {c : RecCtx} {body : RecCtx → State → Option State}
    (issues : s.Issues tile n c) (effect : body c (s.issued tile code n c) = some t) : s.dispatchRec tile code n body = t.retire tile := by
  obtain ⟨ctx, runs⟩ := issues
  simp only [State.dispatchRec, ctx, if_pos runs]
  exact congrArg (State.finish _ tile) effect

section
variable {s : State} {tile : Fin 2048} {n : Fin 24} {c : RecCtx} (issues : s.Issues tile n c)
include issues

/-- MAC counts its first start slot as an issue, the others as extra slots (R84). -/
theorem exec_mac_of_issues (o : MacOp) :
    exec (.mac tile n o) s =
      .next ((((s.issued tile 0x04 n c).modTile tile fun x => x.mac c.r ((s.issued tile 0x04 n c).repairOf tile) o).tileCount tile
        (if o.pass.val = 0 then 1 else 3) 1).retire tile) := by
  refine congrArg Host.Outcome.next (State.dispatchRec_of_issues issues ?_)
  simp only [beq_iff_eq]

/-- MACT accumulates with its last start slot, and in a bounded record only (R82, R84). -/
theorem exec_mact_of_issues (o : MactOp) :
    exec (.mact tile n o) s =
      .next (State.retire
        (State.tileCount
          (if o.pass.val + 1 = c.r.slots false o.wide ∧ c.r.exact = false then
            (s.issued tile 0x05 n c).modTile tile fun x => x.mact c.r ((s.issued tile 0x05 n c).repairOf tile) o
           else s.issued tile 0x05 n c)
          tile (if o.pass.val = 0 then 2 else 3) 1) tile) := by
  refine congrArg Host.Outcome.next (State.dispatchRec_of_issues issues ?_)
  simp only [beq_iff_eq, Bool.and_eq_true, decide_eq_true_eq, Bool.not_eq_true']

/-- HWT retires where the halo counter has the value, and else the tile stalls until it has (R116). -/
theorem exec_hwt_of_issues (side : Fin 3) (part : Fin 4) (value : Nat) :
    exec (.hwt tile n side part value) s =
      .next (
        let t := s.issued tile 0x0D n c
        if value ≤ (t.tileOf tile).halos.get (haloKey n side part) 0 then t.retire tile
        else t.modTile tile fun x => { x with stall := some (haloKey n side part, value) }) := by
  obtain ⟨ctx, runs⟩ := issues
  have exec_eq : exec (.hwt tile n side part value) s = execHwt tile n side part value s := rfl
  simp only [exec_eq, execHwt, ctx, runs, Bool.not_true, Bool.false_eq_true, if_false]
  split
  case isTrue => rfl
  case isFalse => rfl

end

/-- Settles O53: MAC, MACT and HWT by their lemmas; the body of every other one is the effect that the statement gives it, so what dispatch comes to
on a tile that runs settles it. -/
theorem tileRecordsComplete : Obligations.TileRecordsComplete := by
  unfold Obligations.TileRecordsComplete
  refine ⟨fun s tile runs => congrArg Host.Outcome.next (State.dispatch_of_tileRuns runs rfl), fun s tile n c issues => ?_⟩
  refine ⟨exec_mac_of_issues issues, exec_mact_of_issues issues, fun entry group rows => ?ard, ?epi, fun group => ?rot, fun x y wide => ?row,
    fun o => ?vop, exec_hwt_of_issues issues, fun restore => ?srs, fun space addr => ?stat, ?endRec⟩
  case ard | epi | rot | row | vop | srs | stat | endRec => exact congrArg Host.Outcome.next (State.dispatchRec_of_issues issues rfl)

end Sys2Proof.Machine
end

section
/-!
Micro-instructions of a tile keep to it (R76, R91, R101): which parts of the state the operations on a tile's state reach, that without a double-bit
error none of their reads fails (R92), and the statement about every micro-instruction but STAT and XFR.
-/
namespace Sys2Proof.Machine

/-! What a tile's micro-instructions may reach -/

/-- What a tile's micro-instructions leave of the device: all but registers, units, instruments and the number of the next free value. -/
structure Dev.TileFrame (s t : Dev) : Prop where
  hmem : t.hmem = s.hmem
  dmem : t.dmem = s.dmem
  media : t.media = s.media
  host : t.host = s.host
  pair : t.pair = s.pair
  chain : t.chain = s.chain
  sys : t.sys = { s.sys with free := t.sys.free }

/-- State t comes of s by what happens on one tile: other tiles are the same, and so is what a tile's micro-instructions leave alone. -/
structure State.OnlyTile (tile : Nat) (s t : State) : Prop where
  others : ∀ k : Nat, k ≠ tile → t.tiles.tiles.get k Tile.blank = s.tiles.tiles.get k Tile.blank
  clk : t.clk = s.clk
  fuses : t.fuses = s.fuses
  pending : t.pending = s.pending
  dev : s.dev.TileFrame t.dev

theorem State.OnlyTile.refl (tile : Nat) (s : State) : s.OnlyTile tile s :=
  ⟨fun _ _ => rfl, rfl, rfl, rfl, ⟨rfl, rfl, rfl, rfl, rfl, rfl, rfl⟩⟩

theorem Dev.TileFrame.trans {a b c : Dev} (h : a.TileFrame b) (k : b.TileFrame c) : a.TileFrame c where
  hmem := k.hmem.trans h.hmem
  dmem := k.dmem.trans h.dmem
  media := k.media.trans h.media
  host := k.host.trans h.host
  pair := k.pair.trans h.pair
  chain := k.chain.trans h.chain
  sys := k.sys.trans (by rw [h.sys])

theorem Dev.tileFrame_count (d : Dev) (e n : Nat) : d.TileFrame (d.count e n) :=
  ⟨d.count_hmem e n, d.count_dmem e n, d.count_media e n, d.count_host e n, d.count_pair e n, d.count_chain e n, by rw [Dev.count_sys]⟩

theorem Dev.tileFrame_trace (d : Dev) (t domain source : Nat) (p : Option Nat) (b : Bytes) : d.TileFrame (d.trace t domain source p b) :=
  ⟨Dev.trace_hmem .., Dev.trace_dmem .., Dev.trace_media .., Dev.trace_host .., Dev.trace_pair .., Dev.trace_chain ..,
    by rw [Dev.trace_sys]⟩

theorem Dev.tileFrame_setPlain (d : Dev) (p : Nat) (x : Plain) : d.TileFrame (d.setPlain p x) := ⟨rfl, rfl, rfl, rfl, rfl, rfl, rfl⟩

theorem Dev.tileFrame_setRegN (d : Dev) (a v : Nat) : d.TileFrame (d.setRegN a v) := ⟨rfl, rfl, rfl, rfl, rfl, rfl, rfl⟩

theorem Dev.tileFrame_draw (d : Dev) : d.TileFrame d.draw.2 := ⟨rfl, rfl, rfl, rfl, rfl, rfl, rfl⟩

/-! Operations that keep to the tile -/

section
variable {tile : Nat} {s t : State} (h : s.OnlyTile tile t)
include h

theorem State.OnlyTile.onDev {f : Dev → Dev} (k : t.dev.TileFrame (f t.dev)) : s.OnlyTile tile (t.onDev f) :=
  { h with dev := h.dev.trans k }

theorem State.OnlyTile.setTile (x : Tile) : s.OnlyTile tile (t.setTile tile x) :=
  { h with others := fun k ne => (SMap.get_put_other _ _ _ _ _ ne).trans (h.others k ne) }

theorem State.OnlyTile.setMesh (m : List HaloMsg) : s.OnlyTile tile { t with tiles := { t.tiles with mesh := m } } :=
  { h with }

theorem State.OnlyTile.modTile (f : Tile → Tile) : s.OnlyTile tile (t.modTile tile f) :=
  h.setTile _

theorem State.OnlyTile.naming (u code rcd stream : Nat) : s.OnlyTile tile (t.naming u code rcd stream) :=
  h.onDev ⟨rfl, rfl, rfl, rfl, rfl, rfl, rfl⟩

theorem State.OnlyTile.tileCount (u e n : Nat) : s.OnlyTile tile (t.tileCount u e n) :=
  h.onDev (Dev.tileFrame_count _ _ _)

theorem State.OnlyTile.retire : s.OnlyTile tile (t.retire tile) :=
  (h.setTile _).tileCount _ _ _

theorem State.OnlyTile.recTrace (u typ : Nat) (c : RecCtx) : s.OnlyTile tile (t.recTrace u typ c) :=
  h.onDev (Dev.tileFrame_trace _ _ _ _ _ _)

theorem State.OnlyTile.beginRec (n : Nat) (c : RecCtx) : s.OnlyTile tile (t.beginRec tile n c) := by
  unfold State.beginRec
  dsimp only
  split
  · exact h
  · exact (h.setTile _).recTrace _ _ _

theorem State.OnlyTile.nextStack : s.OnlyTile tile (t.nextStack tile) := by
  unfold State.nextStack
  dsimp only
  split
  · exact h
  · split
    · exact h.setTile _
    · exact h

/-! Writes of tile SRAM (R89, R91) -/

theorem State.OnlyTile.sramWrite (a : Nat) (b : Bytes) : s.OnlyTile tile (t.sramWrite tile a b) := by
  unfold State.sramWrite
  dsimp only
  split
  · exact (h.setTile _).onDev (Dev.tileFrame_setRegN _ _ _)
  · exact h.setTile _

theorem State.OnlyTile.sramPut (a : Nat) (b : Bytes) : s.OnlyTile tile (t.sramPut tile a b) := by
  unfold State.sramPut
  dsimp only
  split
  · exact h.sramWrite _ _
  · exact (h.sramWrite _ _).sramWrite _ _

theorem State.OnlyTile.codesPut (a bit width : Nat) (codes : List Nat) : s.OnlyTile tile (t.codesPut tile a bit width codes) :=
  h.sramPut _ _

theorem State.OnlyTile.linePut (c : RecCtx) (width y col ch : Nat) (codes : List Nat) (rho : Nat) :
    s.OnlyTile tile (t.linePut tile c width y col ch codes rho) := by
  unfold State.linePut
  exact ((h.codesPut _ _ _ _).sramWrite _ _).modTile _

omit h in
theorem State.OnlyTile.linePutAll {t : State} (h : s.OnlyTile tile t) (c : RecCtx) (width y col rho n ch : Nat) (codes : List Nat) :
    s.OnlyTile tile (State.linePutAll tile c width y col rho n ch codes t) := by
  induction n generalizing t ch codes with
  | zero => exact h
  | succ n ih =>
    unfold State.linePutAll
    split
    · exact h
    · exact ih (h.linePut _ _ _ _ _ _ _) _ _

theorem State.OnlyTile.rowPut (c : RecCtx) (width y x ch : Nat) (codes : List Nat) (rho : Nat) :
    s.OnlyTile tile (t.rowPut tile c width y x ch codes rho) :=
  (h.codesPut _ _ _ _).sramWrite _ _

theorem State.OnlyTile.store (n : Nat) (c : RecCtx) (o : StOp) : s.OnlyTile tile (t.store tile n c o) := by
  unfold State.store
  dsimp only
  split
  · split
    · exact (h.linePut _ _ _ _ _ _ _).modTile _
    · exact h.modTile _
  · exact (h.rowPut _ _ _ _ _ _ _).modTile _

theorem State.OnlyTile.putPosition (rcd part y x : Nat) (c m : RecCtx) (u : Nat × Bool × List Nat) :
    s.OnlyTile tile (t.putPosition tile rcd part y x c m u) := by
  unfold State.putPosition
  dsimp only
  split
  · exact h.linePutAll _ _ _ _ _ _ _ _
  · exact h.modTile _

omit h in
theorem State.OnlyTile.foldl {α : Type} {f : State → α → State} (step : ∀ t x, s.OnlyTile tile t → s.OnlyTile tile (f t x)) {t : State}
    (h : s.OnlyTile tile t) (l : List α) : s.OnlyTile tile (l.foldl f t) := by
  induction l generalizing t with
  | nil => exact h
  | cons x l ih => exact ih (step t x h)

theorem State.OnlyTile.putHalo (m : HaloMsg) (b : Bytes) : s.OnlyTile tile (t.putHalo tile m b) := by
  unfold State.putHalo
  split
  case h_1 =>
    split
    case h_1 => exact h
    case h_2 =>
      dsimp only
      split
      case h_1 => exact h
      case h_2 => exact State.OnlyTile.foldl (fun _ _ k => k.putPosition _ _ _ _ _ _ _) h _
  case h_2 => exact h

end

/-! Reads of tile SRAM without a double-bit error (R92) -/

/-- A tile's SRAM holds no double-bit error. -/
def State.NoDoubleError (s : State) (tile : Nat) : Prop := ((s.tiles.tiles.get tile Tile.blank).planted.any fun e => e.2) = false

/-- The errors in a tile's SRAM stay where its sequencer loads another stack. -/
theorem State.tileOf_planted (s : State) (tile : Nat) : (s.tileOf tile).planted = (s.tiles.tiles.get tile Tile.blank).planted := by
  unfold State.tileOf
  dsimp only
  split
  · rfl
  · split <;> rfl

theorem State.noDoubleError_setTile {s : State} {tile : Nat} {x : Tile} (h : (x.planted.any fun e => e.2) = false) :
    (s.setTile tile x).NoDoubleError tile := by
  rw [State.NoDoubleError, State.setTile, SMap.get_put_same]
  exact h

theorem State.noDoubleError_naming {s : State} {tile : Nat} (h : s.NoDoubleError tile) (u code rcd stream : Nat) :
    (s.naming u code rcd stream).NoDoubleError tile := by
  rwa [State.NoDoubleError, State.naming, State.onDev_tiles]

theorem State.noDoubleError_beginRec {s : State} {tile : Nat} (h : s.NoDoubleError tile) (n : Nat) (c : RecCtx) :
    (s.beginRec tile n c).NoDoubleError tile := by
  unfold State.beginRec
  dsimp only
  split
  · exact h
  · refine State.noDoubleError_setTile (?_ : ((s.tileOf tile).planted.any fun e => e.2) = false)
    rw [State.tileOf_planted]
    exact h

/-- A read answers, in a state that comes of s by what happens on the tile, with no double-bit error in it. -/
def State.Answers {α : Type} (s : State) (tile : Nat) : Option (α × State) → Prop
  | none => False
  | some r => s.OnlyTile tile r.2 ∧ r.2.NoDoubleError tile

/-- An effect is had, on the tile alone. -/
def State.Acts (s : State) (tile : Nat) : Option State → Prop
  | none => False
  | some t => s.OnlyTile tile t

theorem State.OnlyTile.acts {s t : State} {tile : Nat} (h : s.OnlyTile tile t) : s.Acts tile (some t) := h

section
variable {tile : Nat} {s t : State}

theorem State.Answers.bind {α β : Type} {o : Option (α × State)} {f : α × State → Option (β × State)} (h : s.Answers tile o)
    (step : ∀ r : α × State, s.OnlyTile tile r.2 → r.2.NoDoubleError tile → s.Answers tile (f r)) : s.Answers tile (o.bind f) :=
  match o, h with
  | some r, ⟨only, sound⟩ => step r only sound

theorem State.Answers.map {α β : Type} {o : Option (α × State)} (h : s.Answers tile o) (f : α × State → β) :
    s.Answers tile (o.map fun r => (f r, r.2)) :=
  match o, h with
  | some _, h => h

theorem State.Answers.acts {α : Type} {o : Option (α × State)} (h : s.Answers tile o) {f : α × State → State}
    (step : ∀ r : α × State, s.OnlyTile tile r.2 → s.OnlyTile tile (f r)) : s.Acts tile (o.map f) :=
  match o, h with
  | some r, ⟨only, _⟩ => step r only

variable (only : s.OnlyTile tile t) (sound : t.NoDoubleError tile)
include only sound

/-- What a read finds is no double-bit error, and the errors that it corrects are gone. -/
theorem State.answers_sramRead (a n : Nat) : s.Answers tile (t.sramRead tile a n) := by
  have sound' : ∀ e ∈ (t.tileOf tile).planted, e.2 = false := by
    simpa [State.NoDoubleError, ← State.tileOf_planted] using sound
  have correctable : (((t.tileOf tile).errorsIn a n).any fun e => e.2) = false := by
    exact List.any_eq_false.2 fun e mem => by
      simp only [sound' e (List.mem_filter.1 mem).1, Bool.false_eq_true, not_false_eq_true]
  unfold State.sramRead
  dsimp only
  rw [if_neg (by rw [correctable]; decide)]
  split
  · exact ⟨only, sound⟩
  · refine ⟨((only.setTile _).onDev (Dev.tileFrame_setPlain _ _ _)).tileCount _ _ _, ?_⟩
    refine State.noDoubleError_setTile (s := t) ?_
    exact List.any_eq_false.2 fun e mem => by
      simp only [sound' e (List.mem_filter.1 mem).1, Bool.false_eq_true, not_false_eq_true]

omit only sound in
theorem State.answers_readRuns (l : List (Nat × Nat)) {t : State} (only : s.OnlyTile tile t) (sound : t.NoDoubleError tile) :
    s.Answers tile (State.readRuns tile l t) := by
  induction l generalizing t with
  | nil => exact ⟨only, sound⟩
  | cons e l ih => exact (State.answers_sramRead only sound _ _).bind fun r only' sound' => (ih only' sound').map _

theorem State.answers_lineGet (c : RecCtx) (width y col ch n : Nat) : s.Answers tile (t.lineGet tile c width y col ch n) :=
  (State.answers_readRuns _ only sound).map _

theorem State.answers_outGet (n : Nat) (c : RecCtx) (y x : Nat) : s.Answers tile (t.outGet tile n c y x) := by
  unfold State.outGet
  dsimp only
  split
  · split
    · exact (State.answers_lineGet only sound _ _ _ _ _ _).map _
    · exact ⟨only, sound⟩
  · exact (State.answers_readRuns _ only sound).map _

omit only sound in
theorem State.answers_outUnits (n y : Nat) (c : RecCtx) (l : List Nat) {t : State} (only : s.OnlyTile tile t) (sound : t.NoDoubleError tile) :
    s.Answers tile (State.outUnits tile n y c l t) := by
  induction l generalizing t with
  | nil => exact ⟨only, sound⟩
  | cons x l ih => exact (State.answers_outGet only sound _ _ _ _).bind fun r only' sound' => (ih only' sound').map _

/-! Effects of the micro-instructions that read -/

theorem State.acts_sendHalo (n : Nat) (c m : RecCtx) (o : HaloOp) : s.Acts tile (t.sendHalo tile n c m o) := by
  unfold State.sendHalo
  split
  · exact only
  · refine (State.answers_outUnits _ _ _ _ only sound).acts fun r only' => ?_
    dsimp only
    split
    · exact only'
    · exact (((only'.setMesh _).onDev (Dev.tileFrame_draw _)).tileCount _ _ _).tileCount _ _ _

theorem State.acts_loadLine (c : RecCtx) (o : LdaOp) (yo xo : Nat) : s.Acts tile (t.loadLine tile c o yo xo) := by
  unfold State.loadLine
  split
  · exact only.modTile _
  · exact (State.answers_sramRead only sound _ _).acts fun r only' => only'.modTile _

theorem State.acts_loadRows (n : Nat) (c : RecCtx) (o : LdaOp) (y x elem : Nat) : s.Acts tile (t.loadRows tile n c o y x elem) := by
  unfold State.loadRows
  split
  · exact only
  · dsimp only
    split
    · exact (State.answers_sramRead only sound _ _).acts fun r only' => only'.modTile _
    · exact only.modTile _

theorem State.acts_loadWord (c : RecCtx) (o : LdaOp) (w elem rho : Nat) : s.Acts tile (t.loadWord tile c o w elem rho) := by
  have answers := State.answers_sramRead only sound (128 * w) 128
  unfold State.loadWord
  split
  case h_1 none_eq => rw [none_eq] at answers; exact answers
  case h_2 some_eq =>
    rw [some_eq] at answers
    obtain ⟨only', sound'⟩ := answers
    refine (State.answers_sramRead only' sound' _ _).acts fun r only'' => ?_
    split
    · exact only''.linePut _ _ _ _ _ _ _
    · exact only''.modTile _

end

/-! Dispatch -/

/-- The next state that an outcome gives comes of s by what happens on the tile. -/
def State.KeepsTo (s : State) (tile : Nat) (o : Out) : Prop := ∀ t, o = .next t → s.OnlyTile tile t

theorem State.OnlyTile.keepsTo {s t : State} {tile : Nat} (h : s.OnlyTile tile t) : s.KeepsTo tile (.next t) := by
  intro u eq
  cases eq
  exact h

/-- Where an effect is had, it retires. -/
theorem State.Acts.finish {s : State} {tile : Nat} {o : Option State} (h : s.Acts tile o) (u : State) : s.OnlyTile tile (u.finish tile o) :=
  match o, h with
  | some _, only => State.OnlyTile.retire only

section
variable {tile : Nat} {s : State} (sound : s.NoDoubleError tile)
include sound

theorem State.keepsTo_dispatch {code : Nat} {body : State → Option State}
    (acts : ∀ t, s.OnlyTile tile t → t.NoDoubleError tile → s.Acts tile (body t)) : s.KeepsTo tile (.next (s.dispatch tile code body)) := by
  have only := State.OnlyTile.refl tile s
  unfold State.dispatch
  split
  · exact ((acts _ (only.naming _ _ _ _) (State.noDoubleError_naming sound _ _ _ _)).finish _).keepsTo
  · exact only.keepsTo

theorem State.keepsTo_dispatchRec {code n : Nat} {body : RecCtx → State → Option State}
    (acts : ∀ c t, s.OnlyTile tile t → t.NoDoubleError tile → s.Acts tile (body c t)) :
    s.KeepsTo tile (.next (s.dispatchRec tile code n body)) := by
  have only := State.OnlyTile.refl tile s
  unfold State.dispatchRec
  split
  case h_1 => exact only.keepsTo
  case h_2 c _ =>
    split
    · have issued := State.noDoubleError_beginRec (State.noDoubleError_naming sound tile code (recCode c.kr.1 c.kr.2) c.stream) n c
      exact ((acts c _ ((only.naming _ _ _ _).beginRec _ _) issued).finish _).keepsTo
    · exact only.keepsTo

end

/-! The micro-instructions -/

section
variable {s : State} {tile : Fin 2048}

theorem execHaloReceive_keepsTo : s.KeepsTo tile (execHaloReceive tile s) := by
  have only := State.OnlyTile.refl tile s
  unfold execHaloReceive
  extract_lets x
  split
  · exact only.keepsTo
  · split
    case h_1 => exact only.keepsTo
    case h_2 m _ =>
      extract_lets s1 key b s2 t n done s3
      split
      · exact ((only.setMesh _).modTile _).keepsTo
      · have received : s.OnlyTile tile s1 := only.setMesh _
        have counted : s.OnlyTile tile s3 := (received.putHalo _ _).setTile _
        split
        · exact counted.retire.keepsTo
        · exact counted.keepsTo

theorem execHwt_keepsTo (n : Fin 24) (side : Fin 3) (part : Fin 4) (value : Nat) : s.KeepsTo tile (execHwt tile n side part value s) := by
  have only := State.OnlyTile.refl tile s
  unfold execHwt
  split
  case h_1 => exact only.keepsTo
  case h_2 =>
    split
    · exact only.keepsTo
    · dsimp only
      split
      · exact ((only.naming _ _ _ _).beginRec _ _).retire.keepsTo
      · exact (((only.naming _ _ _ _).beginRec _ _).setTile _).keepsTo

variable (sound : s.NoDoubleError tile)
include sound

theorem execHsnd_keepsTo (n : Fin 24) (o : HaloOp) : s.KeepsTo tile (execHsnd tile n o s) := by
  unfold execHsnd
  split
  case h_1 =>
    split
    · exact State.keepsTo_dispatchRec sound fun _ _ only sound' => State.acts_sendHalo only sound' _ _ _ _
    · exact (State.OnlyTile.refl tile s).keepsTo
  case h_2 => exact (State.OnlyTile.refl tile s).keepsTo

theorem execLda_keepsTo (n : Fin 24) (o : LdaOp) : s.KeepsTo tile (execLda tile n o s) := by
  refine State.keepsTo_dispatchRec sound fun c t only sound' => ?_
  split
  · exact State.acts_loadLine only sound' _ _ _ _
  · exact State.acts_loadRows only sound' _ _ _ _ _ _
  · exact State.acts_loadWord only sound' _ _ _ _ _

theorem execMact_keepsTo (n : Fin 24) (o : MactOp) : s.KeepsTo tile (execMact tile n o s) := by
  refine State.keepsTo_dispatchRec sound fun c t only _ => State.OnlyTile.acts (State.OnlyTile.tileCount ?_ _ _ _)
  split
  · exact only.modTile _
  · exact only

end

theorem exec_keepsTo_of_microOf {c : Instr} {tile : Fin 2048} {s : State} (micro : microOf c = some tile) (sound : s.NoDoubleError tile) :
    s.KeepsTo tile (exec c s) := by
  cases c
  case uinstrNop => cases micro; exact State.keepsTo_dispatch sound fun _ only _ => only.acts
  case ldw =>
    cases micro
    exact State.keepsTo_dispatch sound fun _ only sound' => (State.answers_sramRead only sound' _ _).acts fun _ only' => only'.modTile _
  case swp => cases micro; exact State.keepsTo_dispatch sound fun _ only _ => (only.modTile _).acts
  case lda => cases micro; exact execLda_keepsTo sound _ _
  case mac => cases micro; exact State.keepsTo_dispatchRec sound fun _ _ only _ => ((only.modTile _).tileCount _ _ _).acts
  case mact => cases micro; exact execMact_keepsTo sound _ _
  case ard | epi | rot | srs => cases micro; exact State.keepsTo_dispatchRec sound fun _ _ only _ => (only.modTile _).acts
  case row | vop => cases micro; exact State.keepsTo_dispatchRec sound fun _ _ only _ => ((only.setTile _).tileCount _ _ _).acts
  case st => cases micro; exact State.keepsTo_dispatchRec sound fun _ _ only _ => (only.store _ _ _).acts
  case hsnd => cases micro; exact execHsnd_keepsTo sound _ _
  case haloReceive => cases micro; exact execHaloReceive_keepsTo
  case hwt => cases micro; exact execHwt_keepsTo _ _ _ _
  case endRec => cases micro; exact State.keepsTo_dispatchRec sound fun _ _ only _ => ((only.modTile _).recTrace _ _ _).nextStack.acts
  all_goals cases micro

/-- Settles O54: no operation of a micro-instruction reaches beyond its tile, and without a double-bit error no read becomes a tile fault. -/
theorem tilesKeepToThemselves : Obligations.TilesKeepToThemselves := by
  unfold Obligations.TilesKeepToThemselves
  intro c tile s t micro sound next
  rw [State.tileOf_planted] at sound
  obtain ⟨others, clk, fuses, pending, dev⟩ := exec_keepsTo_of_microOf micro sound t next
  exact ⟨others, clk, fuses, pending, dev.hmem, dev.dmem, dev.media, dev.host, dev.pair, dev.chain, dev.sys⟩

end Sys2Proof.Machine
end

section
/-!
In-service tests (R384 to R386, R104): what a test command on an idle tester comes to, what the end of a running test comes to, and the statement about
both.
-/
namespace Sys2Proof.Machine

/-! Test commands (R384, R385) -/

/-- How the unit of a test is withdrawn, by its CLASS. -/
def Dev.withdrawUnit (d : Dev) (u : Test) : Dev :=
  if u.cls < 2 then d.startTile u
  else if u.cls = 2 then d.startEngine u
  else if u.cls = 3 then d.withdrawRim u
  else if u.cls = 4 then d.withdrawLane u
  else d.testRuns u

section
variable {d : Dev} {k : Nat} (writable : d.writable 0x20 = true) (booted : d.sys.mode ≠ .boot) (idle : d.units.test = none)
include writable booted idle

/-- A selection that suits no KIND, or names no unit, is refused. -/
theorem Dev.testCmd_of_testNamed_none (named : (d.setRegN (DBG + 0x10C) 0).testNamed k = none) :
    d.testCmd k = (d.setRegN (DBG + 0x10C) 0).testOver 6 := by
  simp only [Dev.testCmd, writable, booted, idle, named, decide_false, Option.isSome_none, Bool.not_true, Bool.or_self, Bool.false_eq_true, if_false]

theorem Dev.testCmd_of_testNamed_some {u : Test} (named : (d.setRegN (DBG + 0x10C) 0).testNamed k = some u) :
    d.testCmd k = (d.setRegN (DBG + 0x10C) 0).withdrawUnit u := by
  unfold Dev.testCmd Dev.withdrawUnit
  rw [if_neg (by simp only [writable, booted, idle]; decide)]
  dsimp only
  rw [named]
  dsimp only
  match u.cls with
  | 0 | 1 | 2 | 3 | 4 => rfl
  | n + 5 => exact ((if_neg (by omega)).trans ((if_neg (by omega)).trans ((if_neg (by omega)).trans (if_neg (by omega))))).symm

end

/-- The command that starts a test of each KIND. -/
theorem exec_testCmd {k : Nat} {c : Instr} (kind : (k = 1 ∧ c = .tileBist) ∨ (k = 2 ∧ c = .mbist) ∨ (k = 3 ∧ c = .arrayTest) ∨
    (k = 4 ∧ c = .engineTest) ∨ (k = 5 ∧ c = .laneTest)) (s : State) : exec c s = .next (s.disarm.onDev fun d => d.testCmd k) := by
  obtain ⟨rfl, rfl⟩ | ⟨rfl, rfl⟩ | ⟨rfl, rfl⟩ | ⟨rfl, rfl⟩ | ⟨rfl, rfl⟩ := kind <;> rfl

/-! The end of a test (R104, R386) -/

section
variable {d : Dev} {u : Test} (running : d.units.test = some u) (clocked : d.clocked = true) (withdrawn : u.waiting = false)
include running clocked withdrawn

theorem Dev.testCompleteOp_passed : d.testCompleteOp .passed = (d.testOver 3).testReturn u := by
  simp only [Dev.testCompleteOp, running, clocked, withdrawn, Bool.not_true, Bool.or_self, Bool.false_eq_true, if_false]

/-- A repair for which the array has none left is a failure (R104). -/
theorem Dev.testCompleteOp_repaired (r : BitVec 32) (tile : u.cls < 2) :
    d.testCompleteOp (.repaired r) =
      if d.draw.2.overRepair (fixFound u.plain u.pos d.draw.1).toNat = true then ((d.draw.2.testOver 5).setReg (DBG + 0x10C) r).testFailed u
      else (((d.draw.2.testOver 4).setReg (DBG + 0x10C) r).softFix u.plain u.pos d.draw.1).testReturn u := by
  simp only [Dev.testCompleteOp, running, clocked, withdrawn, tile, Bool.not_true, Bool.or_self, Bool.false_eq_true, if_false, if_true]

theorem Dev.testCompleteOp_failed : d.testCompleteOp .failed = ((d.testOver 5).testFound).testFailed u := by
  simp only [Dev.testCompleteOp, running, clocked, withdrawn, Bool.not_true, Bool.or_self, Bool.false_eq_true, if_false]

theorem Dev.testCompleteOp_abandoned : d.testCompleteOp .abandoned = d.abandonTest := by
  simp only [Dev.testCompleteOp, running, clocked, withdrawn, Bool.not_true, Bool.or_self, Bool.false_eq_true, if_false]

end

theorem exec_testComplete {s : State} {o : TestOutcome} {d : Dev} (op : s.dev.testCompleteOp o = d) :
    exec (.testComplete o) s = .next { s with dev := d } := by
  subst op
  rfl

/-- Settles O35: a command by whether DBG_TSTSEL names a unit for its KIND, an end by its outcome. -/
theorem testsStartAndComplete : Obligations.TestsStartAndComplete := by
  unfold Obligations.TestsStartAndComplete
  refine ⟨fun s k c kind writable booted idle => ?_, fun s u running clocked withdrawn => ?_⟩
  · refine (exec_testCmd kind s).trans (congrArg Host.Outcome.next ?_)
    cases named : (s.dev.setRegN (DBG + 0x10C) 0).testNamed k with
    | none =>
      simp only [State.onDev, State.disarm_dev, Dev.testCmd_of_testNamed_none writable booted idle named, named]
      rfl
    | some u =>
      simp only [State.onDev, State.disarm_dev, Dev.testCmd_of_testNamed_some writable booted idle named, named]
      rfl
  · exact ⟨exec_testComplete (Dev.testCompleteOp_passed running clocked withdrawn),
      fun r tile => exec_testComplete (Dev.testCompleteOp_repaired running clocked withdrawn r tile),
      exec_testComplete (Dev.testCompleteOp_failed running clocked withdrawn),
      exec_testComplete (Dev.testCompleteOp_abandoned running clocked withdrawn)⟩

end Sys2Proof.Machine
end

section
/-!
Micro-instructions that move words of a tile that runs (R78, R88, R89, R91, R92, R101, R103, R110, R111, R115 to R117, R120): what each operation that
moves a word comes to in each of its cases, and the statement about each micro-instruction.
-/
namespace Sys2Proof.Machine

/-! Dispatch on a tile that runs: an effect that meets a double-bit error faults the tile (R92, R100) -/

theorem State.dispatch_eq_finish {s : State} {tile : Nat} (runs : s.tileRuns tile = true) (code : Nat) (body : State → Option State) :
    s.dispatch tile code body = (s.naming tile code 0 0).finish tile (body (s.naming tile code 0 0)) :=
  if_pos runs

theorem State.dispatchRec_eq_finish {s : State} {tile n : Nat} {c : RecCtx} (issues : s.Issues tile n c) (code : Nat)
    (body : RecCtx → State → Option State) :
    s.dispatchRec tile code n body = (s.issued tile code n c).finish tile (body c (s.issued tile code n c)) := by
  obtain ⟨ctx, runs⟩ := issues
  simp only [State.dispatchRec, ctx, if_pos runs]

/-! LDW and SWP (R78, R103) -/

section
variable {s : State} {tile : Fin 2048} (runs : s.tileRuns tile = true)
include runs

theorem exec_ldw_of_read (arr : Fin 4) (part : Fin 64) {word : Fin 2048} {r : Bytes × State}
    (read : (s.naming tile 0x01 0 0).sramRead tile (128 * word) 128 = some r) :
    exec (.ldw tile arr part word) s =
      .next ((r.2.modTile tile fun x => x.modArray arr fun a => { a with shadow := loadShadow (s.repairOf tile arr) a.shadow part r.1 }).retire tile) := by
  refine congrArg Host.Outcome.next ((State.dispatch_eq_finish runs _ _).trans ?_)
  rw [read]
  rfl

theorem exec_ldw_of_fault (arr : Fin 4) (part : Fin 64) {word : Fin 2048}
    (fault : (s.naming tile 0x01 0 0).sramRead tile (128 * word) 128 = none) :
    exec (.ldw tile arr part word) s = .next ((s.naming tile 0x01 0 0).tileFault tile) := by
  refine congrArg Host.Outcome.next ((State.dispatch_eq_finish runs _ _).trans ?_)
  rw [fault]
  rfl

theorem exec_swp_of_tileRuns (arrs : BitVec 4) :
    exec (.swp tile arrs) s =
      .next (((s.naming tile 0x02 0 0).modTile tile fun x =>
        (List.range 4).foldl (fun (y : Tile) a => if arrs.getLsbD a = true then y.modArray a ArrayState.swap else y) x).retire tile) :=
  congrArg Host.Outcome.next (State.dispatch_eq_finish runs _ _)

end

/-! LDA (R110, R111) -/

section
variable {t : State} {tile : Nat} {c : RecCtx} {o : LdaOp}

theorem State.loadLine_of_no_rows {yo xo : Nat} (rows : c.realRows yo xo o.kx = []) :
    t.loadLine tile c o yo xo = some (t.modTile tile fun z => (z.shifted c.r o).loadColumn c o yo xo []) := by
  simp only [State.loadLine, rows]

theorem State.loadLine_of_rows {yo xo : Nat} {e : Nat × Nat} {rest : List (Nat × Nat)} (rows : c.realRows yo xo o.kx = e :: rest) :
    t.loadLine tile c o yo xo = (t.sramRead tile (c.lineAddr e.2 (c.r.tapCol xo o.kx) o.group o.part) 128).map fun r =>
      r.2.modTile tile fun z => (z.shifted c.r o).loadColumn c o yo xo r.1 := by
  simp only [State.loadLine, rows]

section
variable {w elem rho : Nat} {r e : Bytes × State} (word : t.sramRead tile (128 * w) 128 = some r) (expo : r.2.sramRead tile rho 1 = some e)
include word expo

theorem State.loadWord_to_line {y col : Nat} (to_line : o.toLine = some (y, col)) :
    t.loadWord tile c o w elem rho =
      some (e.2.linePut tile c (ldaWidth o c.r) y col (16 * o.group.val) ((List.range 16).map fun i => codeAt (ldaWidth o c.r) r.1 (elem + i))
        (u8At e.1 0)) := by
  simp only [State.loadWord, word, expo, to_line, Option.map_some]

theorem State.loadWord_to_window (to_window : o.toLine = none) :
    t.loadWord tile c o w elem rho =
      some (e.2.modTile tile fun z => (z.shifted c.r o).loadElems o 0
        ((List.range (min (1024 / ldaWidth o c.r - elem) (c.r.cIn - 16 * o.group.val))).map fun i => elemAt c.r.exact (ldaWidth o c.r) r.1 (elem + i))
        ((List.range c.r.lbGroups).foldl (fun (m : SMap Int) g => m.put g (expByte c.r.exact (u8At e.1 0))) [])) := by
  simp only [State.loadWord, word, expo, to_window, Option.map_some]

end

end

section
variable {s : State} {tile : Fin 2048} {n : Fin 24} {c : RecCtx} {o : LdaOp} (issues : s.Issues tile n c) {load : Option State}
include issues

theorem exec_lda_of_line {yo xo : Nat} (src : o.src = .line yo xo) (loads : (s.issued tile 0x03 n c).loadLine tile c o yo xo = load) :
    exec (.lda tile n o) s = .next ((s.issued tile 0x03 n c).finish tile load) := by
  refine congrArg Host.Outcome.next ((State.dispatchRec_eq_finish issues _ _).trans ?_)
  simp only [src, loads]

theorem exec_lda_of_rows {y x elem : Nat} (src : o.src = .rows y x elem)
    (loads : (s.issued tile 0x03 n c).loadRows tile n c o y x elem = load) :
    exec (.lda tile n o) s = .next ((s.issued tile 0x03 n c).finish tile load) := by
  refine congrArg Host.Outcome.next ((State.dispatchRec_eq_finish issues _ _).trans ?_)
  simp only [src, loads]

theorem exec_lda_of_word {w : Fin 2048} {elem : Fin 512} {rho : BitVec 18} (src : o.src = .word w elem rho)
    (loads : (s.issued tile 0x03 n c).loadWord tile c o w elem rho.toNat = load) :
    exec (.lda tile n o) s = .next ((s.issued tile 0x03 n c).finish tile load) := by
  refine congrArg Host.Outcome.next ((State.dispatchRec_eq_finish issues _ _).trans ?_)
  simp only [src, loads]

end

/-! ST (R89, R110) -/

section
variable {t : State} {tile n : Nat} {c : RecCtx}

/-- The output position is stored, as wide as the tile's row is. -/
def State.markStored (t : State) (tile n : Nat) (o : StOp) (wide : Bool) : State :=
  t.modTile tile fun z => { z with stored := z.stored.put (cellKey n o.x o.y) wide }

theorem State.store_to_rows (o : StOp) (rows : c.toLines = false) :
    t.store tile n c o =
      (t.rowPut tile c ((t.tileOf tile).rowWidth c.r) o.y o.x o.first ((t.tileOf tile).storeCodes c.r o.first o.count)
        (toCode 8 (t.tileOf tile).rowRho)).markStored tile n o (t.tileOf tile).rowWide := by
  simp only [State.store, rows]
  rfl

theorem State.store_to_lines (o : StOp) (lines : c.toLines = true) {m : RecCtx} (consumer : t.ctxOf tile (n + 1) = some m) :
    t.store tile n c o =
      (t.linePut tile m ((t.tileOf tile).rowWidth c.r) o.y o.x (c.ch0 + o.first) ((t.tileOf tile).storeCodes c.r o.first o.count)
        (toCode 8 (t.tileOf tile).rowRho)).markStored tile n o (t.tileOf tile).rowWide := by
  simp only [State.store, lines, consumer]
  rfl

theorem State.store_to_no_consumer (o : StOp) (lines : c.toLines = true) (consumer : t.ctxOf tile (n + 1) = none) :
    t.store tile n c o = t.markStored tile n o (t.tileOf tile).rowWide := by
  simp only [State.store, lines, consumer]
  rfl

end

theorem exec_st_of_store {s : State} {tile : Fin 2048} {n : Fin 24} {o : StOp} {c : RecCtx} (issues : s.Issues tile n c) {u : State}
    (stores : (s.issued tile 0x0B n c).store tile n c o = u) : exec (.st tile n o) s = .next (u.retire tile) := by
  refine congrArg Host.Outcome.next ((State.dispatchRec_eq_finish issues _ _).trans ?_)
  rw [stores]
  rfl

/-! XFR (R88, R117) -/

section
variable {s : State} {tile : Fin 2048} {o : XfrOp} {c : RecCtx} (issues : s.Issues tile o.record c)
include issues

theorem exec_xfr_of_place {u : State} (place : placeOk c.r o.place = true) (moved : (s.issued tile 0x0E o.record c).transfer tile c o = some u) :
    exec (.xfr tile o) s = .next ((u.tileCount tile 19 1).retire tile) := by
  refine congrArg Host.Outcome.next ((State.dispatchRec_eq_finish issues _ _).trans ?_)
  simp only [place, moved]
  rfl

/-- A transfer whose place does not exist only retires (log entry 134). -/
theorem exec_xfr_of_no_place (place : placeOk c.r o.place = false) :
    exec (.xfr tile o) s = .next ((s.issued tile 0x0E o.record c).retire tile) := by
  refine congrArg Host.Outcome.next ((State.dispatchRec_eq_finish issues _ _).trans ?_)
  simp only [place]
  rfl

end

/-! HSND (R116, R120) -/

/-- The message that a word of a row's transfer goes in. -/
def haloMsgOf (n : Nat) (c : RecCtx) (o : HaloOp) (dest : Nat) (b : Bytes) : HaloMsg :=
  { dest := dest, prod := n, rcd := o.cons, side := if o.side.val = 2 then 2 else 1 - o.side.val, part := c.chPart, y := o.y
    last := o.k.val + 1 == ceilDiv b.length 128, data := slice b (128 * o.k.val) 128 }

/-- The message on the mesh, its flits, a free number of them, and with the last word the words that compression saved (R121). -/
theorem State.sendHalo_of_word {t : State} {tile n : Nat} {c m : RecCtx} {o : HaloOp} {dest d : Nat} {u : (Bytes × Nat) × State}
    (goes : haloDest c m o = some (dest, d)) (units : State.outUnits tile n o.y c (haloCols c m c.sliver d) t = some u)
    (word : o.k.val < ceilDiv u.1.1.length 128) :
    t.sendHalo tile n c m o = some
      (let msg := haloMsgOf n c o dest u.1.1
       let v : State := { u.2 with tiles := { u.2.tiles with mesh := u.2.tiles.mesh ++ [msg] } }
       ((v.onDev fun d => d.draw.2).tileCount tile 12 (u.2.dev.draw.1 % 65536)).tileCount tile 13
         (if msg.last = true then ceilDiv u.1.2 128 - ceilDiv u.1.1.length 128 else 0)) := by
  simp only [State.sendHalo, goes, units, Option.map_some, ge_iff_le, Nat.not_le.2 word, if_false, haloMsgOf, beq_iff_eq]

section
variable {s : State} {tile : Fin 2048} {n : Fin 24} {o : HaloOp} {c m : RecCtx} (issues : s.Issues tile n c) (consumer : s.ctxOf tile o.cons = some m)
include issues consumer

/-- A row that is not complete is not sent yet (log entry 168). -/
theorem exec_hsnd_of_not_final (final : (s.tileOf tile).rowFinal c n o.y = false) : exec (.hsnd tile n o) s = .next s := by
  have exec_eq : exec (.hsnd tile n o) s = execHsnd tile n o s := rfl
  simp only [exec_eq, execHsnd, issues.1, consumer, final, Bool.false_and, Bool.false_eq_true, if_false]

theorem exec_hsnd_of_final (final : (s.tileOf tile).rowFinal c n o.y = true) (reads : m.readsHalo c = true) :
    exec (.hsnd tile n o) s = .next ((s.issued tile 0x0C n c).finish tile ((s.issued tile 0x0C n c).sendHalo tile n c m o)) := by
  have exec_eq : exec (.hsnd tile n o) s = execHsnd tile n o s := rfl
  simp only [exec_eq, execHsnd, issues.1, consumer, final, reads, Bool.true_and, if_true, State.dispatchRec_eq_finish issues]

end

/-! HALO_RECEIVE (R91, R116) -/

/-- The first word on the mesh for the tile is taken, and is a row's last: the row's positions are written. -/
def State.haloWritten (s : State) (tile : Nat) (m : HaloMsg) : State :=
  let t : State := { s with tiles := { s.tiles with mesh := s.tiles.mesh.erase m } }
  t.putHalo tile m ((t.tileOf tile).inbox.get (haloKey m.rcd m.side m.part) [] ++ m.data)

section
variable {s : State} {tile : Fin 2048} {m : HaloMsg} (serves : s.dev.serving = true) (powered : (s.dev.plain (tile.val / 256)).gated = false)
  (works : (s.dev.plain (tile.val / 256)).failed = false) (first : (s.tiles.mesh.find? fun q => q.dest == tile.val) = some m)
include serves powered works first

theorem exec_haloReceive_of_more (more : m.last = false) :
    exec (.haloReceive tile) s = .next (
      let t : State := { s with tiles := { s.tiles with mesh := s.tiles.mesh.erase m } }
      let key := haloKey m.rcd m.side m.part
      t.modTile tile fun x => { x with inbox := x.inbox.put key ((t.tileOf tile).inbox.get key [] ++ m.data) }) := by
  have exec_eq : exec (.haloReceive tile) s = execHaloReceive tile s := rfl
  simp only [exec_eq, execHaloReceive, serves, powered, works, first, more, Bool.not_true, Bool.not_false, Bool.or_self, Bool.false_eq_true, if_false, if_true]

/-- The last word of a row ends a wait for the counter's new value. -/
theorem exec_haloReceive_of_last (last : m.last = true) :
    exec (.haloReceive tile) s = .next (
      let key := haloKey m.rcd m.side m.part
      let u := s.haloWritten tile m
      let x := u.tileOf tile
      let n := x.halos.get key 0 + 1
      let waits := (match x.stall with
        | some w => decide (w.1 = key ∧ w.2 ≤ n)
        | none => false)
      let v := u.setTile tile { x with inbox := x.inbox.del key, halos := x.halos.put key n, stall := if waits = true then none else x.stall }
      if waits = true then v.retire tile else v) := by
  have exec_eq : exec (.haloReceive tile) s = execHaloReceive tile s := rfl
  have written : s.haloWritten tile m = State.putHalo _ tile m _ := rfl
  obtain stall | ⟨w, stall⟩ := Option.eq_none_or_eq_some ((s.haloWritten tile m).tileOf tile).stall
  · simp only [exec_eq, execHaloReceive, serves, powered, works, first, last, ← written, stall, Bool.not_true, Bool.or_self, Bool.false_eq_true,
      if_false]
  · simp only [exec_eq, execHaloReceive, serves, powered, works, first, last, ← written, stall, Bool.not_true, Bool.or_self, Bool.false_eq_true,
      if_false, Bool.and_eq_true, beq_iff_eq, decide_eq_true_eq, Bool.decide_and]

end

/-- Settles O52: each micro-instruction by its lemma, in each case of what it reads and where it stores. When an XFR moves nothing and when an HSND is
dispatched is the model's reading (log entries 134 and 168). -/
theorem tileMovesComplete : Obligations.TileMovesComplete := by
  unfold Obligations.TileMovesComplete
  refine ⟨fun s tile arr part word runs => ⟨fun r => exec_ldw_of_read runs arr part, exec_ldw_of_fault runs arr part⟩,
    fun s tile arrs runs => exec_swp_of_tileRuns runs arrs, fun s tile n o c t issues issued => ?lda, fun s tile n o c t issues issued => ?st,
    fun s tile o c issues => ⟨fun u => exec_xfr_of_place issues, exec_xfr_of_no_place issues⟩, fun s tile n o c m issues consumer => ?hsnd,
    fun s tile m serves powered works first => ?receive⟩
  case lda =>
    subst issued
    refine ⟨fun yo xo src => ⟨fun rows => ?_, fun e rest rows => ⟨fun r read => ?_, fun fault => ?_⟩⟩,
      fun y x elem src => ⟨fun u load => ?_, fun fault => ?_⟩,
      fun w elem rho r e src word expo => ⟨fun y col to_line => ?_, fun to_window => ?_⟩⟩
    · exact exec_lda_of_line issues src (State.loadLine_of_no_rows rows)
    · exact exec_lda_of_line issues src ((State.loadLine_of_rows rows).trans (congrArg (Option.map _) read))
    · exact exec_lda_of_line issues src ((State.loadLine_of_rows rows).trans (congrArg (Option.map _) fault))
    · exact exec_lda_of_rows issues src load
    · exact exec_lda_of_rows issues src fault
    · exact exec_lda_of_word issues src (State.loadWord_to_line word expo to_line)
    · exact exec_lda_of_word issues src (State.loadWord_to_window word expo to_window)
  case st =>
    subst issued
    refine ⟨fun rows => ?_, fun lines => ⟨fun m consumer => ?_, fun consumer => ?_⟩⟩
    · exact exec_st_of_store issues (State.store_to_rows o rows)
    · exact exec_st_of_store issues (State.store_to_lines o lines consumer)
    · exact exec_st_of_store issues (State.store_to_no_consumer o lines consumer)
  case hsnd =>
    refine ⟨exec_hsnd_of_not_final issues consumer, fun dest d u final reads goes units word => ⟨u.2.dev.draw.1 % 65536, Nat.mod_lt _ (by decide), ?_⟩⟩
    rw [exec_hsnd_of_final issues consumer final reads, State.sendHalo_of_word goes units word]
    rfl
  case receive =>
    exact ⟨exec_haloReceive_of_more serves powered works first, exec_haloReceive_of_last serves powered works first⟩

end Sys2Proof.Machine
end

section
/-!
Faults of units (R92, R155, R274, R371, R374 to R377, R382, R383): what each fault of a unit that works comes to while the clocks run, and the statement
about all of them.
-/
namespace Sys2Proof.Machine

section
variable {s : State} (clocked : s.dev.clocked = true)
include clocked

theorem State.tileFault_of_works {tile : Nat} (works : (s.dev.plain (tile / 256)).failed = false)
    (served : (s.dev.plain (tile / 256)).lost.contains (tile % 256) = false) :
    s.tileFault tile = (s.restoreTiles tile).onDev fun d => d.tileFaultOp tile := by
  simp only [State.tileFault, clocked, works, served, Bool.not_true, Bool.or_false, Bool.false_eq_true, if_false]

theorem State.plainFail_of_works {p : Nat} (works : (s.dev.plain p).failed = false) :
    s.plainFail p =
      { s with
        dev := s.dev.plainFailOp p
        tiles := { tiles := s.tiles.tiles.filter fun e => e.1 / 256 != p, mesh := s.tiles.mesh.filter fun m => m.dest / 256 != p } } := by
  simp only [State.plainFail, clocked, works, Bool.not_true, Bool.or_false, Bool.false_eq_true, if_false]

end

section
variable {d : Dev} (clocked : d.clocked = true)
include clocked

theorem Dev.engineFaultOp_of_works {n : Nat} {x : Engine} (engine : d.units.engines[n]? = some x) (works : x.failed = false) :
    d.engineFaultOp n =
      (let s1 := d.abandonIf fun t => t.cls == 2 && (t.inst == n || (x.role.isSome && (spareEngine d.units.engines).isNone && !t.waiting))
       let s2 := match x.held with
         | some u => s1.redoUnits u.stream fun v => v.number == u.number && v.stage == UStage.coded
         | none => s1
       let r := (s2.holdEngine n none).loseEngine n
       match x.role with
       | some k => if r.2 = true then r.1 else r.1.loseInstance k none
       | none => r.1) := by
  obtain rfl : listGet d.units.engines n (Engine.reset n) = x := by rw [listGet, engine, Option.getD_some]
  exact if_neg (by rw [clocked, works]; decide)

theorem Dev.rimFaultOp_of_works {p : Nat} (works : (d.plain p).rimDown = false) :
    d.rimFaultOp p =
      (let s0 := d.abandonIf fun t => t.cls == 3
       let spare := s0.units.rimSpare == some p
       let s1 := s0.sticky 1 2 (firstDet (if spare = true then 8 else p) 0 p 0)
       if spare = false ∧ s1.units.rimSpare = none ∧ s1.units.rimSpareFailed = false then
         (({ s1 with units := { s1.units with rimSpare := some p } } : Dev).soft (repairEntry 6 p 0 0 0)).redoBooked (16 + p)
       else
         let s2 := if spare = true then { s1 with units := { s1.units with rimSpare := none, rimSpareFailed := true } } else s1
         ((s2.setRimDown p).sticky 1 3 (firstDet (if spare = true then 8 else p) 0 p 0)).loseInstance (16 + p) (some p)) := by
  simp only [Dev.rimFaultOp, clocked, works, Bool.not_true, Bool.or_false, Bool.false_eq_true, if_false, Bool.and_eq_true, Bool.not_eq_true',
    Option.isNone_iff_eq_none, and_assoc]

section
variable (a : Nat)

theorem Dev.hbmUeOp_no_reader (state : Bool) : d.hbmUeOp a none state = d.sticky 2 (a / 256 % 2) (firstDet (a / 256 % 2) 0 0 0) := by
  simp only [Dev.hbmUeOp, clocked, Bool.not_true, Bool.false_eq_true, if_false]

variable {n : Nat} {x : Stream} (reader : (d.sticky 2 (a / 256 % 2) (firstDet (a / 256 % 2) 0 0 0)).stream n = some x)
include reader

/-- A stream whose state or references are struck is lost (R382). -/
theorem Dev.hbmUeOp_of_struck {state : Bool} (struck : state = true ∨ x.holdsRef a = true) :
    d.hbmUeOp a (some n) state = ((d.sticky 2 (a / 256 % 2) (firstDet (a / 256 % 2) 0 0 0)).loseStream n).pumpWaiting := by
  simp only [Dev.hbmUeOp, clocked, reader, Bool.not_true, Bool.false_eq_true, if_false]
  exact if_pos (Bool.or_eq_true_iff.2 struck)

/-- Else the reading job ends with ABORTED_FAULT (R371). -/
theorem Dev.hbmUeOp_of_job (no_ref : x.holdsRef a = false) {j : Job} {rest : List Job} (jobs : x.jobs = j :: rest) :
    d.hbmUeOp a (some n) false =
      ((d.sticky 2 (a / 256 % 2) (firstDet (a / 256 % 2) 0 0 0)).modStream n fun y => y.modJob j.seq fun k => { k with aborted := true }).follow n := by
  simp only [Dev.hbmUeOp, clocked, reader, no_ref, jobs, Bool.not_true, Bool.or_false, Bool.false_eq_true, if_false]

end

end

/-- A command whose meaning is an operation of the device. -/
theorem next_onDev {s : State} {f : Dev → Dev} {d : Dev} (op : f s.dev = d) : (Host.Outcome.next (s.onDev f) : Out) = .next { s with dev := d } := by
  subst op
  rfl

/-- Settles O55: each fault by its operation on a unit that works. That the host job of a faulted lossless engine ends with ABORTED_FAULT is the model's
reading (log entry 116). -/
theorem faultCommandsComplete : Obligations.FaultCommandsComplete := by
  unfold Obligations.FaultCommandsComplete
  intro s clocked
  refine ⟨fun tile parity works served => congrArg Host.Outcome.next (State.tileFault_of_works clocked works served),
    fun e x engine works => next_onDev (Dev.engineFaultOp_of_works clocked engine works),
    fun p works => next_onDev (Dev.rimFaultOp_of_works clocked works),
    fun p works => next_onDev (if_pos (by rw [clocked, works]; rfl)),
    fun u works => next_onDev (if_pos (by rw [clocked, works]; rfl)),
    fun e works => next_onDev (if_pos (by rw [clocked, works]; rfl)),
    fun p works => congrArg Host.Outcome.next (State.plainFail_of_works clocked works),
    fun a n x j rest state => ⟨next_onDev (Dev.hbmUeOp_no_reader clocked _ _), fun reader => ⟨fun struck => ?struck, fun intact no_ref jobs => ?job⟩⟩,
    fun stack channel lane => next_onDev (if_pos clocked),
    next_onDev (if_pos clocked), next_onDev (if_pos clocked)⟩
  case struck => exact next_onDev (Dev.hbmUeOp_of_struck clocked _ reader struck)
  case job =>
    subst intact
    exact next_onDev (Dev.hbmUeOp_of_job clocked _ reader no_ref jobs)

end Sys2Proof.Machine
end

section
/-!
Model packages (R146, R150 to R152): what a descriptor command that runs comes to, what loading, unloading and the commands on the keys come to in
each of their cases, and the statements about them.
-/
namespace Sys2Proof.Machine

/-! A descriptor that runs (R292, R294, R299) -/

/-- A descriptor that is accepted and due, and passes the common checks, is run by the row it names. -/
theorem Dev.runDesc_of_runs {s : Dev} {d : Desc} {row : Nat} {a : Acc} (runs : s.Runs d row a) (run : Acc → Dev → Dev) :
    s.runDesc d row run = run a s := by
  obtain ⟨serving, names, accepted, waiting, unfenced, unserialised, checked⟩ := runs
  simp only [Dev.runDesc, Dev.runWith, serving, names, accepted, waiting, unfenced, unserialised, checked, bne_self_eq_false, Bool.not_true,
    Bool.or_self, Bool.false_eq_true, if_false, if_true]

/-- So a descriptor command that runs is its row's operation on the device. -/
theorem next_runDesc_of_runs {s : State} {d : Desc} {row : Nat} {a : Acc} {run : Acc → Dev → Dev} {v : Dev} (runs : s.dev.Runs d row a)
    (op : run a s.dev = v) : (Host.Outcome.next (s.onDev fun t => t.runDesc d row run) : Out) = .next { s with dev := v } :=
  next_onDev ((Dev.runDesc_of_runs runs run).trans op)

/-! Loading (R150, R151) -/

/-- Settles O18: a length and an address in range, a read that answers and a step 4 that does not wait are all that stands before the steps on the
file. That a load waits for an engine, which fault is named and which number a handle gets are the model's choices (log entries 50, 37 and 45). -/
theorem modelLoadCompletes : Obligations.ModelLoadCompletes := by
  unfold Obligations.ModelLoadCompletes
  intro s d a file runs min_len max_len addr read engine
  refine next_runDesc_of_runs runs ?_
  have in_range : (decide (u64At a.raw 24 < 64) || decide (u64At a.raw 24 > 2 ^ 32) ||
      !s.dev.addrOk a.func (bitAt (spacesOf a.raw) 0) (u64At a.raw 16) (u64At a.raw 24)) = false := by
    rw [decide_eq_false (Nat.not_lt.2 min_len), decide_eq_false (Nat.not_lt.2 max_len), addr]
    rfl
  have no_wait : (needsEngine file (s.dev.keysFor a.seq).1 (s.dev.keysFor a.seq).2 && !s.dev.engineFor a) = false := by
    cases step4 : needsEngine file (s.dev.keysFor a.seq).1 (s.dev.keysFor a.seq).2 with
    | false => rfl
    | true => rw [engine step4]; rfl
  refine (if_neg (Bool.eq_false_iff.1 in_range)).trans ?_
  rw [read]
  exact if_neg (Bool.eq_false_iff.1 no_wait)

/-! Unloading (R152) -/

/-- A contract of the function has the handle's package, or an open stream of it does. -/
def Dev.HandleInUse (s : Dev) (a : Acc) (h : Handle) : Prop :=
  (s.media.contracts.any fun c => c.2.func == a.func && c.2.pkg == h.pkg) = true ∨
    (s.media.streams.any fun t => t.2.func == a.func && t.2.bound && t.2.pkg == h.pkg) = true

section
variable {s : Dev} {a : Acc}

theorem Dev.modelUnloadOp_of_unknown (unknown : (s.fn a.func).handleAt a.seq (handleOf a.raw) = none) :
    s.modelUnloadOp a = s.complete a stMISSING 0 0 none := by
  simp only [Dev.modelUnloadOp, unknown]

variable {h : Handle} (known : (s.fn a.func).handleAt a.seq (handleOf a.raw) = some h)
include known

theorem Dev.modelUnloadOp_of_inUse (used : s.HandleInUse a h) : s.modelUnloadOp a = s.complete a stADMISSION 0 0 none := by
  simp only [Dev.modelUnloadOp, known]
  exact if_pos (Bool.or_eq_true_iff.2 used)

/-- Else one load of the handle ends, and with the last one the handle. -/
theorem Dev.modelUnloadOp_of_unused (unused : ¬ s.HandleInUse a h) :
    s.modelUnloadOp a =
      (if h.count > 1 then
        s.setFn a.func { s.fn a.func with handles := (s.fn a.func).handles.put (handleOf a.raw) { h with count := h.count - 1 } }
       else (s.setFn a.func { s.fn a.func with handles := (s.fn a.func).handles.del (handleOf a.raw) }).dropPackages).complete a
        stDONE 0 0 none := by
  simp only [Dev.modelUnloadOp, known]
  exact (if_neg fun used => unused (Bool.or_eq_true_iff.1 used)).trans (apply_ite (fun t => Dev.complete t a stDONE 0 0 none) _ _ _).symm

end

/-- Settles O19: by whether the handle is known, and whether it is in use. -/
theorem modelUnloadFollowsItsRule : Obligations.ModelUnloadFollowsItsRule := by
  unfold Obligations.ModelUnloadFollowsItsRule
  refine ⟨fun s d a runs unknown => next_runDesc_of_runs runs (Dev.modelUnloadOp_of_unknown unknown),
    fun s d a h runs known => next_runDesc_of_runs runs ?_⟩
  by_cases used : s.dev.HandleInUse a h
  · exact (Dev.modelUnloadOp_of_inUse known used).trans (if_pos used).symm
  · exact (Dev.modelUnloadOp_of_unused known used).trans (if_neg used).symm

/-! Keys (R146) -/

theorem Dev.keyCommand_of_writable {s : Dev} (writable : s.writable 6 = true) (t : Dev) :
    (if (s.writable 6 && !s.keyLocked) = true then t else s) = if s.keyLocked = true then s else t := by
  cases locked : s.keyLocked with
  | true => rw [Bool.not_true, Bool.and_false]; rfl
  | false => rw [writable]; rfl

/-- Settles O29: each command by whether LOCK is set. -/
theorem keyCommandsComplete : Obligations.KeyCommandsComplete := by
  unfold Obligations.KeyCommandsComplete
  intro s writable
  have op := Dev.keyCommand_of_writable writable
  exact ⟨next_onDev (s := s.disarm) (op _), next_onDev (s := s.disarm) (op _), next_onDev (s := s.disarm) (op _)⟩

end Sys2Proof.Machine
end

section
/-!
Work of an entropy engine on a unit in flight (R162 to R173, R266, R277): what a step of a stream comes to, when each of the three commands gives the
unit to its engine and with which work, and the statement about them.
-/
namespace Sys2Proof.Machine

/-! A step of a stream -/

theorem Dev.streamStep_of_serving {s t : Dev} {f : Dev → Dev} (serving : s.serving = true) (n : Nat) (op : f s = t) :
    s.streamStep n f = t.follow n :=
  op ▸ if_pos serving

/-! An engine's work (R173, R266, R277) -/

section
variable {s : Dev} {x : Stream} {u : MUnit} (n : Nat) (work : Dev → Stream → MUnit → Dev)

theorem Dev.onEngine_of_engine {i : Nat} (engine : s.engineNow x u = some i) :
    s.onEngine n x u work = (if u.engine.isSome = true then s else s.beginCoding n x u i).withUnit n u.number work := by
  simp only [Dev.onEngine, engine]

theorem Dev.onEngine_of_no_engine (engine : s.engineNow x u = none) : s.onEngine n x u work = s := by
  simp only [Dev.onEngine, engine]

end

/-- The work of CONTEXT_PASS, with phase 1 before pass 0 and an encoder's residuals after the pass (R162 to R166). -/
theorem Dev.contextPass_eq (n : Nat) :
    Dev.contextPass n = fun d y v =>
      let s1 := if v.passes = 0 then d.runParam n y v 1 (d.unitPhases y).ph1 else d
      let s2 := s1.withUnit n v.number fun t z w => t.runParam n z w (2 + v.passes) (d.unitPhases y).loop
      let s3 := s2.modUnit n v.number fun w => { w with passes := v.passes + 1 }
      if y.enc = true then s3.formAndPut n v.number (v.passes + 1) else s3 := by
  funext d y v
  simp only [Dev.contextPass, beq_iff_eq]

/-- The work of DECODE_SEGMENT, with the end of decoding after the ninth segment (R170 to R173). -/
theorem Dev.decodeSegment_eq (n : Nat) :
    Dev.decodeSegment n = fun d y v =>
      let w := (d.decodeSegmentOf y v).1
      let s1 := (d.putUnit n y w).count (ev 8 1) (d.decodeSegmentOf y v).2
      if w.segs = 9 then s1.endDecode n w else s1 := by
  funext d y v
  simp only [Dev.decodeSegment, beq_iff_eq]

/-! When each command gives a unit in flight to its engine -/

section
variable {s : Dev} {r : UnitRef} {x : Stream} {u : MUnit} (flying : s.flying r = some (x, u))
include flying

/-- A pass is due below pass 8, in a decoder once the segment before it is decoded. -/
theorem Dev.contextPassOp_of_due (param : (s.unitPhases x).param = true) (passes : u.passes < 8) (paced : x.enc = true ∨ u.segs = u.passes + 1) :
    s.contextPassOp r = s.onEngine r.stream x u (Dev.contextPass r.stream) := by
  have due : ((s.unitPhases x).param && decide (u.passes < 8) && (x.enc || u.segs == u.passes + 1)) = true := by
    simpa only [Bool.and_eq_true, Bool.or_eq_true, decide_eq_true_eq, beq_iff_eq] using ⟨⟨param, passes⟩, paced⟩
  simp only [Dev.contextPassOp, flying, due, Bool.not_true, Bool.false_eq_true, if_false]

/-- A segment is due below segment 9: the hyper segment, any where no passes are, and else the one of the pass just run. -/
theorem Dev.decodeSegmentOp_of_due (decodes : x.enc = false) (segs : u.segs < 9)
    (paced : u.segs = 0 ∨ (s.unitPhases x).param = false ∨ u.passes = u.segs) :
    s.decodeSegmentOp r = s.onEngine r.stream x u (Dev.decodeSegment r.stream) := by
  have due : (!x.enc && decide (u.segs < 9) && (u.segs == 0 || !(s.unitPhases x).param || u.passes == u.segs)) = true := by
    simpa only [Bool.and_eq_true, Bool.or_eq_true, Bool.not_eq_true', decide_eq_true_eq, beq_iff_eq, or_assoc] using ⟨⟨decodes, segs⟩, paced⟩
  simp only [Dev.decodeSegmentOp, flying, due, Bool.not_true, Bool.false_eq_true, if_false]

/-- The unit's bytes are due after pass 7, or where no passes are. -/
theorem Dev.encodeUnitOp_of_due (encodes : x.enc = true) (passed : 8 ≤ u.passes ∨ (s.unitPhases x).param = false) :
    s.encodeUnitOp r = s.onEngine r.stream x u (Dev.encodeCoded r.stream) := by
  have due : (!x.enc || (decide (u.passes < 8) && (s.unitPhases x).param)) = false := by
    simpa only [Bool.or_eq_false_iff, Bool.and_eq_false_iff, Bool.not_eq_false', decide_eq_false_iff_not, Nat.not_lt] using ⟨encodes, passed⟩
  simp only [Dev.encodeUnitOp, flying, due, Bool.false_eq_true, if_false]

end

/-- A command that gives a unit of a stream to its engine, on a device that serves commands: the unit gets the work where an engine works on it now,
and waits where none does. -/
theorem exec_of_engineWork {s : State} {c : Instr} {n : Nat} {x : Stream} {u : MUnit} {op : Dev → Dev} {work : Dev → Stream → MUnit → Dev}
    (serving : s.dev.serving = true) (runs : exec c s = .next (s.onDev fun v => v.streamStep n op))
    (gives : op s.dev = s.dev.onEngine n x u work) :
    (∀ i : Nat, s.dev.engineNow x u = some i →
      exec c s = .next { s with
        dev := ((if u.engine.isSome = true then s.dev else s.dev.beginCoding n x u i).withUnit n u.number work).follow n }) ∧
    (s.dev.engineNow x u = none → exec c s = .next { s with dev := s.dev.follow n }) :=
  ⟨fun _ engine => runs.trans (next_onDev
      (Dev.streamStep_of_serving serving n (gives.trans (Dev.onEngine_of_engine n work engine)))),
    fun engine => runs.trans (next_onDev
      (Dev.streamStep_of_serving serving n (gives.trans (Dev.onEngine_of_no_engine n work engine))))⟩

/-- Settles O50: each command, where it is due, gives the unit to its engine with the work that the statement spells. At which edge of a segment of the
wheel an engine works is the model's choice (log entry 177). -/
theorem unitStepsComplete : Obligations.UnitStepsComplete := by
  unfold Obligations.UnitStepsComplete
  intro s r x u f c serving flying command
  obtain ⟨rfl, param, passes, paced, rfl⟩ | ⟨rfl, decodes, segs, paced, rfl⟩ | ⟨rfl, encodes, passed, rfl⟩ := command
  case inl =>
    rw [← Dev.contextPass_eq]
    exact exec_of_engineWork serving rfl (Dev.contextPassOp_of_due flying param passes paced)
  case inr.inl =>
    rw [← Dev.decodeSegment_eq]
    exact exec_of_engineWork serving rfl (Dev.decodeSegmentOp_of_due flying decodes segs paced)
  case inr.inr => exact exec_of_engineWork serving rfl (Dev.encodeUnitOp_of_due flying encodes passed)

end Sys2Proof.Machine
end

section
/-!
Jobs of a stream (R209, R219, R222, R225, R235, R246, R252, R257, R293, R299): what a descriptor that names an open stream comes to, when each of the
four operations accepts its job, and the statement about them.
-/
namespace Sys2Proof.Machine

/-! A descriptor of a stream that runs (R293, R294, R299, R300) -/

/-- A descriptor that names a stream is acted on by it. -/
theorem Dev.onStream_of_names {s : Dev} {a : Acc} {n : Nat} {x : Stream} (names : s.Names a n x) (f : Nat → Stream → Dev) :
    s.onStream a f = f n x := by
  obtain ⟨rfl, stream, func, gen, opened, unrefused⟩ := names
  simp only [Dev.onStream, Dev.withStream, stream, func, gen, opened, unrefused, bne_self_eq_false, Bool.or_self, Option.isSome_none,
    Bool.false_eq_true, if_false]

/-- A descriptor of a stream that is due and passes the common checks does its operation, and what follows a step of the stream is done. -/
theorem Dev.streamDesc_of_runs {s : Dev} {d : Desc} {row : Nat} {a : Acc} (runs : s.Runs d row a) (op : Acc → Dev → Dev) :
    s.streamDesc d row op = (op a s).follow (handleOf a.raw % 65536) := by
  obtain ⟨serving, named, accepted, waiting, unfenced, unserialised, checked⟩ := runs
  simp only [Dev.streamDesc, Dev.runWith, serving, named, accepted, waiting, unfenced, unserialised, checked, bne_self_eq_false, Bool.not_true,
    Bool.or_self, Bool.false_eq_true, if_false, if_true]

/-- So a job command that runs is its operation on the device and the stream it names. -/
theorem next_streamDesc_of_names {s : State} {d : Desc} {row : Nat} {a : Acc} {n : Nat} {x : Stream} {job : Acc → Dev → Dev} {t : Dev}
    (runs : s.dev.Runs d row a) (names : s.dev.Names a n x) (accepts : job a s.dev = t) :
    (Host.Outcome.next (s.onDev fun v => v.streamDesc d row job) : Out) = .next { s with dev := t.follow n } := by
  refine next_onDev ((Dev.streamDesc_of_runs runs job).trans ?_)
  rw [accepts, ← names.1]

/-! When each operation accepts its job -/

section
variable {s : Dev} {a : Acc} {n : Nat} {x : Stream} (names : s.Names a n x)
include names

/-- An ENC_PICTURE of a video encoder pins the pool buffer that it names, and is accepted (R219, R222). -/
theorem Dev.encPictureJob_of_ok (medium : x.medium = 0) (encodes : x.enc = true) (ok : s.encPictureOk a x = true) :
    s.encPictureJob a =
      (if bitAt (spacesOf a.raw) 0 = true then
        s.setBuf (u32At a.raw 16 % 4096) { s.buf (u32At a.raw 16 % 4096) with pins := (s.buf (u32At a.raw 16 % 4096)).pins + 1 }
       else s).addJob n x a := by
  refine (Dev.onStream_of_names names _).trans (if_neg (Bool.eq_false_iff.1 ?_))
  rw [medium, encodes, ok]
  rfl

/-- A decode job of a decoder of its medium is accepted with a buffer of 1 to 2^30 bytes (R203, R246, R257). -/
theorem Dev.decJob_of_ok {m : Nat} (medium : x.medium = m) (decodes : x.enc = false) (min_len : 1 ≤ u64At a.raw 24)
    (max_len : u64At a.raw 24 ≤ 2 ^ 30)
    (addr : s.addrOk a.func (bitAt (spacesOf a.raw) 0) (u64At a.raw 16) (u64At a.raw 24) = true) (stat : s.statOk a = true) :
    s.decJob m a = s.addJob n x a := by
  refine (Dev.onStream_of_names names _).trans (if_neg (Bool.eq_false_iff.1 ?_))
  rw [medium, bne_self_eq_false, decodes, beq_false_of_ne (Nat.one_le_iff_ne_zero.1 min_len), decide_eq_false (Nat.not_lt.2 max_len), addr, stat]
  rfl

/-- An AUD_ENC of an audio encoder is accepted with PCM of a whole number of frames, at least one (R245). -/
theorem Dev.audEncJob_of_ok (medium : x.medium = 1) (encodes : x.enc = true) (min_len : 1 ≤ u64At a.raw 24)
    (frames : u64At a.raw 24 % max 1 x.frameBytes = 0)
    (addr : s.addrOk a.func (bitAt (spacesOf a.raw) 0) (u64At a.raw 16) (u64At a.raw 24) = true) (stat : s.statOk a = true) :
    s.audEncJob a = s.addJob n x a := by
  refine (Dev.onStream_of_names names _).trans (if_neg (Bool.eq_false_iff.1 ?_))
  rw [medium, encodes, beq_false_of_ne (Nat.one_le_iff_ne_zero.1 min_len), frames, addr, stat]
  rfl

/-- An FLD_ENC of a field encoder is accepted with a block within the array's blocks along each dimension (R252). -/
theorem Dev.fldEncJob_of_ok (medium : x.medium = 2) (encodes : x.enc = true) (array : u64At a.raw 16 + x.arrayBytes ≤ 2 ^ 64)
    (stat : s.statOk a = true)
    (block : ∀ k : Nat, k < 4 → u32At a.raw (24 + 4 * k) < listGet (blockCounts x.fieldShape.1 x.fieldShape.2.1 x.fieldShape.2.2) k 1) :
    s.fldEncJob a = s.addJob n x a := by
  refine (Dev.onStream_of_names names _).trans (if_neg (Bool.eq_false_iff.1 ?_))
  rw [medium, encodes, decide_eq_false (Nat.not_lt.2 array), stat, Bool.not_true, Bool.or_false]
  refine congrArg not (List.all_eq_true.2 fun k mem => decide_eq_true ?_)
  have dimension := List.mem_range.1 mem
  rw [listGet, List.getElem?_map, List.getElem?_range dimension]
  exact block k dimension

end

/-- Settles O22: each command names its stream, and its operation accepts the job; the three decode commands are one operation, of three media. -/
theorem streamJobsAreQueued : Obligations.StreamJobsAreQueued := by
  unfold Obligations.StreamJobsAreQueued
  refine ⟨fun s d a n x runs names medium encodes ok =>
      next_streamDesc_of_names runs names (Dev.encPictureJob_of_ok names medium encodes ok),
    fun s d a n x m c command names medium decodes min_len max_len addr stat => ?decode,
    fun s d a n x runs names medium encodes min_len frames addr stat =>
      next_streamDesc_of_names runs names (Dev.audEncJob_of_ok names medium encodes min_len frames addr stat),
    fun s d a n x runs names medium encodes array stat block =>
      next_streamDesc_of_names runs names (Dev.fldEncJob_of_ok names medium encodes array stat block)⟩
  case decode =>
    have accepts := Dev.decJob_of_ok names medium decodes min_len max_len addr stat
    obtain ⟨rfl, runs, rfl⟩ | ⟨rfl, runs, rfl⟩ | ⟨rfl, runs, rfl⟩ := command <;>
      exact next_streamDesc_of_names runs names accepts

end Sys2Proof.Machine
end

section
/-!
Buffers of the frame pool (R215 to R219): what each operation of POOL_MARK comes to on a buffer that it accepts, and the statement about them.
-/
namespace Sys2Proof.Machine

/-! POOL_MARK (R218, R219) -/

section
variable {s : Dev} {a : Acc} {i : Nat}

theorem Dev.poolAllocOp_of_room {base : Nat} (args : poolArgsOk true a.raw = true) (record : s.freeRecord = some i)
    (run : s.freeRun s.poolTaken (ceilDiv (u64At a.raw 24) granule) = some base) (records : s.recordsFree ≠ 0)
    (granules : ceilDiv (u64At a.raw 24) granule ≤ s.poolFree) :
    s.poolAllocOp a =
      let t := s.setBuf i { s.buf i with
        state := .hostHeld, owner := a.func, base := base, granules := ceilDiv (u64At a.raw 24) granule, pins := 0, releaseDue := false
        stream := none, output := false }
      t.poolDone a (t.bufHandle i) .hostHeld base := by
  simp only [Dev.poolAllocOp, args, record, run, beq_false_of_ne records, decide_eq_false (Nat.not_lt.2 granules), Bool.not_true, Bool.or_self,
    Bool.false_eq_true, if_false]

theorem Dev.poolTakeOp_of_takable (takable : s.takable a = some i) (args : poolArgsOk false a.raw = true) :
    s.poolTakeOp a =
      (s.setBuf i { s.buf i with state := .hostHeld }).poolDone a (handleOf a.raw) .hostHeld
        ((s.setBuf i { s.buf i with state := .hostHeld }).buf i).base := by
  simp only [Dev.poolTakeOp, takable, args, if_true]

theorem Dev.poolDiscardOp_of_takable (takable : s.takable a = some i) (args : poolArgsOk false a.raw = true) :
    s.poolDiscardOp a = (s.freeBuf i).poolDone a (handleOf a.raw) .free (s.buf i).base := by
  simp only [Dev.poolDiscardOp, takable, args, if_true]

/-- RELEASE of a buffer that the host holds; a pinned one is only marked (R216, R219). -/
theorem Dev.poolReleaseOp_of_held (held : s.bufNamed a.func (handleOf a.raw) [.hostHeld] = some i) (args : poolArgsOk false a.raw = true) :
    s.poolReleaseOp a =
      let t := if (s.buf i).pins = 0 then s.freeBuf i else s.setBuf i { s.buf i with releaseDue := true }
      t.poolDone a (handleOf a.raw) (t.buf i).state (s.buf i).base := by
  simp only [Dev.poolReleaseOp, Dev.releaseBuf, held, args, beq_iff_eq, if_true]

end

/-- Settles O23: each command's descriptor runs, and its operation is that of a buffer it may name. -/
theorem poolMarksComplete : Obligations.PoolMarksComplete := by
  unfold Obligations.PoolMarksComplete
  exact ⟨fun s d a i base runs args record run records granules =>
      next_runDesc_of_runs runs (Dev.poolAllocOp_of_room args record run records granules),
    fun s d a i runs takable args => next_runDesc_of_runs runs (Dev.poolTakeOp_of_takable takable args),
    fun s d a i runs held args => next_runDesc_of_runs runs (congrArg Dev.pumpWaiting (Dev.poolReleaseOp_of_held held args)),
    fun s d a i runs takable args => next_runDesc_of_runs runs (congrArg Dev.pumpWaiting (Dev.poolDiscardOp_of_takable takable args))⟩

end Sys2Proof.Machine
end

section
/-!
Rings in host memory (R224, R236, R301): what a write into a byte ring stores, what stands beside a counter written after it, and writes of the
device that do not fail.
-/
namespace Sys2Proof.Machine

/-! Byte rings in memory (R224) -/

theorem Mem.getElem?_readN (m : Mem) (a : Nat) {n k : Nat} (h : k < n) : (m.readN a n)[k]? = some (m.read (a + k)) := by
  induction n generalizing a k with
  | zero => omega
  | succ n ih =>
    cases k with
    | zero => rfl
    | succ k => simpa only [Mem.readN, List.getElem?_cons_succ, Nat.add_assoc, Nat.add_comm 1 k] using ih (a + 1) (Nat.lt_of_succ_lt_succ h)

/-- Byte k of the bytes just written. -/
theorem Mem.read_writeN_inside {m : Mem} (wf : m.wf = true) (a : Nat) {b : Bytes} {k : Nat} (h : k < b.length) :
    (m.writeN a b).read (a + k) = b.getD k 0 := by
  have byte := Mem.getElem?_readN (m.writeN a b) a h
  rw [Mem.readN_writeN_same m a b wf] at byte
  rw [List.getD_eq_getElem?_getD, byte, Option.getD_some]

/-- A counter of 8 bytes, read back. -/
theorem Mem.leNat_readN_writeN_leBytes {m : Mem} (wf : m.wf = true) (p v : Nat) :
    leNat ((m.writeN p (leBytes 8 v)).readN p 8) = v % 2 ^ 64 := by
  have same := Mem.readN_writeN_same m p (leBytes 8 v) wf
  rw [length_leBytes] at same
  rw [same]
  exact leNat_leBytes 8 v

/-- What a write into a byte ring stores: bytes past the ring's end go on at its base. -/
def Mem.writeRing (m : Mem) (base size off : Nat) (b : Bytes) : Mem :=
  if b.length ≤ size - off % size then m.writeN (base + off % size) b
  else (m.writeN (base + off % size) (b.take (size - off % size))).writeN base (b.drop (size - off % size))

theorem Mem.wf_writeRing {m : Mem} (wf : m.wf = true) (base size off : Nat) (b : Bytes) : (m.writeRing base size off b).wf = true := by
  unfold Mem.writeRing
  split
  · exact Mem.wf_writeN _ _ _ wf
  · exact Mem.wf_writeN _ _ _ (Mem.wf_writeN _ _ _ wf)

/-- Byte k of bytes that the ring holds stands at their offset plus k, in the ring. -/
theorem Mem.read_writeRing {m : Mem} (wf : m.wf = true) (base : Nat) {size : Nat} (off : Nat) {b : Bytes} (fits : b.length ≤ size) {k : Nat}
    (h : k < b.length) : (m.writeRing base size off b).read (base + (off + k) % size) = b.getD k 0 := by
  have start : off % size < size := Nat.mod_lt _ (by omega)
  have place : (off + k) % size = if off % size + k < size then off % size + k else off % size + k - size := by
    rw [Nat.add_mod, Nat.mod_eq_of_lt (by omega : k < size)]
    split
    case isTrue below => exact Nat.mod_eq_of_lt below
    case isFalse past => rw [Nat.mod_eq_sub_mod (by omega), Nat.mod_eq_of_lt (by omega)]
  unfold Mem.writeRing
  split
  case isTrue whole =>
    rw [place, if_pos (by omega), ← Nat.add_assoc]
    exact Mem.read_writeN_inside wf _ h
  case isFalse wraps =>
    rw [place]
    split
    case isTrue below =>
      have part : k < (b.take (size - off % size)).length := by rw [List.length_take]; omega
      rw [Mem.read_writeN_other _ _ _ _ (.inr (by rw [List.length_drop]; omega)), ← Nat.add_assoc, Mem.read_writeN_inside wf _ part]
      simp only [List.getD_eq_getElem?_getD, List.getElem?_take_of_lt (show k < size - off % size by omega)]
    case isFalse past =>
      have part : off % size + k - size < (b.drop (size - off % size)).length := by rw [List.length_drop]; omega
      rw [Mem.read_writeN_inside (Mem.wf_writeN _ _ _ wf) _ part]
      simp only [List.getD_eq_getElem?_getD, List.getElem?_drop, show size - off % size + (off % size + k - size) = k by omega]

/-- So it does beside a counter that is written after it. -/
theorem Mem.read_writeRing_beside_counter {m : Mem} (wf : m.wf = true) {base size : Nat} (off : Nat) {b : Bytes} {p : Nat} (v : Nat)
    (apart : base + size ≤ p ∨ p + 8 ≤ base) (fits : b.length ≤ size) {k : Nat} (h : k < b.length) :
    ((m.writeRing base size off b).writeN p (leBytes 8 v)).read (base + (off + k) % size) = b.getD k 0 := by
  have place : (off + k) % size < size := Nat.mod_lt _ (by omega)
  rw [Mem.read_writeN_other _ _ _ _ (by rw [length_leBytes]; omega)]
  exact Mem.read_writeRing wf base off fits h

/-- An entry beside a counter that is written after it. -/
theorem Mem.readN_writeN_beside_counter {m : Mem} (wf : m.wf = true) {a : Nat} {b : Bytes} {p : Nat} (v : Nat)
    (apart : a + b.length ≤ p ∨ p + 8 ≤ a) : ((m.writeN a b).writeN p (leBytes 8 v)).readN a b.length = b := by
  rw [Mem.readN_writeN_other _ _ _ _ _ (by rwa [length_leBytes])]
  exact Mem.readN_writeN_same m a b wf

/-! Writes to host memory that do not fail (R301) -/

/-- A write to host memory leaves it as m, and device memory, the streams and the surroundings as they were. -/
structure Dev.Stores (s : Dev) (m : Mem) (t : Dev) : Prop where
  hmem : t.hmem = m
  dmem : t.dmem = s.dmem
  media : t.media = s.media
  sys : t.sys = s.sys

theorem Dev.Stores.trans {s t u : Dev} {m k : Mem} (h : s.Stores m t) (g : t.Stores k u) : s.Stores k u :=
  ⟨g.hmem, g.dmem.trans h.dmem, g.media.trans h.media, g.sys.trans h.sys⟩

section
variable {s : Dev} (no_faults : s.sys.hostFaults = [])
include no_faults

theorem Dev.hostWrite_stores (a : Nat) (b : Bytes) : ∃ t : Dev, s.hostWrite a b = some t ∧ s.Stores (s.hmem.writeN a b) t := by
  have answers := Dev.hostWrite_some s a b no_faults
  obtain ⟨dmem, media, -, -, -, sys, -, -⟩ := Dev.hostWrite_frame answers
  exact ⟨_, answers, Dev.hostWrite_hmem answers, dmem, media, sys⟩

theorem Dev.ringWrite_stores (base size off : Nat) (b : Bytes) :
    ∃ t : Dev, s.ringWrite base size off b = some t ∧ s.Stores (s.hmem.writeRing base size off b) t := by
  by_cases whole : b.length ≤ size - off % size
  · simp only [Dev.ringWrite, Mem.writeRing, if_pos whole]
    exact Dev.hostWrite_stores no_faults (base + off % size) b
  · simp only [Dev.ringWrite, Mem.writeRing, if_neg whole]
    obtain ⟨t, head, stores⟩ := Dev.hostWrite_stores no_faults (base + off % size) (b.take (size - off % size))
    obtain ⟨u, tail, stores'⟩ := Dev.hostWrite_stores (stores.sys ▸ no_faults) base (b.drop (size - off % size))
    rw [stores.hmem] at stores'
    exact ⟨u, by rw [head, Option.bind_some, tail], stores.trans stores'⟩

/-- A write after which a counter is published. -/
theorem Dev.stores_then_counter {o : Option Dev} {m : Mem} (stores : ∃ t : Dev, o = some t ∧ s.Stores m t) (p v : Nat) :
    ∃ t : Dev, (o.bind fun t => t.hostWrite p (leBytes 8 v)) = some t ∧ s.Stores (m.writeN p (leBytes 8 v)) t := by
  obtain ⟨t, rfl, stores⟩ := stores
  obtain ⟨u, counter, stores'⟩ := Dev.hostWrite_stores (stores.sys ▸ no_faults) p (leBytes 8 v)
  rw [stores.hmem] at stores'
  exact ⟨u, counter, stores.trans stores'⟩

theorem Dev.consumedNow_of_no_faults (x : Stream) :
    s.consumedNow x = some (if x.waiting = Wait.room then x.consumed else leNat (s.hmem.readN (x.ptr + 8) 8)) := by
  unfold Dev.consumedNow Dev.readConsumed
  rw [Dev.hostRead_some s _ _ no_faults, Option.map_some]
  exact (apply_ite some _ _ _).symm

end

end Sys2Proof.Machine
end

section
/-!
What a device shows of a stream: the memories and a view of one stream, which steps keep them, and what a write into a ring of the stream leaves to
the host.
-/
namespace Sys2Proof.Machine

/-! A stream after a step -/

@[simp] theorem Dev.stream_setStream_same (s : Dev) (n : Nat) (x : Stream) : (s.setStream n x).stream n = some x :=
  SMap.find_put_same s.media.streams n x

theorem Dev.modStream_of_stream {s : Dev} {n : Nat} {x : Stream} (stream : s.stream n = some x) (f : Stream → Stream) :
    s.modStream n f = s.setStream n (f x) := by
  simp only [Dev.modStream, stream]

@[simp] theorem Dev.modStream_sys (s : Dev) (n : Nat) (f : Stream → Stream) : (s.modStream n f).sys = s.sys := by
  unfold Dev.modStream
  split <;> rfl
@[simp] theorem Dev.modStream_hmem (s : Dev) (n : Nat) (f : Stream → Stream) : (s.modStream n f).hmem = s.hmem := by
  unfold Dev.modStream
  split <;> rfl
@[simp] theorem Dev.modStream_dmem (s : Dev) (n : Nat) (f : Stream → Stream) : (s.modStream n f).dmem = s.dmem := by
  unfold Dev.modStream
  split <;> rfl
@[simp] theorem Dev.modStream_pool (s : Dev) (n : Nat) (f : Stream → Stream) : (s.modStream n f).media.pool = s.media.pool := by
  unfold Dev.modStream
  split <;> rfl

/-- From s to t the memories stay, and of stream n what a view of it shows. -/
structure Dev.KeepsView {α : Type} (view : Stream → α) (n : Nat) (s t : Dev) : Prop where
  hmem : t.hmem = s.hmem
  dmem : t.dmem = s.dmem
  view : (t.stream n).map view = (s.stream n).map view

section
variable {α : Type} {view : Stream → α} {n : Nat} {s t u : Dev}

theorem Dev.KeepsView.refl (s : Dev) : s.KeepsView view n s := ⟨rfl, rfl, rfl⟩

theorem Dev.KeepsView.trans (h : s.KeepsView view n t) (k : t.KeepsView view n u) : s.KeepsView view n u :=
  ⟨k.hmem.trans h.hmem, k.dmem.trans h.dmem, k.view.trans h.view⟩

theorem Dev.KeepsView.of_streams (hmem : t.hmem = s.hmem) (dmem : t.dmem = s.dmem) (streams : t.media.streams = s.media.streams) :
    s.KeepsView view n t :=
  ⟨hmem, dmem, by rw [Dev.stream, streams]; rfl⟩

theorem Dev.KeepsView.setStream {x y : Stream} (stream : s.stream n = some x) (same : view y = view x) :
    s.KeepsView view n (s.setStream n y) :=
  ⟨rfl, rfl, by rw [Dev.stream_setStream_same, stream, Option.map_some, Option.map_some, same]⟩

theorem Dev.KeepsView.modStream {f : Stream → Stream} (same : ∀ x : Stream, view (f x) = view x) :
    s.KeepsView view n (s.modStream n f) := by
  refine ⟨s.modStream_hmem n f, s.modStream_dmem n f, ?_⟩
  cases stream : s.stream n with
  | none => simp only [Dev.modStream, stream]
  | some x => rw [Dev.modStream_of_stream stream, Dev.stream_setStream_same, Option.map_some, Option.map_some, same]

theorem Dev.KeepsView.foldl {β : Type} {f : Dev → β → Dev} (step : ∀ (t : Dev) (b : β), t.KeepsView view n (f t b)) (l : List β) (s : Dev) :
    s.KeepsView view n (l.foldl f s) := by
  induction l generalizing s with
  | nil => exact .refl s
  | cons b l ih => exact (step s b).trans (ih (f s b))

theorem Dev.KeepsView.count (e k : Nat) : s.KeepsView view n (s.count e k) :=
  .of_streams (s.count_hmem e k) (s.count_dmem e k) (congrArg Media.streams (s.count_media e k))

theorem Dev.KeepsView.trace (k domain source : Nat) (p : Option Nat) (b : Bytes) :
    s.KeepsView view n (s.trace k domain source p b) :=
  .of_streams (Dev.trace_hmem ..) (Dev.trace_dmem ..) (congrArg Media.streams (Dev.trace_media ..))

theorem Dev.KeepsView.tallyExec (x : Stream) (e : Exec) : s.KeepsView view n (s.tallyExec x e) :=
  .foldl (fun _ _ => .count _ _) e.counts s

end

/-! Work on a unit keeps what the stream puts out -/

/-- Units waiting, bytes written, records waiting, records written. -/
abbrev OutputView : Type := List Emit × Nat × List RecOut × Nat

/-- What a stream has put out and what waits to be (R224, R236, R246, R257). -/
def Stream.output (x : Stream) : OutputView := (x.emits, x.emitted, x.recs, x.records)

theorem Stream.output_eq_iff {x : Stream} {e : List Emit} {k : Nat} {r : List RecOut} {j : Nat} :
    x.output = (e, k, r, j) ↔ x.emits = e ∧ x.emitted = k ∧ x.recs = r ∧ x.records = j := by
  simp only [Stream.output, Prod.mk.injEq]

section
variable (s : Dev) (n : Nat)

theorem Dev.gotRoom_keeps_output : s.KeepsView Stream.output n (s.gotRoom n) :=
  .modStream fun x => by split <;> rfl

theorem Dev.withdrawEngine_keeps_output (u : Test) : s.KeepsView Stream.output n (s.withdrawEngine u) := by
  simp only [Dev.withdrawEngine]
  split <;> exact .of_streams rfl rfl rfl

theorem Dev.engineIdle_keeps_output (i : Nat) : s.KeepsView Stream.output n (s.engineIdle i) := by
  unfold Dev.engineIdle
  split
  · split
    · exact Dev.withdrawEngine_keeps_output s n _
    · exact .refl s
  · exact .refl s

theorem Dev.modUnit_keeps_output (k : Nat) (f : MUnit → MUnit) : s.KeepsView Stream.output n (s.modUnit n k f) :=
  .modStream fun _ => rfl

theorem Dev.releaseEngine_keeps_output (k : Nat) : s.KeepsView Stream.output n (s.releaseEngine n k) := by
  unfold Dev.releaseEngine
  split
  · exact .refl s
  · split
    · exact .refl s
    · rename_i i _
      have held : s.KeepsView Stream.output n (s.holdEngine i none) := .of_streams rfl rfl rfl
      exact (held.trans (Dev.modUnit_keeps_output _ n k _)).trans (Dev.engineIdle_keeps_output _ n i)

theorem Dev.deliver_keeps_output (k : Nat) : s.KeepsView Stream.output n (s.deliver n k) := by
  unfold Dev.deliver
  split
  · exact .refl s
  · rename_i x stream
    split
    · exact .refl s
    · refine .trans (.trace ..) (.setStream (x := x) ?_ rfl)
      rw [Dev.stream, Dev.trace_media]
      exact stream

theorem Dev.writeCoded_keeps_output : s.KeepsView Stream.output n (s.writeCoded n) := by
  unfold Dev.writeCoded
  split
  · exact .refl s
  · split
    · exact .refl s
    · exact .foldl (fun t (u : MUnit) => Dev.releaseEngine_keeps_output t n u.number) _ s

/-- A unit that is written leaves its engine and is delivered (R173, R273). -/
theorem Dev.handOver_keeps_output (k : Nat) : s.KeepsView Stream.output n (((s.releaseEngine n k).deliver n k).writeCoded n) :=
  ((Dev.releaseEngine_keeps_output s n k).trans (Dev.deliver_keeps_output _ n k)).trans (Dev.writeCoded_keeps_output _ n)

end

/-! What a step puts out -/

/-- The device once CONSUMED of stream n is known (R224, R236). -/
def Dev.knowing (s : Dev) (n c : Nat) : Dev := s.modStream n fun y => { y with consumed := c }

theorem Dev.modStream_consumed (s : Dev) (n c : Nat) : (s.modStream n fun y => { y with consumed := c }) = s.knowing n c := rfl

theorem Dev.knowing_keeps_output (s : Dev) (n c : Nat) : s.KeepsView Stream.output n (s.knowing n c) := .modStream fun _ => rfl

@[simp] theorem Dev.knowing_sys (s : Dev) (n c : Nat) : (s.knowing n c).sys = s.sys := s.modStream_sys n _
@[simp] theorem Dev.knowing_hmem (s : Dev) (n c : Nat) : (s.knowing n c).hmem = s.hmem := s.modStream_hmem n _
@[simp] theorem Dev.knowing_dmem (s : Dev) (n c : Nat) : (s.knowing n c).dmem = s.dmem := s.modStream_dmem n _
@[simp] theorem Dev.knowing_buf (s : Dev) (n c i : Nat) : (s.knowing n c).buf i = s.buf i :=
  congrArg (fun p => SMap.get p i Buf.none) (s.modStream_pool n _)

/-- Memories m and d, and v in a view of stream n: what a device shows of them. -/
structure Dev.Shows {α : Type} (view : Stream → α) (n : Nat) (m d : Mem) (v : α) (t : Dev) : Prop where
  hmem : t.hmem = m
  dmem : t.dmem = d
  view : ∃ y : Stream, t.stream n = some y ∧ view y = v

section
variable {α : Type} {view : Stream → α} {n : Nat} {m d : Mem} {v : α} {s t : Dev}

theorem Dev.Shows.of_stream {x : Stream} (stream : s.stream n = some x) : s.Shows view n s.hmem s.dmem (view x) := ⟨rfl, rfl, x, stream, rfl⟩

theorem Dev.Shows.keeps (h : s.Shows view n m d v) (k : s.KeepsView view n t) : t.Shows view n m d v := by
  obtain ⟨hmem, dmem, y, stream, shown⟩ := h
  have same := k.view
  simp only [stream, Option.map_some, Option.map_eq_some_iff, shown] at same
  exact ⟨k.hmem.trans hmem, k.dmem.trans dmem, same⟩

theorem Dev.Shows.stores {k : Mem} (h : s.Shows view n m d v) (stores : s.Stores k t) : t.Shows view n k d v :=
  ⟨stores.hmem, stores.dmem.trans h.dmem, by rw [Dev.stream, stores.media]; exact h.view⟩

/-- A change of the stream changes the view of it by g. -/
theorem Dev.Shows.modStream (g : α → α) {f : Stream → Stream} (h : s.Shows view n m d v) (changes : ∀ z : Stream, view (f z) = g (view z)) :
    (s.modStream n f).Shows view n m d (g v) := by
  obtain ⟨hmem, dmem, y, stream, shown⟩ := h
  rw [Dev.modStream_of_stream stream]
  exact ⟨hmem, dmem, f y, Dev.stream_setStream_same s n (f y), (changes y).trans (congrArg g shown)⟩

theorem Dev.Shows.modStream_id {x : Stream} (h : s.Shows id n m d x) (f : Stream → Stream) : (s.modStream n f).Shows id n m d (f x) :=
  h.modStream f fun _ => rfl

end

section
variable {s : Dev} (no_faults : s.sys.hostFaults = []) (n c : Nat)
include no_faults

/-- Once CONSUMED is known, bytes go into a ring and the counter after them (R224). -/
theorem Dev.knowing_stores_ring (base size off : Nat) (b : Bytes) (p v : Nat) :
    ∃ t : Dev, (((s.knowing n c).ringWrite base size off b).bind fun t => t.hostWrite p (leBytes 8 v)) = some t ∧
      (s.knowing n c).Stores ((s.hmem.writeRing base size off b).writeN p (leBytes 8 v)) t := by
  have reach : (s.knowing n c).sys.hostFaults = [] := by rw [Dev.knowing_sys, no_faults]
  rw [← s.knowing_hmem n c]
  exact Dev.stores_then_counter reach (Dev.ringWrite_stores reach base size off b) p v

/-- So do an entry of a record ring and the counter (R236). -/
theorem Dev.knowing_stores_entry (a : Nat) (b : Bytes) (p v : Nat) :
    ∃ t : Dev, (((s.knowing n c).hostWrite a b).bind fun t => t.hostWrite p (leBytes 8 v)) = some t ∧
      (s.knowing n c).Stores ((s.hmem.writeN a b).writeN p (leBytes 8 v)) t := by
  have reach : (s.knowing n c).sys.hostFaults = [] := by rw [Dev.knowing_sys, no_faults]
  rw [← s.knowing_hmem n c]
  exact Dev.stores_then_counter reach (Dev.hostWrite_stores reach a b) p v

end

/-- Once CONSUMED is known, a write to host memory made and room found, the stream's output is as before. -/
theorem Dev.Shows.of_stores {s t : Dev} {n c : Nat} {x : Stream} {m : Mem} (stream : s.stream n = some x) (stores : (s.knowing n c).Stores m t) :
    (t.gotRoom n).Shows Stream.output n m s.dmem x.output :=
  (((Dev.Shows.of_stream stream).keeps (s.knowing_keeps_output n c)).stores stores).keeps (t.gotRoom_keeps_output n)

/-! What the host finds once a counter is published -/

section
variable {α : Type} {view : Stream → α} {n : Nat} {m d : Mem} {v : α} {t : Dev} (wf : m.wf = true)
include wf

/-- The counter of a byte ring, and beside it the bytes in the ring (R224). -/
theorem Dev.Shows.published_ring {base size off p k : Nat} {b : Bytes}
    (h : t.Shows view n ((m.writeRing base size off b).writeN p (leBytes 8 k)) d v) :
    leNat (t.hmem.readN p 8) = k % 2 ^ 64 ∧ ((base + size ≤ p ∨ p + 8 ≤ base) → b.length ≤ size →
      ∀ i : Nat, i < b.length → t.hmem.read (base + (off + i) % size) = b.getD i 0) := by
  rw [h.hmem]
  exact ⟨Mem.leNat_readN_writeN_leBytes (Mem.wf_writeRing wf base size off b) p k,
    fun apart fits i below => Mem.read_writeRing_beside_counter wf off k apart fits below⟩

/-- The counter of a record ring, and beside it the entry (R236). -/
theorem Dev.Shows.published_entry {a p k : Nat} {b : Bytes} (h : t.Shows view n ((m.writeN a b).writeN p (leBytes 8 k)) d v) :
    leNat (t.hmem.readN p 8) = k % 2 ^ 64 ∧ ((a + b.length ≤ p ∨ p + 8 ≤ a) → t.hmem.readN a b.length = b) := by
  rw [h.hmem]
  exact ⟨Mem.leNat_readN_writeN_leBytes (Mem.wf_writeN m a b wf) p k, fun apart => Mem.readN_writeN_beside_counter wf k apart⟩

end

end Sys2Proof.Machine
end

section
/-!
Steps of a stream (R129 to R131, R211, R217, R224, R229, R233, R236, R246, R257): output to the host, AUTO_COPY, region jobs, the closing of pictures,
training, and the statement about them.
-/
namespace Sys2Proof.Machine

/-! Output to the host (R217, R224, R236, R246, R257) -/

section
variable {s : Dev} {n c : Nat} {x : Stream} (stream : s.stream n = some x) (may : s.mayWrite x.func = true)
  (no_faults : s.sys.hostFaults = []) (consumed : s.consumedNow x = some c)
include stream may no_faults consumed

/-- UNIT_EMIT with room for the head unit. -/
theorem Dev.unitEmitOp_shows {e : Emit} {rest : List Emit} (emits : x.emits = e :: rest)
    (room : x.emitted + e.bytes.length ≤ c + 2 ^ x.ringLog2) :
    (s.unitEmitOp n).Shows Stream.output n
      ((s.hmem.writeRing x.ring (2 ^ x.ringLog2) x.emitted e.bytes).writeN x.ptr (leBytes 8 (x.emitted + e.bytes.length))) s.dmem
      (rest, x.emitted + e.bytes.length, x.recs, x.records) := by
  obtain ⟨t, stored, stores⟩ := Dev.knowing_stores_ring no_faults n c x.ring (2 ^ x.ringLog2) x.emitted e.bytes x.ptr (x.emitted + e.bytes.length)
  have puts {f} := (Dev.Shows.of_stores stream stores).modStream (f := f) fun o => (rest, x.emitted + e.bytes.length, o.2.2)
  simp only [Dev.unitEmitOp, stream, emits, may, consumed, Dev.modStream_consumed, if_neg (Nat.not_lt.2 room), stored, Bool.not_true,
    Bool.false_eq_true, if_false]
  cases e.unit with
  | none => exact puts fun _ => rfl
  | some k => exact (puts fun _ => rfl).keeps (Dev.handOver_keeps_output _ n k)

/-- OUTPUT_RECORD with room for the head record. -/
theorem Dev.outputRecordOp_shows (medium : x.medium = 1) {r : RecOut} {rest : List RecOut} (recs : x.recs = r :: rest)
    (room : x.emitted + r.bytes.length ≤ c + 2 ^ x.ringLog2) :
    (s.outputRecordOp n).Shows Stream.output n
      ((s.hmem.writeRing x.ring (2 ^ x.ringLog2) x.emitted r.bytes).writeN x.ptr (leBytes 8 (x.emitted + r.bytes.length))) s.dmem
      (x.emits, x.emitted + r.bytes.length, rest, x.records) := by
  obtain ⟨t, stored, stores⟩ := Dev.knowing_stores_ring no_faults n c x.ring (2 ^ x.ringLog2) x.emitted r.bytes x.ptr (x.emitted + r.bytes.length)
  have puts {f} := (Dev.Shows.of_stores stream stores).modStream (f := f) fun o => (o.1, x.emitted + r.bytes.length, rest, o.2.2.2)
  simp only [Dev.outputRecordOp, stream, medium, recs, may, consumed, Dev.modStream_consumed, if_neg (Nat.not_lt.2 room), stored, bne_self_eq_false,
    Bool.not_true, Bool.or_self, Bool.false_eq_true, if_false]
  cases r.unit with
  | none => exact puts fun _ => rfl
  | some k => exact (puts fun _ => rfl).keeps (Dev.deliver_keeps_output _ n k)

/-- PICTURE_RECORD and BLOCK_RECORD with room for the head record, whose picture is copied where it must be. -/
theorem Dev.recordOp_shows {r : RecOut} {rest : List RecOut} (recs : x.recs = r :: rest) (copied : x.autoCopy = false ∨ r.copied = true)
    (room : x.records < c + if x.autoCopy = true then min (2 ^ x.ringLog2) (u16At x.param 100) else 2 ^ x.ringLog2) (size : Nat)
    (entry : Stream → RecOut → Bytes) :
    (s.recordOp n size entry).Shows Stream.output n
      ((s.hmem.writeN (x.ring + size * (x.records % 2 ^ x.ringLog2)) (entry x r)).writeN x.ptr (leBytes 8 (x.records + 1))) s.dmem
      (x.emits, x.emitted, rest, x.records + 1) := by
  have moved : (x.autoCopy && !r.copied) = false := by
    obtain manual | copied := copied
    · rw [manual, Bool.false_and]
    · rw [copied, Bool.not_true, Bool.and_false]
  obtain ⟨t, stored, stores⟩ := Dev.knowing_stores_entry no_faults n c (x.ring + size * (x.records % 2 ^ x.ringLog2)) (entry x r) x.ptr
    (x.records + 1)
  have puts {f} := (Dev.Shows.of_stores stream stores).modStream (f := f) fun o => (o.1, o.2.1, rest, o.2.2.2 + 1)
  simp only [Dev.recordOp, stream, recs, may, moved, consumed, Dev.modStream_consumed, ge_iff_le, if_neg (Nat.not_le.2 room), stored, Bool.not_true,
    Bool.or_self, Bool.false_eq_true, if_false]
  cases r.unit with
  | none => exact puts fun _ => rfl
  | some k => exact (puts fun _ => rfl).keeps (Dev.deliver_keeps_output _ n k)

end

/-- The bytes of a picture record as they go out, with HOST_SLOT and SEQ (R236). -/
def pictureEntry (y : Stream) (r : RecOut) : Bytes :=
  r.bytes.take 12 ++ leBytes 4 (if y.autoCopy = true then y.records % max 1 (u16At y.param 100) else none32) ++ (r.bytes.drop 16).take 8 ++
    leBytes 4 (y.records % 2 ^ 32) ++ leBytes 4 0

section
variable {s : Dev} {n : Nat} {x : Stream} (stream : s.stream n = some x)
include stream

theorem Dev.pictureRecordOp_of_video (medium : x.medium = 0) : s.pictureRecordOp n = s.recordOp n 32 pictureEntry := by
  simp only [Dev.pictureRecordOp, stream, medium, bne_self_eq_false, Bool.false_eq_true, if_false]
  rfl

theorem Dev.blockRecordOp_of_field (medium : x.medium = 2) : s.blockRecordOp n = s.recordOp n 16 fun _ r => r.bytes := by
  simp only [Dev.blockRecordOp, stream, medium, beq_self_eq_true, if_true]

end

/-! AUTO_COPY (R217, R236) -/

theorem map_copied_listMod (l : List RecOut) (i : Nat) :
    (listMod l i fun z => { z with copied := true }).map (fun q => q.copied) = (l.map fun q => q.copied).set i true := by
  induction l generalizing i with
  | nil => cases i <;> rfl
  | cons r l ih =>
    cases i with
    | zero => rfl
    | succ i => exact congrArg (r.copied :: ·) (ih i)

theorem Dev.buf_freeBuf_same (s : Dev) (i : Nat) : ((s.freeBuf i).buf i).state = .free :=
  congrArg Buf.state (SMap.get_put_same s.media.pool i _ Buf.none)

/-- AUTO_COPY of a picture whose slot is free: its bytes in the pool go to the slot, and its buffer to FREE. -/
theorem Dev.autoCopyOp_copies {s : Dev} {n c : Nat} {x : Stream} (stream : s.stream n = some x) (may : s.mayWrite x.func = true)
    (no_faults : s.sys.hostFaults = []) (consumed : s.consumedNow x = some c) (wf : s.hmem.wf = true) {i b : Nat} {r : RecOut}
    (auto : x.autoCopy = true) (first : (x.recs.findIdx? fun q => !q.copied) = some i) (record : x.recs[i]? = some r) (buf : r.buf = some b)
    (room : x.records + i < c + u16At x.param 100) :
    (s.autoCopyOp n).hmem.readN (x.slotAddr (x.records + i)) (layoutOf x.param).size = s.dmem.readN (s.buf b).base (layoutOf x.param).size ∧
      ((s.autoCopyOp n).buf b).state = .free ∧ (s.autoCopyOp n).dmem = s.dmem ∧
      ∃ y : Stream, (s.autoCopyOp n).stream n = some y ∧ (y.recs.map fun q => q.copied) = (x.recs.map fun q => q.copied).set i true := by
  have reach : (s.knowing n c).sys.hostFaults = [] := by rw [Dev.knowing_sys, no_faults]
  obtain ⟨t, stored, stores⟩ := Dev.hostWrite_stores reach (x.slotAddr (x.records + i)) (s.dmem.readN (s.buf b).base (layoutOf x.param).size)
  rw [Dev.knowing_hmem] at stores
  simp only [Dev.autoCopyOp, stream, first, listGet, record, Option.getD_some, buf, auto, may, consumed, Dev.modStream_consumed, Dev.knowing_dmem,
    Dev.knowing_buf, ge_iff_le, if_neg (Nat.not_le.2 room), stored, Bool.not_true, Bool.or_self, Bool.false_eq_true, if_false]
  have freed : (t.gotRoom n).KeepsView Stream.output n ((t.gotRoom n).freeBuf b) := .of_streams rfl rfl rfl
  obtain ⟨hmem, dmem, y, stream', output⟩ := ((Dev.Shows.of_stores stream stores).keeps freed).modStream
    (f := fun y => { y with recs := listMod y.recs i fun z => { z with copied := true } })
    (fun o => (o.1, o.2.1, listMod o.2.2.1 i fun z => { z with copied := true }, o.2.2.2)) fun _ => rfl
  obtain ⟨-, -, recs, -⟩ := Stream.output_eq_iff.1 output
  refine ⟨?_, ?_, dmem, y, stream', ?_⟩
  · rw [hmem]
    have same := Mem.readN_writeN_same s.hmem (x.slotAddr (x.records + i)) (s.dmem.readN (s.buf b).base (layoutOf x.param).size) wf
    rwa [Mem.length_readN] at same
  · rw [Dev.buf, Dev.modStream_pool]
    exact Dev.buf_freeBuf_same _ b
  · rw [recs]
    exact map_copied_listMod x.recs i

/-! Regions (R129 to R131, R229) -/

/-- No more boxes are kept than asked for (R130). -/
theorem length_suppress_le (aware : Bool) (iou keepMax : Nat) (l : List Box) : (suppress aware iou keepMax l).length ≤ keepMax := by
  unfold suppress
  refine List.foldlRecOn l _ (motive := fun (kept : List Box) => kept.length ≤ keepMax) (Nat.zero_le _) fun kept le b _ => ?_
  split
  · exact le
  · rename_i more
    rw [List.length_append, List.length_singleton]
    simp only [ge_iff_le, Bool.or_eq_true, decide_eq_true_eq, not_or, Nat.not_le] at more
    exact more.1

/-- The stream whose region job has ended with the boxes kept (R131). -/
def Stream.withBoxes (x : Stream) (kept : List Box) : Stream :=
  { x with regionDue := false, boxes := leBytes 4 kept.length ++ kept.flatMap Box.record }

/-- A region job that is due leaves the records of the boxes kept, and nothing else but counts. -/
theorem Dev.regionOp_shows {s : Dev} {n : Nat} {x : Stream} (stream : s.stream n = some x) (due : x.regionDue = true)
    (now : s.regionNow x = true) :
    ∃ kept : List Box, kept.length ≤ 1024 ∧ (s.regionOp n).Shows id n s.hmem s.dmem (x.withBoxes kept) := by
  obtain ⟨t, kept, op, keeps, most⟩ : ∃ (t : Dev) (kept : List Box), (s.regionOp n = t.modStream n fun y => y.withBoxes kept) ∧
      s.KeepsView id n t ∧ kept.length ≤ 1024 := by
    simp only [Dev.regionOp, stream, due, now, Bool.not_true, Bool.or_self, Bool.false_eq_true, if_false]
    refine ⟨_, _, rfl, (Dev.KeepsView.trans ?_ (.count _ _)).trans (.count _ _), Nat.le_trans (length_suppress_le _ _ _ _) (by omega)⟩
    split
    · exact .tallyExec _ _
    · exact .refl s
  rw [op]
  exact ⟨kept, most, ((Dev.Shows.of_stream stream).keeps keeps).modStream_id fun y => y.withBoxes kept⟩

/-! The end of a picture (R211, R236) -/

section
variable {α : Type} {view : Stream → α} {n : Nat} (s : Dev)

/-- A cause other than INJECT and HOLDOVER, which affect every seat, leaves the streams as they were (R278). -/
theorem Dev.suspend_keeps {b : Nat} (some_seats : (b == 1 || b == 2) = false) : s.KeepsView view n (s.suspend b) := by
  simp only [Dev.suspend, some_seats, Bool.false_eq_true, if_false]
  split
  · exact .refl s
  · refine .trans ?_ (.trace ..)
    split <;> exact .of_streams rfl rfl rfl

theorem Dev.unsuspend_keeps (b : Nat) : s.KeepsView view n (s.unsuspend b) := by
  unfold Dev.unsuspend
  split
  · refine .trans ?_ (.trace ..)
    exact .of_streams rfl rfl rfl
  · exact .refl s

theorem Dev.cause_keeps {b : Nat} (some_seats : (b == 1 || b == 2) = false) (on : Bool) : s.KeepsView view n (s.cause b on) := by
  unfold Dev.cause
  split
  · exact s.suspend_keeps some_seats
  · exact s.unsuspend_keeps b

theorem Dev.refreshStreams_keeps : s.KeepsView view n s.refreshStreams :=
  (((Dev.cause_keeps s rfl _).trans (Dev.cause_keeps _ rfl _)).trans (Dev.cause_keeps _ rfl _)).trans (Dev.cause_keeps _ rfl _)

theorem Dev.settleFeatures_keeps : s.KeepsView view n (s.settleFeatures n) := by
  unfold Dev.settleFeatures
  split
  · exact .refl s
  · refine .foldl (fun t e => ?_) _ s
    split
    · exact .of_streams rfl rfl rfl
    · split <;> exact .of_streams rfl rfl rfl

end

/-- The open picture, pictures and access units counted, last, short and long reference, and how many records wait. -/
abbrev PicturesView : Type := Option Pic × Nat × Nat × Option RefSlot × Option RefSlot × Option RefSlot × Nat

/-- What closing a picture changes of a stream (R211, R236). -/
def Stream.pictures (x : Stream) : PicturesView :=
  (x.pic, x.pics, x.aus, x.last, x.short, x.long, x.recs.length)

theorem Dev.endAccess_keeps_pictures (s : Dev) (n q scope : Nat) (dig : Bytes) (kinds : List Nat) (chained : Bool) :
    s.KeepsView Stream.pictures n (s.endAccess n q scope dig kinds chained) := by
  unfold Dev.endAccess
  split
  · exact .refl s
  · exact .setStream (x := ‹Stream›) ‹_› rfl

/-- What is shown once picture p has closed, with as many more access units and records (R211, R236). -/
def Stream.picturesClosed (x : Stream) (p : Pic) (aus recs : Nat) : PicturesView :=
  let slot : RefSlot := { picId := p.picId, buf := p.buf }
  (none, x.pics + 1, x.aus + aus, some slot, if bitAt p.mark 0 = true then some slot else x.short,
    if bitAt p.mark 1 = true then some slot else x.long, x.recs.length + recs)

/-- PICTURE_CLOSE of a picture whose slices are done and that has begun to go out. -/
theorem Dev.pictureCloseOp_shows {s : Dev} {n : Nat} {x : Stream} {p : Pic} (stream : s.stream n = some x) (pic : x.pic = some p)
    (done : x.pictureDone p = true) (begun : p.begun = true) :
    (s.pictureCloseOp n).Shows Stream.pictures n s.hmem s.dmem (x.picturesClosed p 1 (if p.out.isSome = true then 1 else 0)) := by
  have closed {t : Dev} {f : Stream → Stream} {dig : Bytes} {kinds : List Nat} (features : s.KeepsView Stream.pictures n t) :=
    (((Dev.Shows.of_stream stream).keeps features).keeps (t.endAccess_keeps_pictures n p.job 0 dig kinds true)).modStream (f := f)
      fun ⟨_, pics, aus, _, short, long, recs⟩ => (none, pics + 1, aus, some { picId := p.picId, buf := p.buf },
        if bitAt p.mark 0 = true then some { picId := p.picId, buf := p.buf } else short,
        if bitAt p.mark 1 = true then some { picId := p.picId, buf := p.buf } else long, recs)
  simp only [Dev.pictureCloseOp, stream, pic, done, begun, Bool.not_true, Bool.or_self, Bool.false_eq_true, if_false]
  refine Dev.Shows.keeps (Dev.Shows.keeps ?_ (Dev.settleFeatures_keeps _)) (Dev.refreshStreams_keeps _)
  refine Dev.Shows.modStream (v := x.picturesClosed p 0 (if p.out.isSome = true then 1 else 0))
    (fun ⟨pic, pics, aus, last, short, long, recs⟩ => (pic, pics, aus + 1, last, short, long, recs)) ?_ fun _ => rfl
  cases p.out with
  | none =>
    refine closed ?_ fun _ => rfl
    split <;> exact .of_streams rfl rfl rfl
  | some b =>
    refine Dev.Shows.modStream (v := x.picturesClosed p 0 0)
      (fun ⟨pic, pics, aus, last, short, long, recs⟩ => (pic, pics, aus, last, short, long, recs + 1)) ?_ fun z => ?_
    · refine Dev.Shows.keeps (closed ?_ fun _ => rfl) (.of_streams rfl rfl rfl)
      split <;> exact .of_streams rfl rfl rfl
    · simp only [Stream.pictures, List.length_append, List.length_singleton]

/-! Training (R233, R234) -/

/-- TRAIN of an adapter I picture whose slices are coded and whose departures have been; the master matrices are free. -/
theorem Dev.trainOp_of_due {s : Dev} {n : Nat} {x : Stream} {p : Pic} {c : Contract} {t0 : Seat} (stream : s.stream n = some x)
    (pic : x.pic = some p) (token_free : x.tokenFree = true) (untrained : p.trained = false)
    (slices : (x.units.filter fun u => u.subject == p.picId).length = x.slices)
    (coded : ((x.units.filter fun u => u.subject == p.picId).all fun u => u.stage == .coded) = true) (seat : s.seatOf x = some (c, t0))
    (departed : c.guaranteed = false ∨ c.trainDeps (s.pkgOf x) c.spacing ≤ p.trainDeps) :
    ∃ masters : List (List Nat × List Nat), masters.length = u8At ((s.pkgOf x).prog 0) 21 ∧
      s.trainOp n =
        let pk := s.pkgOf x
        let recs := ((pk.entry 5).map (·.recs)).getD []
        let e := trainRuns recs p.picId (if u8At x.param 31 = 0 then 24 else u8At x.param 31) 0
          { Exec.start pk recs x.geo.1 x.geo.2.1 with maps := p.maps, depth := x.depth }
        Dev.tallyExec
          (s.setStream n
            { x with
              pic := some { p with trained := true, maps := e.maps }, adapter := some (adapterFrom (pk.prog 0) masters)
              scratch := overlay (e.maps.filter fun m => isScratch m.1) x.scratch }) x e := by
  have ready : (c.guaranteed && decide (p.trainDeps < c.trainDeps (s.pkgOf x) c.spacing)) = false := by
    simpa only [Bool.and_eq_false_iff, decide_eq_false_iff_not, Nat.not_lt] using departed
  simp only [Dev.trainOp, stream, pic, token_free, untrained, slices, coded, seat, ready, beq_self_eq_true, Bool.not_false, Bool.and_self,
    Bool.not_true, Bool.or_self, Bool.false_eq_true, if_false, beq_iff_eq]
  rw [Dev.modStream_of_stream stream]
  refine ⟨(List.range (u8At ((s.pkgOf x).prog 0) 21)).map ?masters, by rw [List.length_map, List.length_range], ?trained⟩
  case trained =>
    simp only [Stream.modPic, pic, Option.map_some]
    rfl

/-! The statement -/

/-- A command that is a step of a stream, on a device that serves commands. -/
theorem exec_of_streamStep {s : State} {c : Instr} {n : Nat} {op : Dev → Dev} (serving : s.dev.serving = true)
    (runs : exec c s = .next (s.onDev fun v => v.streamStep n op)) : exec c s = .next { s with dev := (op s.dev).follow n } :=
  runs.trans (next_onDev (Dev.streamStep_of_serving serving n rfl))

/-- Settles O51: each command is a step of the stream, and where it is due a view of the stream shows what its operation changes. The boxes
and the master matrices are free (log entries 16, 17); when CONSUMED counts (log entry 68), which slices a picture waits for (log entry 86) and when a
region unit works (log entry 177) are the model's choices. -/
theorem streamStepsComplete : Obligations.StreamStepsComplete := by
  unfold Obligations.StreamStepsComplete
  intro s n x serving stream
  refine ⟨fun p c t0 pic token_free untrained slices coded seat departed => ?train, fun due now => ?region,
    fun p pic done begun => ?close, fun may no_faults wf c known => ?output⟩
  case train =>
    obtain ⟨masters, count, op⟩ := Dev.trainOp_of_due stream pic token_free untrained slices coded seat departed
    exact ⟨masters, count, next_onDev (Dev.streamStep_of_serving serving n op)⟩
  case region =>
    obtain ⟨kept, most, hmem, dmem, y, stream', rfl⟩ := Dev.regionOp_shows stream due now
    exact ⟨_, kept, exec_of_streamStep serving rfl, hmem, dmem, most, stream'⟩
  case close =>
    obtain ⟨hmem, dmem, y, stream', shown⟩ := Dev.pictureCloseOp_shows stream pic done begun
    simp only [Stream.pictures, Stream.picturesClosed, Prod.mk.injEq] at shown
    obtain ⟨closed, pics, aus, last, short, long, recs⟩ := shown
    exact ⟨_, y, exec_of_streamStep serving rfl, stream', closed, pics, aus, ⟨last, short, long⟩, recs, hmem, dmem⟩
  case output =>
    have consumed : s.dev.consumedNow x = some c := known ▸ Dev.consumedNow_of_no_faults no_faults x
    refine ⟨fun e rest emits room => ?emit, fun r rest recs => ⟨fun medium copied room => ?picture, fun medium room => ?samples,
        fun medium copied room => ?block⟩, fun i b r auto first record buf room => ?copy⟩
    case emit =>
      have shows := Dev.unitEmitOp_shows stream may no_faults consumed emits room
      obtain ⟨counter, bytes⟩ := shows.published_ring wf
      obtain ⟨-, dmem, y, stream', output⟩ := shows
      obtain ⟨emits', emitted, -, -⟩ := Stream.output_eq_iff.1 output
      exact ⟨_, exec_of_streamStep serving rfl, counter, bytes, dmem, y, stream', emits', emitted⟩
    case picture =>
      have shows := Dev.recordOp_shows stream may no_faults consumed recs copied room 32 pictureEntry
      rw [← Dev.pictureRecordOp_of_video stream medium] at shows
      obtain ⟨counter, entry⟩ := shows.published_entry wf
      obtain ⟨-, dmem, y, stream', output⟩ := shows
      obtain ⟨-, -, recs', records⟩ := Stream.output_eq_iff.1 output
      exact ⟨_, exec_of_streamStep serving rfl, counter, entry, dmem, y, stream', recs', records⟩
    case samples =>
      have shows := Dev.outputRecordOp_shows stream may no_faults consumed medium recs room
      obtain ⟨counter, bytes⟩ := shows.published_ring wf
      obtain ⟨-, dmem, y, stream', output⟩ := shows
      obtain ⟨-, emitted, recs', -⟩ := Stream.output_eq_iff.1 output
      exact ⟨_, exec_of_streamStep serving rfl, counter, bytes, dmem, y, stream', recs', emitted⟩
    case block =>
      have shows := Dev.recordOp_shows stream may no_faults consumed recs copied room 16 fun _ r => r.bytes
      rw [← Dev.blockRecordOp_of_field stream medium] at shows
      obtain ⟨counter, entry⟩ := shows.published_entry wf
      obtain ⟨-, dmem, y, stream', output⟩ := shows
      obtain ⟨-, -, recs', records⟩ := Stream.output_eq_iff.1 output
      exact ⟨_, exec_of_streamStep serving rfl, counter, entry, dmem, y, stream', recs', records⟩
    case copy =>
      exact ⟨_, exec_of_streamStep serving rfl, Dev.autoCopyOp_copies stream may no_faults consumed wf auto first record buf room⟩

end Sys2Proof.Machine
end

section
/-!
Contracts (R259 to R263, R269): what CONTRACT_OPEN and CONTRACT_CLOSE come to once their descriptor passes the checks on it, and the statement about
both.
-/
namespace Sys2Proof.Machine

@[simp] theorem Dev.fn_count (s : Dev) (e n f : Nat) : (s.count e n).fn f = s.fn f :=
  congrArg (fun h => h.fns.get f Fn.reset) (s.count_host e n)

theorem Dev.contractCloseOp_of_idle {s : Dev} {a : Acc} {c : Contract} (contract : s.media.contracts.find (handleOf a.raw) = some c)
    (func : c.func = a.func) (idle : (c.seats.any fun x => x.stream.isSome) = false) :
    s.contractCloseOp a = (s.dropContract (handleOf a.raw)).complete a stDONE 0 0 none := by
  simp only [Dev.contractCloseOp, contract, func, idle, bne_self_eq_false, Bool.false_eq_true, if_false]

/-- Settles O20: with the block read, an opening is what the limits and admission say of it; the report's write does not fail. That the number is the
lowest is the model's choice (log entry 45). -/
theorem contractCommandsComplete : Obligations.ContractCommandsComplete := by
  unfold Obligations.ContractCommandsComplete
  refine ⟨fun s d a b h runs addr no_faults block known => next_runDesc_of_runs runs ?opens,
    fun s d a c runs contract func idle => next_runDesc_of_runs runs (Dev.contractCloseOp_of_idle contract func idle)⟩
  case opens =>
    have reads := Dev.hostRead_some s.dev (u64At a.raw 16) 64 no_faults
    have writes (r : Bytes) := Dev.hostWrite_some (s.dev.count (ev 11 0) 64) (u64At a.raw 16 + 64) r (by rw [Dev.count_sys, no_faults])
    simp only [Dev.contractOpenOp, if_neg (Nat.not_lt.2 addr), reads, ← block, Dev.fn_count, known, Dev.count_media, Bool.not_eq_true', Bool.or_eq_true,
      decide_eq_true_eq, or_assoc]
    refine ite_congr rfl (fun _ => rfl) fun _ => ite_congr rfl (fun _ => rfl) fun _ => ?_
    cases (s.dev.count (ev 11 0) 64).admitted _ _ with
    | error r => rfl
    | ok x => simp only [writes, Dev.count_media, Dev.putHost_media]

end Sys2Proof.Machine
end

section
/-!
Opening and closing a stream (R237, R262, R263, R293, R300): what STREAM_OPEN comes to where the stream fits, what STREAM_CLOSE comes to on an open
stream, and the statement about both.
-/
namespace Sys2Proof.Machine

/-! STREAM_OPEN (R262, R293) -/

/-- A JOB is twice its medium, and one more for a decoder (R258). -/
theorem Contract.job_split {c : Contract} {m : Nat} {enc : Bool} (job : c.job = 2 * m + if enc = true then 0 else 1) :
    c.job / 2 = m ∧ (c.job % 2 == 0) = enc := by
  have half : c.job / 2 = m := by rw [job]; split <;> omega
  have parity : c.job % 2 = if enc = true then 0 else 1 := by rw [job]; split <;> omega
  refine ⟨half, ?_⟩
  rw [parity]
  cases enc <;> rfl

/-- The parameter block of a stream of medium m suits the package and the contract (R211, R244, R251). -/
def Contract.paramsOk (c : Contract) (m : Nat) (b : Bytes) (enc : Bool) (p : Pkg) : Bool :=
  match m with
  | 0 => vpbOk b enc p c.gopMin
  | 1 => apbOk b enc p
  | _ => fpbOk b enc p

/-- A stream with the flags of its direction, which fits its contract and its package, takes a free seat where the pool has room (R262, R293). -/
theorem Dev.streamOpenOp_of_fits {s : Dev} {a : Acc} {c : Contract} {m : Nat} {enc : Bool} {b : Bytes} {k : Nat} {x : Stream}
    (contract : s.media.contracts.find (handleOf a.raw) = some c) (func : c.func = a.func) (job : c.job = 2 * m + if enc = true then 0 else 1)
    (flags : u8At a.raw 24 = if enc = true then 3 else 0) (addr : u64At a.raw 16 + paramLen m ≤ 2 ^ 64)
    (read : s.hostRead (u64At a.raw 16) (paramLen m) = some b)
    {p : Pkg} (package : p = s.media.pkgs.get c.pkg Pkg.empty) (params : c.paramsOk m b enc p = true) (geometry : geometryOk c m b p = true)
    (fits : c.fitsStream m b = true) (rerun : paramA m b ≤ c.rerunA) (seat : c.freeSeat = some k)
    (reserved : (s.count (ev 11 0) (paramLen m)).reserve
      (Stream.fresh a.func (handleOf a.raw) k (s.media.gens.get (lowestFree s.media.streams 1025) 0) m enc b c.pkg p) p = some x) :
    s.streamOpenOp a =
      let w := s.count (ev 11 0) (paramLen m)
      let i := lowestFree s.media.streams 1025
      ((w.setStream i x).modSeat (handleOf a.raw) k fun t =>
        { t with stream := some i, tokens := c.burst, tokenAt := w.nowNs, redos := 0, redoMark := 0, uncovered := false, link := false }).complete a
          stDONE (i + 65536 * s.media.gens.get i 0) 0 none := by
  subst package
  obtain ⟨medium, direction⟩ := Contract.job_split job
  have decoder_flags : (!enc && u8At a.raw 24 != 0) = false := by cases enc <;> simp [flags]
  have encoder_flags : (enc && u8At a.raw 24 != 3) = false := by cases enc <;> simp [flags]
  simp only [Dev.streamOpenOp, contract, func, direction, medium, read, Dev.count_media, fits, geometry, seat, reserved, decoder_flags, encoder_flags,
    decide_eq_false (Nat.not_lt.2 addr), decide_eq_false (Nat.not_lt.2 rerun), bne_self_eq_false, Bool.not_true, Bool.or_self, Bool.false_or,
    Bool.false_eq_true, if_false]
  exact if_neg (Bool.not_eq_true' _ ▸ Bool.not_eq_false _ ▸ params)

/-! STREAM_CLOSE (R237, R300) -/

/-- The end of stream n, which is x, does not act for a mirror, so that its close writes no End unit (R365; log entry 85). -/
def Dev.standsBy (s : Dev) (n : Nat) (x : Stream) : Bool :=
  match s.slotOf n with
  | some (_, t) => t.role != .active
  | none => x.mirror == .standby

theorem Dev.streamCloseOp_of_open {s : Dev} {a : Acc} {n : Nat} {x : Stream} (named : n = handleOf a.raw % 65536) (stream : s.stream n = some x)
    (func : x.func = a.func) (gen : x.gen = handleOf a.raw / 65536) (opened : x.closing = none) :
    s.streamCloseOp a =
      let y : Stream := { x.cancelJobs with closing := some a.seq, closeCorrupt := x.lacksSlices, endSent := s.standsBy n x }
      (((s.setStream n y).setStage a.seq .begun).endMirror n true).closeSlices n a.seq := by
  subst named
  simp only [Dev.streamCloseOp, stream, func, gen, opened, bne_self_eq_false, Bool.or_self, Option.isSome_none, Bool.false_eq_true, if_false]
  rfl

/-- Settles O21: each command by its operation on a stream that passes its checks. That the index is the lowest (log entry 45), which jobs a close cancels
(log entry 84), that no End unit of a standby stream is written (log entry 85) and that missing slices end the close with STREAM_CORRUPT (log entry
173) are the model's choices. -/
theorem streamOpenAndCloseComplete : Obligations.StreamOpenAndCloseComplete := by
  unfold Obligations.StreamOpenAndCloseComplete
  refine ⟨fun s d a w c m enc p b i k x runs contract func job flags addr read package counted params geometry fits rerun seat index reserved => ?opens,
    fun s d a n x runs named stream func gen opened => ?closes⟩
  case opens =>
    subst counted index
    rw [Dev.count_media] at reserved ⊢
    exact next_runDesc_of_runs runs (Dev.streamOpenOp_of_fits contract func job flags addr read package params geometry fits rerun seat reserved)
  case closes =>
    refine next_onDev ((Dev.streamDesc_of_runs runs _).trans ?_)
    rw [Dev.streamCloseOp_of_open named stream func gen opened, ← named]
    rfl

end Sys2Proof.Machine
end

section
/-!
Host jobs of the lossless engines (R277, R318, R319): what a job comes to that has its turn, what the ends of a booked segment come to on an engine that
works, and the statement about them.
-/
namespace Sys2Proof.Machine

/-! LL_COMP and LL_DECOMP (R277, R318) -/

section
variable {s : Dev} {a : Acc} {comp : Bool} (ok : s.llOk a comp = true) (turn : s.llAhead a < s.llFree)
include ok turn

theorem Dev.llOp_of_free_engine {e : Nat} (free : (s.findLle fun l => l.job.isNone && !l.segment) = some e) : s.llOp comp a = s.llRun a := by
  simp only [Dev.llOp, ok, if_neg (Nat.not_le.2 turn), free, Bool.not_true, Bool.false_eq_true, if_false, ge_iff_le]

/-- Where a booked segment runs on every engine that no job holds, the job waits suspended in one of them. -/
theorem Dev.llOp_of_booked_engine {e : Nat} (booked : (s.findLle fun l => l.job.isNone && !l.segment) = none)
    (unheld : (s.findLle fun l => l.job.isNone) = some e) :
    s.llOp comp a = ((s.setLle e { s.lle e with job := some a.seq, suspended := true }).setStage a.seq .begun).count (ev 13 3) 1 := by
  simp only [Dev.llOp, ok, if_neg (Nat.not_le.2 turn), booked, unheld, Bool.not_true, Bool.false_eq_true, if_false, ge_iff_le]

end

/-- The commands of the two kinds of job. -/
theorem next_llOp_of_runs {s : State} {d : Desc} {a : Acc} {comp : Bool} {t : Dev} (runs : s.dev.Runs d (if comp = true then 0x70 else 0x71) a)
    (op : s.dev.llOp comp a = t) : exec (if comp = true then .llComp d else .llDecomp d) s = .next { s with dev := t } := by
  cases comp with
  | true => exact next_runDesc_of_runs runs op
  | false => exact next_runDesc_of_runs runs op

/-! LL_SUSPEND and LL_RESUME (R319) -/

section
variable {s : Dev} {e : Nat} (working : s.working = true) (works : (s.lle e).failed = false)
include working works

theorem Dev.llSuspendOp_of_works :
    s.llSuspendOp e =
      let l := s.lle e
      let t := s.setLle e { l with segment := true, suspended := l.job.isSome }
      if l.job.isSome = true ∧ l.suspended = false then t.count (ev 13 3) 1 else t := by
  simp only [Dev.llSuspendOp, working, works, Bool.not_true, Bool.or_self, Bool.false_eq_true, if_false, Bool.and_eq_true, Bool.not_eq_true']

end

/-- Settles O25: a job by whether an engine is free of segments, the end of a segment by whether a host job waits in the engine. Which engine a job takes
is the model's choice (log entry 50). -/
theorem losslessJobsRunAndYield : Obligations.LosslessJobsRunAndYield := by
  unfold Obligations.LosslessJobsRunAndYield
  refine ⟨fun s d a comp runs ok turn => ⟨fun e free => next_llOp_of_runs runs (Dev.llOp_of_free_engine ok turn free),
      fun e booked unheld => next_llOp_of_runs runs (Dev.llOp_of_booked_engine ok turn booked unheld)⟩,
    fun s e working works => next_onDev (Dev.llSuspendOp_of_works working works), fun s e working works => next_onDev ?resumes⟩
  case resumes =>
    simp only [Dev.llResumeOp, working, works, Bool.not_true, Bool.or_self, Bool.false_eq_true, if_false]
    cases (s.dev.lle e).job with
    | none | some q => rfl

end Sys2Proof.Machine
end

section
/-!
Writes of ones that clear (R280, R331, R370): what a write to a sticky register and one to ADM_SUSP come to where the device takes them, and the statement
about both.
-/
namespace Sys2Proof.Machine

theorem State.clearSticky_of_writable {s : State} (writable : s.dev.stickyWritable = true) (g w : Nat) :
    s.clearSticky g w =
      { s with
        dev :=
          let gone := s.dev.regN (stickyAddr g) &&& w
          let d1 := s.dev.setRegN (stickyAddr g) (s.dev.regN (stickyAddr g) - gone)
          let d2 := if g = 3 ∧ bitAt gone 0 = true then d1.clearLedger else d1
          (List.range 32).foldl (fun (t : Dev) b => if bitAt (s.stickyHolds g &&& gone) b = true then t.sticky g b 0 else t) d2 } := by
  simp only [State.clearSticky, writable, Bool.not_true, Bool.false_eq_true, if_false, Bool.and_eq_true, beq_iff_eq]

theorem Dev.clearSusp_of_writable {s : Dev} (writable : s.writable 6 = true) (w : Nat) :
    s.clearSusp w =
      let was := s.regN (ADM + 0x20)
      let left := was - (was &&& w)
      let again := s.media.suspNow &&& (was &&& w)
      let t := s.setRegN (ADM + 0x20) (left ||| again)
      if left = 0 ∧ again ≠ 0 then t.setReg64 (ADM + 0x28) (ADM + 0x2C) s.sys.time else t := by
  simp only [Dev.clearSusp, writable, Bool.not_true, Bool.false_eq_true, if_false, Bool.and_eq_true, beq_iff_eq, bne_iff_ne]

/-- Settles O40: both writes reach their registers, and end an arming of the fuses. Which sticky bits have a cause that lasts is the model's reading (log
entry 114). -/
theorem clearingWritesComplete : Obligations.ClearingWritesComplete := by
  unfold Obligations.ClearingWritesComplete
  exact ⟨fun s g w writable => congrArg Host.Outcome.next (State.clearSticky_of_writable (s := s.disarm) writable g w.toNat),
    fun s w writable => next_onDev (s := s.disarm) (Dev.clearSusp_of_writable writable w.toNat)⟩

end Sys2Proof.Machine
end

section
/-!
The wheel (R263, R266, R270, R272, R274, R383): what RELEASE of a stream's first queued unit comes to by its class and tokens, what DEPARTURE of a seat
comes to by what waits for it, and the statement about both.
-/
namespace Sys2Proof.Machine

/-! RELEASE (R263, R272) -/

/-- Unit u of stream n, which is x, is released at rel and due at due. -/
def Dev.markReleased (s : Dev) (n : Nat) (x : Stream) (u : MUnit) (rel due : Rat) : Dev :=
  (s.modUnit n u.number fun w => { w with stage := .released, rel := rel, due := due, covered := !s.affected x }).trace 3 38 0 none
    ((unitTrace n u.number x.func 0).take 13)

/-- The time in which a seat of the contract gains a token (R263). -/
def Contract.tokenTime (c : Contract) : Rat := (c.period : Rat) / (c.units : Rat)

/-- The tokens of seat t once an input is complete at ic, but not before the moment for which they were counted. -/
def Contract.tokensFor (c : Contract) (t : Seat) (ic : Rat) : Rat :=
  min (c.burst : Rat) (t.tokens + (max ic t.tokenAt - t.tokenAt) / c.tokenTime)

/-- The moment at which R272 releases a unit whose input is complete at ic: then, or once the seat has a whole token. -/
def Contract.releaseFor (c : Contract) (t : Seat) (ic : Rat) : Rat :=
  if c.tokensFor t ic < 1 then max ic t.tokenAt + (1 - c.tokensFor t ic) * c.tokenTime else max ic t.tokenAt

/-- The first queued unit, with its input complete: best effort is due at no time that comes, an adapter I picture's slices take no token, and any other
unit takes one once its seat has it. -/
theorem Dev.releaseOp_of_complete {s : Dev} {r : UnitRef} {x : Stream} {u : MUnit} {c : Contract} {t : Seat} {ic : Rat}
    (stream : s.stream r.stream = some x) (first : x.firstQueued = some u) (number : u.number = r.number) (seat : s.seatOf x = some (c, t))
    (complete : s.inputComplete x u = some ic) :
    s.releaseOp r =
      if c.guaranteed = false then s.markReleased r.stream x u ic (ic + 4000000000000000000)
      else if x.tokenFree = true then s.markReleased r.stream x u ic (ic + x.latencyOf c u)
      else if s.nowNs < c.releaseFor t ic then s
      else
        (s.modSeat x.contract x.seat fun y => { y with tokens := max (c.tokensFor t ic) 1 - 1, tokenAt := c.releaseFor t ic }).markReleased r.stream x u
          (c.releaseFor t ic) (c.releaseFor t ic + x.latencyOf c u) := by
  simp only [Dev.releaseOp, stream, first, seat, complete, number, Dev.markReleased, Contract.releaseFor, Contract.tokensFor, Contract.tokenTime,
    bne_self_eq_false, Bool.false_eq_true, if_false, Bool.not_eq_true', decide_eq_true_eq]
  rfl

/-! DEPARTURE (R266, R270, R274, R383) -/

@[simp] theorem Dev.stream_modSeat (s : Dev) (cn k : Nat) (f : Seat → Seat) (n : Nat) : (s.modSeat cn k f).stream n = s.stream n := rfl

theorem Stream.firstReleased_eq_none {x : Stream} (none_released : (x.units.any fun u => u.stage == .released) = false) : x.firstReleased = none := by
  unfold Stream.firstReleased
  split
  · rfl
  · exact List.find?_eq_none.2 (List.any_eq_false.1 none_released)

/-- A best-effort seat departs at any slot, a guaranteed one at the start slots of its train, once in each (R266). -/
theorem Dev.departs_iff (s : Dev) (c : Contract) (t : Seat) :
    s.departs c t = true ↔
      c.guaranteed = false ∨ (trainStarts c.k t.offset).contains (s.slotNow % 1024) = true ∧ t.departed ≠ some s.slotNow := by
  simp only [Dev.departs, Bool.or_eq_true, Bool.not_eq_true', Bool.and_eq_true, bne_iff_ne]

theorem Dev.departs_eq_false_iff (s : Dev) (c : Contract) (t : Seat) :
    s.departs c t = false ↔
      c.guaranteed = true ∧ ((trainStarts c.k t.offset).contains (s.slotNow % 1024) = false ∨ t.departed = some s.slotNow) := by
  simp only [Dev.departs, Bool.or_eq_false_iff, Bool.not_eq_false', Bool.and_eq_false_iff, bne_eq_false_iff_eq]

/-- Seat k of contract cn has departed in the slot that runs. -/
def Dev.markDeparted (s : Dev) (cn k : Nat) : Dev := s.modSeat cn k fun y => { y with departed := some s.slotNow }

section
variable {s : Dev} {cn k : Nat} {c : Contract} {t : Seat} (contract : s.media.contracts.find cn = some c) (seat : c.seats[k]? = some t)
include contract seat

theorem Dev.departureOp_of_no_departure (held : t.lost = true ∨ s.departs c t = false) : s.departureOp cn k = s := by
  have held' : (t.lost || !s.departs c t) = true := by simpa only [Bool.or_eq_true, Bool.not_eq_true'] using held
  simp only [Dev.departureOp, contract, seat, Option.bind_some, Option.map_some, held', if_true]

variable (kept : t.lost = false) (departs : s.departs c t = true)
include kept departs

/-- A relocated seat moves in this departure, which carries no unit (R383). -/
theorem Dev.departureOp_of_moving (moving : t.moving = true) :
    s.departureOp cn k = ((s.markDeparted cn k).modSeat cn k fun y => { y with moving := false }).count (ev 14 1) 1 := by
  simp only [Dev.departureOp, contract, seat, Option.bind_some, Option.map_some, kept, departs, moving, Bool.not_true, Bool.or_self, Bool.false_eq_true,
    if_false, if_true, Dev.markDeparted]

variable (stays : t.moving = false)
include stays

theorem Dev.departureOp_of_no_stream (free : t.stream = none) : s.departureOp cn k = (s.markDeparted cn k).idleDeparture cn k := by
  simp only [Dev.departureOp, contract, seat, Option.bind_some, Option.map_some, kept, departs, stays, free, Option.bind_none, Bool.not_true,
    Bool.or_self, Bool.false_eq_true, if_false, Dev.markDeparted]

variable {n : Nat} {x : Stream} (holds : t.stream = some n) (stream : s.stream n = some x)
include holds stream

/-- The departure goes to the training or phase 10 of an adapter's picture where that is due (R233, R270). -/
theorem Dev.departureOp_of_turn (turn : (c.guaranteed && x.adapterTurn) = true) :
    s.departureOp cn k = (((s.markDeparted cn k).setStream n (x.modPic Pic.turn)).hostService cn k).count (ev 14 0) 1 := by
  simp only [Dev.departureOp, contract, seat, Option.bind_some, Option.map_some, kept, departs, stays, holds, Dev.stream_modSeat, stream, turn,
    Bool.not_true, Bool.or_self, Bool.false_eq_true, if_false, if_true, Dev.markDeparted]

variable (no_turn : (c.guaranteed && x.adapterTurn) = false)
include no_turn

theorem Dev.departureOp_of_released {u : MUnit} (released : x.firstReleased = some u) :
    s.departureOp cn k = (((s.markDeparted cn k).beginUnit n x u).hostService cn k).count (ev 14 0) 1 := by
  simp only [Dev.departureOp, contract, seat, Option.bind_some, Option.map_some, kept, departs, stays, holds, Dev.stream_modSeat, stream, no_turn,
    released, Bool.not_true, Bool.or_self, Bool.false_eq_true, if_false, Dev.markDeparted]

theorem Dev.departureOp_of_none_released (none_released : (x.units.any fun u => u.stage == .released) = false) :
    s.departureOp cn k = (s.markDeparted cn k).idleDeparture cn k := by
  simp only [Dev.departureOp, contract, seat, Option.bind_some, Option.map_some, kept, departs, stays, holds, Dev.stream_modSeat, stream, no_turn,
    Stream.firstReleased_eq_none none_released, none_released, Bool.not_true, Bool.or_self, Bool.false_eq_true, if_false, Dev.markDeparted]

end

/-! The statement -/

/-- RELEASE on a device that serves commands is its operation. -/
theorem exec_release_of_serving {s : State} {r : UnitRef} {d : Dev} (serving : s.dev.serving = true) (op : s.dev.releaseOp r = d) :
    exec (.release r) s = .next { s with dev := d } :=
  next_onDev ((if_pos serving).trans op)

/-- DEPARTURE of a seat on a device that serves commands is its operation, and what follows a step of the seat's stream. -/
theorem exec_departure_of_seat {s : State} {r : SeatRef} {c : Contract} {t : Seat} {d : Dev} (serving : s.dev.serving = true)
    (contract : s.dev.media.contracts.find r.contract.toNat = some c) (seat : c.seats[r.seat]? = some t)
    (op : s.dev.departureOp r.contract.toNat r.seat = d) :
    exec (.departure r) s = .next { s with dev := d.follow (t.stream.getD 1025) } := by
  have exec_eq : exec (.departure r) s = execDeparture r s := rfl
  simp only [exec_eq, execDeparture, contract, seat, Option.bind_some]
  exact next_onDev (Dev.streamStep_of_serving serving _ op)

/-- Settles O49: a release by its class and the seat's tokens, a departure by what R266 has it carry. That best-effort units run by DEPARTURE too (log
entry 46), that a move takes the seat's next departure (log entry 102) and in which slots a train departs (log entry 177) are the model's readings. -/
theorem wheelCommandsComplete : Obligations.WheelCommandsComplete := by
  unfold Obligations.WheelCommandsComplete
  refine ⟨fun s r x u c t ic serving stream first number seat complete => ?release, fun s r c t serving contract seat => ?departure⟩
  case release =>
    have runs {d : Dev} := exec_release_of_serving (r := r) (d := d) serving
    rw [Dev.releaseOp_of_complete stream first number seat complete] at runs
    refine ⟨fun best_effort => runs (if_pos best_effort), fun guaranteed token_free => ?_, fun guaranteed takes_token now => ?_,
      fun guaranteed takes_token later => ?_⟩
    · exact runs ((if_neg (by rw [guaranteed]; decide)).trans (if_pos token_free))
    · exact runs ((if_neg (by rw [guaranteed]; decide)).trans ((if_neg (by rw [takes_token]; decide)).trans (if_neg (Rat.not_lt.2 now))))
    · exact runs ((if_neg (by rw [guaranteed]; decide)).trans ((if_neg (by rw [takes_token]; decide)).trans (if_pos later)))
  case departure =>
    have runs {d : Dev} := exec_departure_of_seat (d := d) serving contract seat
    refine ⟨fun held => runs (Dev.departureOp_of_no_departure contract seat (held.imp_right (Dev.departs_eq_false_iff _ _ _).2)), fun kept due => ?_⟩
    have departs := (Dev.departs_iff s.dev c t).2 due
    refine ⟨fun moving => runs (Dev.departureOp_of_moving contract seat kept departs moving),
      fun stays free => runs (Dev.departureOp_of_no_stream contract seat kept departs stays free),
      fun x stays holds stream => ⟨fun guaranteed turn => ?_, fun no_turn => ?_⟩⟩
    · exact runs (Dev.departureOp_of_turn contract seat kept departs stays holds stream (by rw [guaranteed, turn]; rfl))
    · rw [← Bool.and_eq_false_iff] at no_turn
      exact ⟨fun u released => runs (Dev.departureOp_of_released contract seat kept departs stays holds stream no_turn released),
        fun none_released => runs (Dev.departureOp_of_none_released contract seat kept departs stays holds stream no_turn none_released)⟩

end Sys2Proof.Machine
end

section
/-!
Completion records (R296) and interrupts (R302): the fields of a record laid out in a row, what a pending bit reads once it is set, and the statements
about both.
-/
namespace Sys2Proof.Machine

/-! Fields laid out in a row (R6) -/

/-- A field past the first bytes of a record is one of the record's rest. -/
theorem fieldAt_append_of_length_le {x : Bytes} {off : Nat} (past : x.length ≤ off) (y : Bytes) (n : Nat) :
    fieldAt (x ++ y) off n = fieldAt y (off - x.length) n := by
  rw [fieldAt, fieldAt, List.drop_append, List.drop_eq_nil_of_le past, List.nil_append]

theorem fieldAt_leBytes_append (n v : Nat) (y : Bytes) : fieldAt (leBytes n v ++ y) 0 n = v % 2 ^ (8 * n) := by
  rw [fieldAt, List.drop_zero, List.take_left' (length_leBytes n v), leNat_leBytes]

theorem fieldAt_leBytes (n v : Nat) : fieldAt (leBytes n v) 0 n = v % 2 ^ (8 * n) := by
  rw [← fieldAt_leBytes_append n v [], List.append_nil]

/-! Completion records (R296) -/

theorem phaseOf_le_one (k log2 : Nat) : phaseOf k log2 ≤ 1 := Nat.sub_le 1 _

/-- The byte of FLAGS and PHASE keeps both whole. -/
theorem flags_phase_lt (c : Cpl) (k log2 : Nat) : c.flags % 128 + 128 * phaseOf k log2 < 256 := by
  have := phaseOf_le_one k log2
  omega

/-- Settles O9: a field stands at the widths of those before it, and reads as what its width keeps of the value. -/
theorem completionRecordLayout : Obligations.CompletionRecordLayout := by
  unfold Obligations.CompletionRecordLayout
  intro c k log2
  have phase : 1 - k / 2 ^ log2 % 2 = phaseOf k log2 := rfl
  have flags_mod := Nat.mod_eq_of_lt (flags_phase_lt c k log2)
  have ring_mod : c.ring % 64 % 256 = c.ring % 64 := Nat.mod_eq_of_lt (by omega)
  simp (disch := simp) [Cpl.entry, u8At, u32At, u64At, fieldAt_append_of_length_le, fieldAt_leBytes_append, fieldAt_leBytes, flags_mod, ring_mod,
    phase]

/-! Pending bits (R302) -/

theorem bitAt_eq_testBit (x i : Nat) : bitAt x i = x.testBit i := by
  rw [bitAt, Nat.testBit_eq_decide_div_mod_eq]
  exact Bool.beq_eq_decide_eq _ _

theorem Dev.regN_setRegN_same (s : Dev) (a v : Nat) : (s.setRegN a v).regN a = v % 2 ^ 32 := by
  simp only [Dev.regN, Dev.reg, Dev.setRegN, Dev.setReg, SMap.find_put_same, Option.getD_some, w32, BitVec.toNat_ofNat]

/-- The number with one bit taken out and 1 put in its place, as quotient and remainder at that bit. -/
theorem putBits_set_eq (x i : Nat) : putBits x i 1 1 = x % 2 ^ i + (2 * (x / 2 ^ i / 2) + 1) * 2 ^ i := by
  have whole := Nat.mod_add_div' x (2 ^ i)
  have quotient := congrArg (· * 2 ^ i) (Nat.div_add_mod (x / 2 ^ i) 2)
  simp only [Nat.add_mul] at quotient ⊢
  simp only [putBits, bits, Nat.pow_one, Nat.one_mod, Nat.one_mul]
  omega

theorem bitAt_putBits_set (x i : Nat) : bitAt (putBits x i 1 1) i = true := by
  rw [putBits_set_eq, bitAt, Nat.add_mul_div_right _ _ (Nat.two_pow_pos i), Nat.div_eq_of_lt (Nat.mod_lt x (Nat.two_pow_pos i)), Nat.zero_add,
    Nat.mul_add_mod]
  rfl

theorem Dev.bitAt_setPba (s : Dev) (f : Nat) {v : Nat} (vector : v < 32) : bitAt ((s.setPba f v true).regN (MSI f + 0x800)) v = true := by
  rw [Dev.setPba, Dev.regN_setRegN_same, bitAt_eq_testBit, Nat.testBit_mod_two_pow, ← bitAt_eq_testBit]
  simp only [vector, decide_true, Bool.true_and]
  exact bitAt_putBits_set _ _

/-! Triggers (R302, R329, R373) -/

section
variable {s : Dev} {f v : Nat} (sends : s.sys.mode ≠ .failStop ∧ s.sys.mode ≠ .frozen)
include sends

theorem Dev.trigger_of_canSend (can : s.canSend f v = true) : s.trigger f v = s.msi f v := by
  simp only [Dev.trigger, sends.1, sends.2, can, decide_false, Bool.or_self, Bool.false_eq_true, if_false, if_true]

theorem Dev.trigger_of_cannotSend (cannot : s.canSend f v = false) : s.trigger f v = s.setPba f v true := by
  simp only [Dev.trigger, sends.1, sends.2, cannot, decide_false, Bool.or_self, Bool.false_eq_true, if_false]

end

theorem Dev.msi_outputs (s : Dev) (f v : Nat) :
    (s.msi f v).host.outputs =
      s.host.outputs ++ [.msix (s.reg64 (MSI f + 16 * v) (MSI f + 16 * v + 4)) (s.regN (MSI f + 16 * v + 8))] := by
  rw [Dev.msi, Dev.count_host, Dev.output_outputs]

/-- Settles O14: by whether the message can be sent. -/
theorem triggersAreSentOrKept : Obligations.TriggersAreSentOrKept := by
  unfold Obligations.TriggersAreSentOrKept
  intro s f v function vector mode
  have sends : s.sys.mode ≠ .failStop ∧ s.sys.mode ≠ .frozen := by
    obtain mode | mode | mode := mode <;> rw [mode] <;> decide
  refine ⟨fun can => ?_, fun cannot => ?_⟩
  · rw [Dev.trigger_of_canSend sends can]
    exact ⟨s.msi_outputs f v, s.msi_regs f v⟩
  · rw [Dev.trigger_of_cannotSend sends cannot]
    exact ⟨rfl, s.bitAt_setPba f vector⟩

end Sys2Proof.Machine
end

section
/-!
The order in which a completion is written (R298): what each write to host memory leaves for the next one, what the interrupt side leaves of the ring,
and the statement about all of it.
-/
namespace Sys2Proof.Machine

/-! Writes of a ring's own structures (R298, R301) -/

/-- A write to host memory leaves it as m; the rings, the registers and the surroundings stay as they were. -/
structure Dev.Puts (s : Dev) (m : Mem) (t : Dev) : Prop where
  hmem : t.hmem = m
  host : t.host = s.host
  regs : t.regs = s.regs
  sys : t.sys = s.sys

theorem Dev.Puts.refl (s : Dev) : s.Puts s.hmem s := ⟨rfl, rfl, rfl, rfl⟩

theorem Dev.Puts.trans {s t u : Dev} {m k : Mem} (h : s.Puts m t) (g : t.Puts k u) : s.Puts k u :=
  ⟨g.hmem, g.host.trans h.host, g.regs.trans h.regs, g.sys.trans h.sys⟩

/-- The doorbell page is named by registers. -/
theorem Dev.Puts.doorbell {s t : Dev} {m : Mem} (h : s.Puts m t) (f : Nat) : t.doorbell f = s.doorbell f := by
  simp only [Dev.doorbell, Dev.reg64, Dev.regN, Dev.reg, h.regs]

/-- Host memory with the hallmark record of a completion, where it carries one. -/
def Cpl.putHallmark (h : Cpl) (r : CRing) (m : Mem) : Mem :=
  match h.hallmark with
  | some hm => m.writeN (r.hmBase + 128 * (r.wr % 2 ^ r.log2)) hm
  | none => m

section
variable {s : Dev} (no_faults : s.sys.hostFaults = [])
include no_faults

theorem Dev.hostWrite_puts (a : Nat) (b : Bytes) : ∃ t : Dev, s.hostWrite a b = some t ∧ s.Puts (s.hmem.writeN a b) t := by
  have answers := Dev.hostWrite_some s a b no_faults
  obtain ⟨-, -, -, -, -, sys, regs, host⟩ := Dev.hostWrite_frame answers
  exact ⟨_, answers, Dev.hostWrite_hmem answers, host, regs, sys⟩

theorem Dev.writeHallmark_puts (r : CRing) (h : Cpl) : ∃ t : Dev, s.writeHallmark r h = some t ∧ s.Puts (h.putHallmark r s.hmem) t := by
  unfold Dev.writeHallmark Cpl.putHallmark
  cases h.hallmark with
  | none => exact ⟨s, rfl, .refl s⟩
  | some hm => exact Dev.hostWrite_puts no_faults _ hm

/-- A ring whose WR is not held has the hallmark written, then the entry. -/
theorem Dev.writeEntry_puts {r : CRing} (unheld : r.wrHeld = false) (h : Cpl) :
    ∃ t : Dev, s.writeEntry r h = (t, true) ∧
      s.Puts ((h.putHallmark r s.hmem).writeN (r.base + 32 * (r.wr % 2 ^ r.log2)) (h.entry r.wr r.log2)) t := by
  obtain ⟨t, hallmark, puts⟩ := Dev.writeHallmark_puts no_faults r h
  obtain ⟨u, entry, puts'⟩ := Dev.hostWrite_puts (puts.sys ▸ no_faults) (r.base + 32 * (r.wr % 2 ^ r.log2)) (h.entry r.wr r.log2)
  rw [puts.hmem] at puts'
  refine ⟨u, ?_, puts.trans puts'⟩
  simp only [Dev.writeEntry, unheld, hallmark, entry, Bool.false_eq_true, if_false]

end

/-! What the interrupt side leaves of a ring (R302) -/

@[simp] theorem Dev.cring_setCring_same (s : Dev) (f c : Nat) (r : CRing) : (s.setCring f c r).cring f c = r := by
  simp only [Dev.cring, Dev.fn, Dev.setCring, Dev.setFn, SMap.get_put_same]

@[simp] theorem Dev.cring_count (s : Dev) (e n f c : Nat) : (s.count e n).cring f c = s.cring f c := by
  simp only [Dev.cring, Dev.fn_count]

@[simp] theorem Dev.cring_msi (s : Dev) (f v g c : Nat) : (s.msi f v).cring g c = s.cring g c := by
  rw [Dev.msi, Dev.cring_count]
  rfl

@[simp] theorem Dev.cring_trigger (s : Dev) (f v g c : Nat) : (s.trigger f v).cring g c = s.cring g c := by
  unfold Dev.trigger
  split
  · rfl
  · split
    · exact s.cring_msi f v g c
    · rfl

/-- Signalling a completion counts towards the ring's moderation; it neither takes a completion from the queue nor moves WR. -/
theorem Dev.cplIrq_keeps_queue_wr (s : Dev) (f c : Nat) (now : Bool) :
    ((s.cplIrq f c now).cring f c).queue = (s.cring f c).queue ∧ ((s.cplIrq f c now).cring f c).wr = (s.cring f c).wr := by
  unfold Dev.cplIrq
  dsimp only
  split
  · exact ⟨rfl, rfl⟩
  · split
    · rw [Dev.cring_trigger, Dev.cring_setCring_same]
      exact ⟨rfl, rfl⟩
    · rw [Dev.cring_setCring_same]
      exact ⟨rfl, rfl⟩

/-! Publishing an entry (R298) -/

theorem Dev.publish_publishes {s : Dev} (no_faults : s.sys.hostFaults = []) (f c : Nat) (r : CRing) (h : Cpl) (rest : List Cpl) :
    ∃ t : Dev, s.publish f c r h rest = (t, true) ∧ (t.cring f c).queue = rest ∧ (t.cring f c).wr = (r.wr + 1) % 2 ^ 32 ∧
      t.hmem = s.hmem.writeN (s.doorbell f + 768 + 4 * c) (leBytes 4 ((r.wr + 1) % 2 ^ 32)) := by
  obtain ⟨u, write, puts⟩ := Dev.hostWrite_puts no_faults (s.doorbell f + 768 + 4 * c) (leBytes 4 ((r.wr + 1) % 2 ^ 32))
  simp only [Dev.publish, Dev.writeWr, write]
  refine ⟨_, rfl, ?_⟩
  simp only [Dev.cring_count, Dev.cplIrq_keeps_queue_wr, Dev.cring_setCring_same, Dev.count_hmem, Dev.cplIrq_hmem, true_and]
  exact puts.hmem

/-- Settles O10: hallmark and entry are put where the ring stands, and then the count is published over them. -/
theorem completionIsWrittenInOrder : Obligations.CompletionIsWrittenInOrder := by
  unfold Obligations.CompletionIsWrittenInOrder
  intro s f c h rest no_faults unheld
  obtain ⟨u, entry, puts⟩ := Dev.writeEntry_puts no_faults unheld h
  obtain ⟨t, publish, queue, wr, hmem⟩ := Dev.publish_publishes (puts.sys ▸ no_faults) f c (s.cring f c) h rest
  refine ⟨t, by simp only [Dev.writeHead, entry, publish], queue, wr, ?_⟩
  rw [hmem, puts.hmem, puts.doorbell]
  rfl

end Sys2Proof.Machine
end

section
/-!
Descriptors that complete at once (R294, R295, R300) and COPY2D (R303 to R306): what a descriptor that fails a check comes to, what a copy with operands
in range does, a copy of one row within device memory, and the statements about them.
-/
namespace Sys2Proof.Machine

/-! NOP and FENCE (R295, R300) -/

theorem Dev.fenceOp_of_scope {s : Dev} {a : Acc} {scope : Nat} (has_scope : fenceScope a.raw = some scope) :
    s.fenceOp a = if s.fenceMet a = true then s.complete a stDONE 0 0 none else s.setStage a.seq .begun := by
  simp only [Dev.fenceOp, has_scope]

/-- Settles O16: a FENCE with a scope by whether what it waits for is done. -/
theorem nopAndFenceComplete : Obligations.NopAndFenceComplete := by
  unfold Obligations.NopAndFenceComplete
  exact ⟨fun s d a runs => next_runDesc_of_runs runs rfl,
    fun s d a scope runs has_scope => next_runDesc_of_runs runs (Dev.fenceOp_of_scope has_scope)⟩

/-! The common checks (R294) -/

/-- A descriptor that is accepted and due, and fails a common check, is rejected whatever its row would do. -/
theorem Dev.runDesc_of_fails {s : Dev} {d : Desc} {row : Nat} {a : Acc} (fails : s.Fails d row a) (run : Acc → Dev → Dev) :
    s.runDesc d row run = s.complete a stBAD 0 0 none := by
  obtain ⟨serving, names, accepted, waiting, unfenced, unserialised, unchecked⟩ := fails
  simp only [Dev.runDesc, Dev.runWith, serving, names, accepted, waiting, unfenced, unserialised, unchecked, bne_self_eq_false, Bool.not_true,
    Bool.or_self, Bool.false_eq_true, if_false]

/-- A command that is a descriptor of no stream runs its descriptor by some operation of its row. -/
theorem exec_eq_runDesc_of_plainDesc {c : Instr} {d : Desc} {row : Nat} (plain : plainDesc c = some (d, row)) :
    ∃ run : Acc → Dev → Dev, ∀ s : State, exec c s = .next (s.onDev fun v => v.runDesc d row run) := by
  unfold plainDesc at plain
  split at plain
  case h_20 => cases plain
  all_goals
    cases plain
    exact ⟨_, fun s => rfl⟩

/-- Settles O17: every such command comes to the checks before it comes to what its row does. -/
theorem badDescriptorsAreRejected : Obligations.BadDescriptorsAreRejected := by
  unfold Obligations.BadDescriptorsAreRejected
  intro c s d row a plain fails
  obtain ⟨run, exec_eq⟩ := exec_eq_runDesc_of_plainDesc plain
  exact (exec_eq s).trans (next_onDev (Dev.runDesc_of_fails fails run))

/-! COPY2D with operands in range (R303 to R306) -/

/-- A copy's rows moved, and whether every access succeeded: staged, or in the traversal of R305. -/
def Dev.moveRows (s : Dev) (c : Copy) : Dev × Bool :=
  if c.staged = true then
    match (s.count (ev 11 9) 1).readRows c.spS c.src c.sS c.width c.rows 0 with
    | some rows => (s.count (ev 11 9) 1).writeStaged c rows
    | none => (s.count (ev 11 9) 1, false)
  else s.copyRows c

/-- The operands of a copy are in range, and its rectangles name bytes that the function may name (R285, R303). -/
structure Dev.CopyInRange (s : Dev) (a : Acc) (c : Copy) : Prop where
  width : 1 ≤ c.width
  rows : 1 ≤ c.rows
  size : c.width * c.rows ≤ 2 ^ 26
  apart : c.rows = 1 ∨ c.width ≤ c.sD.natAbs
  source : s.rectOk a.func c.spS c.src c.sS c.width c.rows = true
  destination : s.rectOk a.func c.spD c.dst c.sD c.width c.rows = true

theorem Dev.CopyInRange.not_rejected {s : Dev} {a : Acc} {c : Copy} (h : s.CopyInRange a c) :
    (c.width == 0 || c.rows == 0 || decide (c.width * c.rows > 2 ^ 26) || (decide (c.rows > 1) && decide (c.sD.natAbs < c.width)) ||
      !(s.rectOk a.func c.spS c.src c.sS c.width c.rows && s.rectOk a.func c.spD c.dst c.sD c.width c.rows)) = false := by
  have apart : (decide (c.rows > 1) && decide (c.sD.natAbs < c.width)) = false := by
    rw [Bool.and_eq_false_iff, decide_eq_false_iff_not, decide_eq_false_iff_not]
    exact h.apart.imp (by omega) Nat.not_lt.2
  rw [beq_false_of_ne (Nat.one_le_iff_ne_zero.1 h.width), beq_false_of_ne (Nat.one_le_iff_ne_zero.1 h.rows), decide_eq_false (Nat.not_lt.2 h.size),
    apart, h.source, h.destination]
  rfl

theorem Dev.copyOp_of_inRange {s : Dev} {a : Acc} {c : Copy} (operands : c = copyOf a.raw) (in_range : s.CopyInRange a c)
    (room : c.staged = true →
      ceilDiv (c.width * c.rows) 65536 + s.poolReserved ≤ s.poolGranules ∧ ceilDiv (c.width * c.rows) 65536 ≤ s.poolFree) :
    s.copyOp a s.poolReserved s.poolFree =
      if (s.moveRows c).2 = true then ((s.moveRows c).1.copySent c).complete a stDONE 0 0 none
      else ((s.moveRows c).1.dataFault a.func a.ring).complete a stCOPY 0 0 none := by
  subst operands
  have accepted := in_range.not_rejected
  cases staged : (copyOf a.raw).staged with
  | false => simp only [Dev.copyOp, Dev.moveRows, accepted, staged, Bool.false_and, Bool.false_eq_true, if_false]
  | true =>
    obtain ⟨reserved, free⟩ := room staged
    simp only [Dev.copyOp, Dev.moveRows, accepted, staged, Bool.true_and, decide_eq_false (Nat.not_lt.2 reserved),
      decide_eq_false (Nat.not_lt.2 free), Bool.false_eq_true, if_false, if_true]
    cases (s.count (ev 11 9) 1).readRows (copyOf a.raw).spS (copyOf a.raw).src (copyOf a.raw).sS (copyOf a.raw).width (copyOf a.raw).rows 0 <;> rfl

/-! A copy of one row within device memory -/

section
variable {c : Copy} (one_row : c.rows = 1)
include one_row

/-- The stride of one row is the destination's, so that nothing needs staging (R305). -/
theorem Copy.staged_of_one_row : c.staged = false := by
  simp only [Copy.staged, Copy.stride, one_row, beq_self_eq_true, if_true, bne_self_eq_false, Bool.and_false]

variable (from_device : c.spS = true) (to_device : c.spD = true)
include from_device to_device

/-- No access to device memory fails, so that the row goes in one write. -/
theorem Dev.moveRows_of_one_row (s : Dev) : s.moveRows c = (s.putDev c.dst.toNat (s.dmem.readN c.src.toNat c.width), true) := by
  have row_zero : upOrDown c.rowsDown 1 = [0] := by cases c.rowsDown <;> rfl
  simp only [Dev.moveRows, Copy.staged_of_one_row one_row, Dev.copyRows, one_row, row_zero, List.foldl, Dev.copyRow, Dev.elemFails, Dev.putSpace,
    Copy.srcAt, Copy.dstAt, from_device, to_device, Bool.not_true, Bool.false_and, Bool.or_self, Bool.not_false, Bool.false_eq_true, if_true,
    if_false, Int.natCast_zero, Int.zero_mul, Int.add_zero]

theorem Dev.copyOp_of_one_row {s : Dev} {a : Acc} (operands : c = copyOf a.raw) (in_range : s.CopyInRange a c) :
    s.copyOp a s.poolReserved s.poolFree = (s.putDev c.dst.toNat (s.dmem.readN c.src.toNat c.width)).complete a stDONE 0 0 none := by
  have unstaged := Copy.staged_of_one_row one_row
  rw [Dev.copyOp_of_inRange operands in_range (by rw [unstaged]; exact fun h => absurd h Bool.false_ne_true),
    Dev.moveRows_of_one_row one_row from_device to_device, Dev.copySent, if_pos rfl, if_pos to_device]

end

/-- Settles O24: a copy in range comes to its rows moved, and one row within device memory to one write of the source's bytes. -/
theorem copy2dMovesItsRows : Obligations.Copy2dMovesItsRows := by
  unfold Obligations.Copy2dMovesItsRows
  refine ⟨fun s d a c runs operands width rows size apart source destination room =>
      next_runDesc_of_runs runs (Dev.copyOp_of_inRange operands ⟨width, rows, size, apart, source, destination⟩ room),
    fun s d a c runs operands from_device to_device width size one_row source destination wf => ?one⟩
  case one =>
    have in_range : s.dev.CopyInRange a c :=
      ⟨width, one_row ▸ Nat.le_refl 1, by rw [one_row, Nat.mul_one]; exact size, .inl one_row, by rw [from_device, one_row]; exact source,
        by rw [to_device, one_row]; exact destination⟩
    refine ⟨_, next_runDesc_of_runs runs (Dev.copyOp_of_one_row one_row from_device to_device operands in_range), ⟨rfl, rfl, rfl, rfl⟩, ?_⟩
    rw [Dev.complete_dmem]
    have row_length := s.dev.dmem.length_readN c.src.toNat c.width
    refine ⟨?_, fun x outside => Mem.read_writeN_other _ _ x _ (by rw [row_length]; exact outside)⟩
    have stored := Mem.readN_writeN_same s.dev.dmem c.dst.toNat (s.dev.dmem.readN c.src.toNat c.width) wf
    rwa [row_length] at stored

end Sys2Proof.Machine
end

section
/-!
Ring commands (R287 to R291, R301, R302): what LOAD, WAKE, a poll, the moderation timer and a pending message come to where they are due, and the
statements about them.
-/
namespace Sys2Proof.Machine

/-! LOAD and WAKE (R287, R288, R290) -/

@[simp] theorem Dev.regN_count (s : Dev) (e n a : Nat) : (s.count e n).regN a = s.regN a := by
  simp only [Dev.regN, Dev.reg, Dev.count_regs]

section
variable {s : Dev} {f : Nat} (serving : s.serving = true) (present : s.exists f = true) (awake : (s.fn f).d3 = false)
include serving present awake

/-- A write to a function's RNG_CMD or WAKE is acted on where the device serves and the function is there and in D0. -/
theorem Dev.ringCommand_acts : ¬ (!s.serving || !s.exists f || (s.fn f).d3) = true := by
  rw [serving, present, awake]
  exact Bool.false_ne_true

theorem Dev.loadOp_of_unreadable (unreadable : s.hostRead (s.ringTable f) 4096 = none) : s.loadOp f = s.ringFault f 2 0 false := by
  rw [Dev.loadOp, if_neg (Dev.ringCommand_acts serving present awake), unreadable]

theorem Dev.loadOp_of_table {tbl : Bytes} (table : s.hostRead (s.ringTable f) 4096 = some tbl) :
    s.loadOp f =
      let s0 := s.count (ev 11 0) 4096
      let cqs := (List.range 64).map fun c => s0.loadCq f tbl c
      let dqs := (List.range 64).map fun n => s0.loadDq f tbl (fun c => (listGet cqs c (CRing.off, false)).1.en) n
      let s1 := (List.range 64).foldl (fun t c => t.applyCq f c (listGet cqs c (CRing.off, false))) s0
      (List.range 64).foldl (fun t n => t.applyDq f n (listGet dqs n (DRing.off, false))) s1 := by
  rw [Dev.loadOp, if_neg (Dev.ringCommand_acts serving present awake), table]

theorem Dev.wakeOp_of_acts :
    s.wakeOp f =
      let t := s.count (ev 11 5) 1
      if bitAt (s.regN (WINF f)) 0 = true then t.setFn f { s.fn f with again := true } else t := by
  rw [Dev.wakeOp, if_neg (Dev.ringCommand_acts serving present awake)]
  dsimp only
  rw [Dev.regN_count, Dev.fn_count]

end

/-- Settles O26: by whether the table can be read. -/
theorem loadAppliesTheRingTable : Obligations.LoadAppliesTheRingTable := by
  unfold Obligations.LoadAppliesTheRingTable
  intro s f serving present awake
  refine next_onDev (s := s.disarm) (f := fun v => v.loadOp f) ?_
  cases table : s.dev.hostRead (s.dev.ringTable f) 4096 with
  | none => exact Dev.loadOp_of_unreadable serving present awake table
  | some tbl => exact Dev.loadOp_of_table serving present awake table

/-! Polls (R289 to R291) -/

/-- A poll up to its read of the doorbell page: the held writes are retried, and the wish for the poll is met. -/
def Dev.pollStart (s : Dev) (f : Nat) : Dev :=
  ((s.retryHeld f).count (ev 11 4) 1).setFn f { ((s.retryHeld f).count (ev 11 4) 1).fn f with again := false }

/-- A poll from its read of the doorbell page on: a fault of the ring structures, or the enabled rings in order; then the function's streams. -/
def Dev.pollPage (s : Dev) (f : Nat) : Option Bytes → Dev
  | none => (s.ringFault f 3 0 false).pollStreams f
  | some page =>
    let s2 := s.count (ev 11 0) 512
    let order := (ringOrder (s2.fn f).lastStart).filter fun q => (s2.dring f q).en
    let cons := (List.range 64).map fun c => (c, u32At page (256 + 4 * c))
    let s3 := s2.setFn f { s2.fn f with lastStart := order.headD (s2.fn f).lastStart, cons := cons }
    (order.foldl (fun t q => if t.serving = true then t.pollRing f page q else t) s3).pollStreams f

theorem Dev.pollAll_of_due {s : Dev} {f : Nat} (due : s.pollDue f = true) :
    s.pollAll f = (s.pollStart f).pollPage f ((s.pollStart f).hostRead ((s.pollStart f).doorbell f) 512) := by
  cases read : (s.pollStart f).hostRead ((s.pollStart f).doorbell f) 512 <;>
    unfold Dev.pollStart at read <;>
    simp only [Dev.pollAll, Dev.pollOp, due, read, Dev.pollStart, Dev.pollPage, Bool.not_true, Bool.false_eq_true, if_false, if_true]

/-! Moderation and pending messages (R302) -/

theorem Dev.modTimeOp_of_expired {s : Dev} {f c t0 : Nat} (clocked : s.clocked = true) (oldest : (s.cring f c).oldest = some t0)
    (enabled : (s.cring f c).en = true) (signals : (s.cring f c).irqEn = true) (expired : t0 + (s.cring f c).modTime * 1200 ≤ s.sys.time) :
    s.modTimeOp f c = (s.setCring f c { s.cring f c with pend := 0, oldest := none }).trigger f (s.cring f c).vector := by
  have late : decide (t0 + (s.cring f c).modTime * usTicks ≤ s.sys.time) = true := decide_eq_true expired
  simp only [Dev.modTimeOp, oldest, clocked, enabled, signals, late, Bool.and_self, if_true]

theorem Dev.msixPendingOp_of_sends {s : Dev} {f v : Nat} (pending : bitAt (s.regN (MSI f + 0x800)) v = true) (can : s.canSend f v = true) :
    s.msixPendingOp f v = (s.setPba f v false).msi f v := by
  rw [Dev.msixPendingOp, pending, can]
  rfl

/-- Settles O27: each command by its operation where it is due; a poll is its start, its read of the doorbell page, and what follows from that. -/
theorem ringCommandsComplete : Obligations.RingCommandsComplete := by
  unfold Obligations.RingCommandsComplete
  exact ⟨fun s f w serving present awake => next_onDev (s := s.disarm) (Dev.wakeOp_of_acts serving present awake),
    fun s f due no_faults => next_onDev (Dev.pollAll_of_due due),
    fun s f c t0 clocked oldest enabled signals expired => next_onDev (Dev.modTimeOp_of_expired clocked oldest enabled signals expired),
    fun s f v pending can => next_onDev (Dev.msixPendingOp_of_sends pending can)⟩

end Sys2Proof.Machine
end

section
/-!
The link, power states, function resets and gating (R281, R282, R307, R310, R407, R408): what each command comes to where it is due, and the statement
about them.
-/
namespace Sys2Proof.Machine

/-! The link and power states (R281, R408) -/

section
variable {s : Dev} (clocked : s.clocked = true)
include clocked

/-- A Function Level Reset of a virtual function (R307). -/
theorem Dev.flrOp_of_virtual {f : Nat} (virtual : f ≠ 0) (present : s.exists f = true) : s.flrOp f false = s.resetFn f := by
  simp only [Dev.flrOp, clocked, beq_false_of_ne virtual, present, Bool.not_true, Bool.false_eq_true, if_false, if_true]

/-- One of the physical function takes the virtual functions with it, and clears VF Enable (R307; log entry 110). -/
theorem Dev.flrOp_of_physical :
    s.flrOp 0 false =
      let t := (Dev.resetVfs s.host.vfs s.injRelock).resetFn 0
      { t with host := { t.host with vfs := 0 } } := by
  simp only [Dev.flrOp, clocked, beq_self_eq_true, Bool.not_true, Bool.false_eq_true, if_false, if_true]

end

/-! Gating (R407) -/

/-- The GATE_ENTER record leaves the plains as they are, so that the plain gated is the one there before it. -/
theorem Dev.gatePlain_eq (s : Dev) (p : Nat) :
    s.gatePlain p = ((s.trace 7 p p (some p) []).setPlain p { s.plain p with gated := true, pool := [] }).count (ev p 20) 1 := by
  simp only [Dev.gatePlain, Dev.plain, Dev.trace_units]

theorem Dev.wakePlain_eq (s : Dev) (p : Nat) :
    s.wakePlain p =
      if (s.plain p).gated = true ∧ (s.plain p).failed = false then
        (s.setPlain p { s.plain p with gated := false }).trace 8 p p (some p) []
      else s := by
  simp only [Dev.wakePlain, Bool.and_eq_true, Bool.not_eq_true']

/-- A plain that has met its gating conditions for 1 ms is gated, and its tiles lose their SRAM. -/
theorem execGateEnter_of_due {s : State} {p : Fin 8} {t0 : Nat} (clocked : s.dev.clocked = true) (ungated : (s.dev.plain p).gated = false)
    (may : s.dev.mayGate p = true) (idle : (s.dev.plain p).idleFrom = some t0) (due : t0 + 1200000 ≤ s.dev.sys.time) :
    execGateEnter p s =
      .next { s with
        dev := ((s.dev.trace 7 p p (some p.val) []).setPlain p { s.dev.plain p with gated := true, pool := [] }).count (ev p 20) 1
        tiles := { s.tiles with
          tiles := s.tiles.tiles.map fun e => if e.1 / 256 == p.val then (e.1, { e.2 with sram := [] }) else e } } := by
  have ms_passed : decide (t0 + 1000 * usTicks ≤ s.dev.sys.time) = true := decide_eq_true due
  simp only [execGateEnter, clocked, ungated, may, idle, ms_passed, Bool.not_false, Bool.and_self, if_true, State.onDev, Dev.gatePlain_eq]

/-- Settles O47: each command where its condition holds. That a reset of the physical function clears VF Enable is the model's choice (log entry 110). -/
theorem linkAndPowerStatesComplete : Obligations.LinkAndPowerStatesComplete := by
  unfold Obligations.LinkAndPowerStatesComplete
  refine ⟨fun s gts width clocked => ?retrain, fun s f clocked present => if_pos (by rw [clocked, present]; rfl),
    fun s f clocked d3 => if_pos (by rw [clocked, d3]; rfl),
    fun s f clocked virtual present => next_onDev (congrArg Dev.pumpWaiting (Dev.flrOp_of_virtual clocked virtual present)),
    fun s clocked => next_onDev (congrArg Dev.pumpWaiting (Dev.flrOp_of_physical clocked)),
    fun s n clocked unset => next_onDev (if_pos (by rw [clocked, unset]; rfl)),
    fun s p t0 clocked ungated may idle due => ?gate, fun s p clocked kept => ?wake⟩
  case retrain =>
    refine (if_pos clocked).trans (next_onDev ?_)
    simp only [Bool.and_eq_true, beq_iff_eq]
  case gate => exact execGateEnter_of_due clocked ungated may idle due
  case wake => exact (if_pos (by rw [clocked, kept]; rfl)).trans (next_onDev (s.dev.wakePlain_eq p))

end Sys2Proof.Machine
end

section
/-!
The conservation ledger's audit (R327 to R329): what LEDGER_AUDIT comes to where an audit is due, by its first mismatch, and the statement about it.
-/
namespace Sys2Proof.Machine

/-- The first ledger instance, as an audit counts them, whose granted is not its held plus its in flight (R325, R328). -/
def Dev.firstMismatch (s : Dev) : Option (Nat × Nat × Nat × Nat) :=
  (s.draw.2.ledgers s.draw.1).find? fun e => e.2.1 != e.2.2.1 + e.2.2.2

/-- The device once an audit has counted its ledgers and before it judges them: the counts, the revolution and the drawn value are kept, and the audit
itself is counted, whichever way it ends (log entry 25). -/
def Dev.ledgersCounted (s : Dev) : Dev :=
  ({ s.draw.2 with
      inst := { s.draw.2.inst with ledger := s.draw.2.ledgers s.draw.1, audited := some (s.sys.time / 1200000, s.draw.1) } } : Dev).count (ev 15 1) 1

section
variable {s : Dev} (clocked : s.clocked = true) (running : s.sys.mode ≠ .failStop)
  (due : s.inst.audited.map (·.1) ≠ some (s.sys.time / 1200000))
include clocked running due

/-- With a clock, short of fail-stop and in a revolution not yet audited, an audit runs, and its first mismatch decides what becomes of the device. -/
theorem Dev.auditOp_of_due :
    s.auditOp =
      match s.firstMismatch with
      | some e => s.ledgersCounted.ledgerFault e.1 e.2
      | none => s.ledgersCounted.bump (ERR + 0x200) 1 := by
  refine if_neg ?_
  simp only [clocked, running, beq_false_of_ne due, Bool.not_true, decide_false, Bool.or_self, Bool.false_eq_true, not_false_eq_true]

/-- A mismatch is captured, sets LEDGER_FAULT and stops the device (R328, R329). -/
theorem Dev.auditOp_of_mismatch {k : Nat} {c : Nat × Nat × Nat} (mismatch : s.firstMismatch = some (k, c)) :
    s.auditOp = s.ledgersCounted.ledgerFault k c := by
  rw [Dev.auditOp_of_due clocked running due, mismatch]

/-- With every ledger balanced, ERR_LDGAUDIT counts up (R327, R331). -/
theorem Dev.auditOp_of_balanced (balanced : s.firstMismatch = none) : s.auditOp = s.ledgersCounted.bump (ERR + 0x200) 1 := by
  rw [Dev.auditOp_of_due clocked running due, balanced]

end

/-- Settles O48: by whether a ledger counted at the audit mismatches. That a failing audit too counts in AUDITS (event 15/1), once in a revolution, is
the model's choice (log entry 25), as are the depths of the ledgers that the spec does not size (112 and 113). -/
theorem ledgerAuditComplete : Obligations.LedgerAuditComplete := by
  unfold Obligations.LedgerAuditComplete
  intro s clocked running due
  refine next_onDev ?_
  dsimp only
  split
  case h_1 e mismatch => exact Dev.auditOp_of_mismatch clocked running due mismatch
  case h_2 balanced => exact Dev.auditOp_of_balanced clocked running due balanced

end Sys2Proof.Machine
end

section
/-!
The step of the machine, and the clocks: dividers and their causes (R397, R400), the power manager (R401), holdover, rails and the root PLL
(R379, R403 to R406), with the statements about them.
-/
namespace Sys2Proof.Machine

/-- Settles O1: the step takes the front command off the queue by definition. -/
theorem stepRunsTheFrontCommand : Obligations.StepRunsTheFrontCommand := by
  intro c rest s
  rfl

/-! The effective divider -/

/-- The smallest measure of a list's entries and a bound: at most each of them, and one of them. -/
theorem foldl_min_spec {α : Type} (f : α → Nat) (l : List α) (a : Nat) :
    l.foldl (fun b e => min b (f e)) a ≤ a ∧ (∀ e ∈ l, l.foldl (fun b e => min b (f e)) a ≤ f e) ∧
      (l.foldl (fun b e => min b (f e)) a = a ∨ ∃ e ∈ l, l.foldl (fun b e => min b (f e)) a = f e) := by
  induction l generalizing a with
  | nil => simp
  | cons x l ih =>
    obtain ⟨below, each, reached⟩ := ih (min a (f x))
    simp only [List.foldl_cons, List.mem_cons, forall_eq_or_imp, exists_eq_or_imp]
    refine ⟨by omega, ⟨by omega, each⟩, ?_⟩
    rcases reached with h | h
    · rcases Nat.le_total a (f x) with hle | hle
      · exact .inl (by rw [h, Nat.min_eq_left hle])
      · exact .inr (.inl (by rw [h, Nat.min_eq_right hle]))
    · exact .inr (.inr h)

theorem Clocks.prot_eq (c : Clocks) (p : Nat) :
    c.prot p = if (c.plain p).thermal = true ∨ (c.plain p).vmin = true ∨ c.neighbour p = true then 6 else 4 := by
  simp [Clocks.prot, or_assoc]

theorem Dev.hostDiv_eq (s : Dev) (p : Nat) : s.hostDiv p = s.regN (CLK + 0x08) / 16 ^ p % 16 := by
  simp [Dev.hostDiv, bits, Nat.pow_mul]

/-- Settles O15: the floor is the smallest divider of the plain's guaranteed seats, and the divider the composition of its causes. -/
theorem effectiveDividerFollowsItsCauses : Obligations.EffectiveDividerFollowsItsCauses := by
  unfold Obligations.EffectiveDividerFollowsItsCauses
  intro s p
  obtain ⟨floor_le, floor_each, floor_reached⟩ :=
    foldl_min_spec (fun e : Contract × Seat => e.1.clkDiv) (s.dev.media.allSeats.filter fun e => e.1.guaranteed && e.2.inPlain p) 6
  change s.dev.floorOf p ≤ 6 at floor_le
  have target : s.targetDiv p =
      max (min (max (s.dev.regN (CLK + 0x08) / 16 ^ p.val % 16) (s.clk.plain p).cap) (s.dev.floorOf p))
        (if (s.clk.plain p).thermal = true ∨ (s.clk.plain p).vmin = true ∨ s.clk.neighbour p = true then 6 else 4) := by
    rw [State.targetDiv, Dev.hostDiv_eq, Clocks.prot_eq]
  refine ⟨?_, ?_, target, floor_le, fun e he hg hp => floor_each e (by simp [he, hg, hp]), ?_⟩
  · rw [target]; split <;> omega
  · rw [target]; split <;> omega
  · rcases floor_reached with h | ⟨e, he, h⟩
    · exact .inl h
    · simp only [List.mem_filter, Bool.and_eq_true] at he
      exact .inr ⟨e, he.1, he.2.1, he.2.2, h⟩

/-! The power manager -/

/-- The better of the best plain so far and another plain: the other only where it is admitted and measures more. -/
def betterPlain (ok : Nat → Bool) (measure : Nat → Nat) (b : Option Nat) (p : Nat) : Option Nat :=
  if ok p then
    match b with
    | some q => if measure p > measure q then some p else b
    | none => some p
  else b

/-- A best plain among those seen: none is admitted, or it is one of them that measures at least as much as each admitted one. -/
def IsBestPlain (ok : Nat → Bool) (measure : Nat → Nat) (seen : List Nat) : Option Nat → Prop
  | none => ∀ p ∈ seen, ok p = false
  | some q => q ∈ seen ∧ ok q = true ∧ ∀ p ∈ seen, ok p = true → measure p ≤ measure q

theorem bestPlain_eq_foldl (ok : Nat → Bool) (measure : Nat → Nat) :
    bestPlain ok measure = (List.range 8).foldl (betterPlain ok measure) none := rfl

theorem IsBestPlain.better {ok : Nat → Bool} {measure : Nat → Nat} {seen : List Nat} {b : Option Nat}
    (best : IsBestPlain ok measure seen b) (p : Nat) : IsBestPlain ok measure (seen ++ [p]) (betterPlain ok measure b p) := by
  unfold betterPlain
  split
  case isTrue admitted =>
    cases b with
    | none =>
      simp only [IsBestPlain, List.mem_append, List.mem_singleton] at best ⊢
      refine ⟨.inr trivial, admitted, fun q hq hok => ?_⟩
      rcases hq with hq | rfl
      · simp [best q hq] at hok
      · exact Nat.le_refl _
    | some q =>
      simp only [IsBestPlain] at best
      obtain ⟨mem, ok_q, most⟩ := best
      dsimp only
      split <;> simp only [IsBestPlain, List.mem_append, List.mem_singleton]
      · refine ⟨.inr trivial, admitted, fun r hr hok => ?_⟩
        rcases hr with hr | rfl
        · have := most r hr hok; omega
        · exact Nat.le_refl _
      · refine ⟨.inl mem, ok_q, fun r hr hok => ?_⟩
        rcases hr with hr | rfl
        · exact most r hr hok
        · omega
  case isFalse refused =>
    cases b with
    | none =>
      simp only [IsBestPlain, List.mem_append, List.mem_singleton] at best ⊢
      rintro q (hq | rfl)
      · exact best q hq
      · simpa using refused
    | some q =>
      simp only [IsBestPlain, List.mem_append, List.mem_singleton] at best ⊢
      refine ⟨.inl best.1, best.2.1, ?_⟩
      rintro r (hr | rfl) hok
      · exact best.2.2 r hr hok
      · exact absurd hok refused

theorem IsBestPlain.foldl {ok : Nat → Bool} {measure : Nat → Nat} (l : List Nat) {seen : List Nat} {b : Option Nat}
    (best : IsBestPlain ok measure seen b) : IsBestPlain ok measure (seen ++ l) (l.foldl (betterPlain ok measure) b) := by
  induction l generalizing seen b with
  | nil => simpa using best
  | cons p l ih => simpa using ih (best.better p)

/-- The plain that the power manager picks is a best one of the eight. -/
theorem bestPlain_isBest (ok : Nat → Bool) (measure : Nat → Nat) : IsBestPlain ok measure (List.range 8) (bestPlain ok measure) := by
  rw [bestPlain_eq_foldl]
  exact IsBestPlain.foldl (List.range 8) (seen := []) (b := none) (by simp [IsBestPlain])

theorem bestPlain_of_none {ok : Nat → Bool} {measure : Nat → Nat} (h : bestPlain ok measure = none) {p : Nat} (hp : p < 8) : ok p = false := by
  have best := bestPlain_isBest ok measure
  rw [h] at best
  exact best p (List.mem_range.mpr hp)

theorem bestPlain_of_some {ok : Nat → Bool} {measure : Nat → Nat} {p : Nat} (h : bestPlain ok measure = some p) :
    p < 8 ∧ ok p = true ∧ ∀ q : Nat, q < 8 → ok q = true → measure q ≤ measure p := by
  have best := bestPlain_isBest ok measure
  rw [h] at best
  exact ⟨List.mem_range.mp best.1, best.2.1, fun q hq => best.2.2 q (List.mem_range.mpr hq)⟩

/-- The plain draws less than its floor would allow: its divider lies below its floor (R401). -/
def Dev.belowFloor (s : Dev) (p : Nat) : Bool := decide ((s.plain p).div < s.floorOf p)

/-- The clocks after the power manager's step of at most one plain (R401). -/
def State.capStep (s : State) (estimate : Nat) (draws : List Nat) : Clocks :=
  if s.dev.regN (PWR + 0x08) < estimate then
    match bestPlain (fun p => s.dev.belowFloor p && decide ((s.clk.plain p).cap < 6)) (fun p => listGet draws p 0) with
    | some p => s.clk.setPlain p { s.clk.plain p with cap := (s.clk.plain p).cap + 1 }
    | none => s.clk
  else if estimate * 100 < s.dev.regN (PWR + 0x08) * 95 then
    match bestPlain (fun p => decide (4 < (s.clk.plain p).cap)) (fun p => (s.clk.plain p).cap) with
    | some p => s.clk.setPlain p { s.clk.plain p with cap := (s.clk.plain p).cap - 1 }
    | none => s.clk
  else s.clk

theorem exec_powerCapStep_of_clocked {s : State} (clocked : s.dev.clocked = true) (estimate : Nat) (draws : List Nat) :
    exec (.powerCapStep estimate draws) s =
      .next { s with
        clk := { s.capStep estimate draws with
          measured := estimate
          capMiss := decide (s.dev.regN (PWR + 0x08) < estimate) && !(List.range 8).any s.dev.belowFloor } } := by
  simp only [exec, execPowerCapStep, clocked, Bool.not_true, Bool.false_eq_true, if_false]
  rfl

/-- The power manager changes nothing of the clocks but the cap of one plain. -/
theorem State.capStep_neighbours (s : State) (estimate : Nat) (draws : List Nat) :
    (s.capStep estimate draws).neighbours = s.clk.neighbours := by
  unfold State.capStep
  split
  · split <;> rfl
  · split
    · split <;> rfl
    · rfl

/-- Above the cap: a plain below its floor whose cap divider can rise, the one that draws most (R401). -/
theorem State.capStep_plains_above {s : State} {estimate : Nat} (above : s.dev.regN (PWR + 0x08) < estimate) (draws : List Nat) :
    ((s.capStep estimate draws).plains = s.clk.plains ∧ ∀ p : Nat, p < 8 → ¬((s.dev.plain p).div < s.dev.floorOf p ∧ (s.clk.plain p).cap < 6)) ∨
      ∃ p : Nat, p < 8 ∧ (s.dev.plain p).div < s.dev.floorOf p ∧ (s.clk.plain p).cap < 6 ∧
        (s.capStep estimate draws).plains = s.clk.plains.set p { s.clk.plain p with cap := (s.clk.plain p).cap + 1 } ∧
        ∀ q : Nat, q < 8 → (s.dev.plain q).div < s.dev.floorOf q → (s.clk.plain q).cap < 6 → listGet draws q 0 ≤ listGet draws p 0 := by
  simp only [State.capStep, above, if_true]
  split
  case h_1 p picked =>
    obtain ⟨lt, admitted, most⟩ := bestPlain_of_some picked
    simp only [Dev.belowFloor, Bool.and_eq_true, decide_eq_true_eq] at admitted most
    exact .inr ⟨p, lt, admitted.1, admitted.2, rfl, fun q hq hd hc => most q hq ⟨hd, hc⟩⟩
  case h_2 none_picked =>
    refine .inl ⟨rfl, fun p hp => ?_⟩
    simpa [Dev.belowFloor] using bestPlain_of_none none_picked hp

/-- More than 5 % below the cap: the plain with the highest cap divider above 4 (R401). -/
theorem State.capStep_plains_below {s : State} {estimate : Nat} (below : estimate * 100 < s.dev.regN (PWR + 0x08) * 95) (draws : List Nat) :
    ((s.capStep estimate draws).plains = s.clk.plains ∧ ∀ p : Nat, p < 8 → (s.clk.plain p).cap ≤ 4) ∨
      ∃ p : Nat, p < 8 ∧ 4 < (s.clk.plain p).cap ∧
        (s.capStep estimate draws).plains = s.clk.plains.set p { s.clk.plain p with cap := (s.clk.plain p).cap - 1 } ∧
        ∀ q : Nat, q < 8 → (s.clk.plain q).cap ≤ (s.clk.plain p).cap := by
  have not_above : ¬ s.dev.regN (PWR + 0x08) < estimate := by omega
  simp only [State.capStep, not_above, below, if_false, if_true]
  split
  case h_1 p picked =>
    obtain ⟨lt, admitted, most⟩ := bestPlain_of_some picked
    simp only [decide_eq_true_eq] at admitted most
    refine .inr ⟨p, lt, admitted, rfl, fun q hq => ?_⟩
    by_cases hc : 4 < (s.clk.plain q).cap
    · exact most q hq hc
    · omega
  case h_2 none_picked =>
    exact .inl ⟨rfl, fun p hp => by simpa using bestPlain_of_none none_picked hp⟩

/-- Settles O45: the step is one of `State.capStep`, whose plain is a best one of those that the rule admits. -/
theorem powerCapStepsOnePlain : Obligations.PowerCapStepsOnePlain := by
  unfold Obligations.PowerCapStepsOnePlain
  intro s estimate draws clocked
  refine ⟨_, exec_powerCapStep_of_clocked clocked estimate draws, rfl, rfl, rfl, rfl, s.capStep_neighbours estimate draws, ?_,
    fun above _ => State.capStep_plains_above above draws, fun notAbove notBelow => ?_, fun below _ => State.capStep_plains_below below draws⟩
  · simp [Dev.belowFloor]
  · have h1 : ¬ s.dev.regN (PWR + 0x08) < estimate := by omega
    have h2 : ¬ estimate * 100 < s.dev.regN (PWR + 0x08) * 95 := by omega
    simp [State.capStep, h1, h2]

/-! Protection causes -/

theorem adjacent_of_adjacentPlains : ∀ p q : Fin 8, adjacentPlains p q = true → adjacent p q = true := by decide

theorem State.clkPlain_of_clocked {s : State} (clocked : s.dev.clocked = true) (p : Nat) (f : PlainClk → PlainClk) :
    s.clkPlain p f = { s with clk := s.clk.setPlain p (f (s.clk.plain p)) } := by
  simp [State.clkPlain, clocked]

/-- Settles O43: each event changes its plain's cause while the clocks run. -/
theorem protectionCausesComplete : Obligations.ProtectionCausesComplete := by
  unfold Obligations.ProtectionCausesComplete
  intro s p q deciC clocked
  refine ⟨?_, ?_, fun hot => ?_, fun cool => ?_, fun adj => ?_, ?_⟩
  · simp [exec, execVminLow, State.clkPlain_of_clocked clocked]
  · simp [exec, execVminRestored, State.clkPlain_of_clocked clocked]
  · simp [exec, execOverTemp, State.clkPlain_of_clocked clocked, hot, clocked, State.onDev]
  · simp [exec, execOverTempEnd, State.clkPlain_of_clocked clocked, cool]
  · simp [exec, execPlainLimit, clocked, adjacent_of_adjacentPlains p q adj, State.onDev]
  · simp [exec, execPlainLimitEnd, clocked]

/-! Reference, holdover, rails -/

/-- Settles O46: holdover, the PLL switch and the rails act while the clocks run, quiescing where it is due. -/
theorem referenceAndRailsComplete : Obligations.ReferenceAndRailsComplete := by
  unfold Obligations.ReferenceAndRailsComplete
  refine ⟨fun s clocked no_holdover => ?_, fun s clocked holdover not_quiesced => ?_, fun s holdover due mode => ?_,
    fun s locks pause clocked => ?_, fun s p n clocked => ⟨?_, ?_⟩⟩
  · simp [exec, execRefLoss, clocked, no_holdover, State.onDev]
  · simp [exec, execHoldoverEnd, clocked, holdover, not_quiesced, State.onDev]
  · simp [exec, execQuiesce, holdover, usTicks, due, mode]
  · simp only [exec, execPllSwitch, clocked, Bool.not_true, Bool.false_eq_true, if_false]
    by_cases stuck : s.clk.standby = true ∨ locks = false
    · simp [stuck, State.onDev]
    · simp [stuck, usTicks]
  · simp [exec, execRailFault, clocked]
  · simp [exec, execRailFault, clocked, State.onDev]

end Sys2Proof.Machine
end

section
/-!
Registers as a write leaves them, the sticky record (R370 to R373), counters (R419), fuses (R381), injection (R387, R388), freeze (R390, R391),
resets (R409 to R411) and boot (R412 to R414), with the statements about them.
-/
namespace Sys2Proof.Machine

/-! Registers -/

theorem Dev.reg_setReg_same (s : Dev) (a : Nat) (v : Word) : (s.setReg a v).reg a = v := by
  simp [Dev.reg, Dev.setReg, SMap.find_put_same]

theorem Dev.reg_setReg_other (s : Dev) {a x : Nat} (v : Word) (h : x ≠ a) : (s.setReg a v).reg x = s.reg x := by
  simp [Dev.reg, Dev.setReg, SMap.find_put_other _ _ _ _ h]

theorem Dev.reg_setRegN_same (s : Dev) (a v : Nat) : (s.setRegN a v).reg a = w32 v := s.reg_setReg_same a (w32 v)

theorem Dev.reg_setRegN_other (s : Dev) {a x : Nat} (v : Nat) (h : x ≠ a) : (s.setRegN a v).reg x = s.reg x := s.reg_setReg_other (w32 v) h

theorem Dev.reg_congr {s t : Dev} (h : t.regs = s.regs) (a : Nat) : t.reg a = s.reg a := by
  simp [Dev.reg, h]

theorem Dev.regN_eq_of_reg {s t : Dev} {a : Nat} (h : t.reg a = s.reg a) : t.regN a = s.regN a := by
  rw [Dev.regN, h, Dev.regN]

theorem Dev.regN_lt (s : Dev) (a : Nat) : s.regN a < 2 ^ 32 := (s.reg a).isLt

theorem w32_toNat_of_lt {n : Nat} (h : n < 2 ^ 32) : (w32 n).toNat = n := by
  simp only [w32, BitVec.toNat_ofNat]
  exact Nat.mod_eq_of_lt h

/-! The sticky record -/

/-- A trigger changes the pending bits alone, which stand from 2^32 on. -/
theorem Dev.reg_trigger_of_lt (s : Dev) (f v : Nat) {a : Nat} (h : a < DBG) : (s.trigger f v).reg a = s.reg a := by
  have apart : a ≠ MSI f + 0x800 := by simp only [DBG, MSI] at *; omega
  unfold Dev.trigger
  split
  · rfl
  · split
    · exact Dev.reg_congr (by simp [Dev.msi, Dev.output]) a
    · exact s.reg_setRegN_other _ apart

/-- A freeze writes registers of the DBG block alone. -/
theorem Dev.reg_freeze_of_lt (s : Dev) (c : Nat) {a : Nat} (h : a < DBG) : (s.freeze c).reg a = s.reg a := by
  have apart : a ≠ DBG + 0x0C ∧ a ≠ DBG + 0x10 ∧ a ≠ DBG + 0x14 := by omega
  obtain ⟨cause, low, high⟩ := apart
  have noted := s.reg_setRegN_other (s.regN (DBG + 0x0C) ||| 2 ^ c) cause
  unfold Dev.freeze
  split
  · exact noted
  · refine ((Dev.reg_congr rfl a).trans (Dev.reg_setRegN_other _ _ high)).trans ?_
    exact (Dev.reg_setRegN_other _ _ low).trans noted

/-- Below the DBG block a sticky bit leaves what the capture and the bit's own register give: record, interrupt and freeze write no such register. -/
theorem Dev.reg_sticky_of_lt {s : Dev} (running : s.sys.mode ≠ .frozen) (g b det : Nat) {a : Nat} (h : a < DBG) :
    (s.sticky g b det).reg a = ((s.captureFirst g b det).setRegN (stickyAddr g) (s.regN (stickyAddr g) ||| 2 ^ b)).reg a := by
  have traced (d : Dev) : (d.trace 12 38 0 none [BitVec.ofNat 8 g, BitVec.ofNat 8 b]).reg a = d.reg a := Dev.reg_congr (by simp) a
  simp only [Dev.sticky, running, if_false]
  split <;> split <;> simp only [Dev.reg_freeze_of_lt _ _ h, Dev.reg_trigger_of_lt _ _ _ h, traced]

theorem Dev.captureFirst_of_not_clear {s : Dev} (h : s.stickyClear = false) (g b det : Nat) : s.captureFirst g b det = s := by
  simp [Dev.captureFirst, h]

/-- The capture writes its own four registers alone. -/
theorem Dev.reg_captureFirst_other (s : Dev) (g b det : Nat) {a : Nat} (h : a < ERR + 0x10) : (s.captureFirst g b det).reg a = s.reg a := by
  have apart : a ≠ ERR + 0x10 ∧ a ≠ ERR + 0x14 ∧ a ≠ ERR + 0x18 ∧ a ≠ ERR + 0x1C := by omega
  obtain ⟨which, place, low, high⟩ := apart
  unfold Dev.captureFirst
  split
  · rw [Dev.setReg64, Dev.reg_setRegN_other _ _ high, Dev.reg_setRegN_other _ _ low, Dev.reg_setRegN_other _ _ place,
      Dev.reg_setRegN_other _ _ which]
  · rfl

/-- The capture, armed, takes group, bit, place and time. -/
theorem Dev.captureFirst_captures {s : Dev} (clear : s.stickyClear = true) (g b det : Nat) :
    (s.captureFirst g b det).reg (ERR + 0x10) = w32 (g + 4 * b + 2 ^ 31) ∧ (s.captureFirst g b det).reg (ERR + 0x14) = w32 det ∧
      (s.captureFirst g b det).reg (ERR + 0x18) = w32 s.sys.time ∧ (s.captureFirst g b det).reg (ERR + 0x1C) = w32 (s.sys.time / 2 ^ 32) := by
  have apart (x y : Nat) (h : x ≠ y) : ERR + x ≠ ERR + y := by omega
  simp only [Dev.captureFirst, clear, if_true, Dev.setReg64]
  refine ⟨?_, ?_, ?_, Dev.reg_setRegN_same _ _ _⟩
  · rw [Dev.reg_setRegN_other _ _ (apart _ _ (by decide)), Dev.reg_setRegN_other _ _ (apart _ _ (by decide)),
      Dev.reg_setRegN_other _ _ (apart _ _ (by decide)), Dev.reg_setRegN_same]
  · rw [Dev.reg_setRegN_other _ _ (apart _ _ (by decide)), Dev.reg_setRegN_other _ _ (apart _ _ (by decide)), Dev.reg_setRegN_same]
  · rw [Dev.reg_setRegN_other _ _ (apart _ _ (by decide)), Dev.reg_setRegN_same]

/-- Settles O12: the bit's own register by its write, every other one by what capture, record, interrupt and freeze leave alone. -/
theorem stickyBitAndFirstErrorCapture : Obligations.StickyBitAndFirstErrorCapture := by
  unfold Obligations.StickyBitAndFirstErrorCapture
  intro s g b det running hg hb
  have below {h : Nat} (hh : h < 4) : stickyAddr h < DBG ∧ stickyAddr h < ERR + 0x10 := by
    simp only [stickyAddr, ERR, DBG]; omega
  have above {o : Nat} (ho : 0x10 ≤ o) : ERR + o ≠ stickyAddr g := by
    simp only [stickyAddr]; omega
  have captured {o : Nat} (ho : 0x10 ≤ o) (hd : ERR + o < DBG) : (s.sticky g b det).reg (ERR + o) = (s.captureFirst g b det).reg (ERR + o) := by
    rw [Dev.reg_sticky_of_lt running g b det hd, Dev.reg_setRegN_other _ _ (above ho)]
  refine ⟨?_, fun h hh hne => Dev.regN_eq_of_reg ?_, ?_⟩
  · rw [Dev.regN, Dev.reg_sticky_of_lt running g b det (below hg).1, Dev.reg_setRegN_same]
    exact w32_toNat_of_lt (Nat.or_lt_two_pow (s.regN_lt _) (Nat.pow_lt_pow_right (by decide) hb))
  · rw [Dev.reg_sticky_of_lt running g b det (below hh).1, Dev.reg_setRegN_other _ _ (by simp only [stickyAddr]; omega),
      Dev.reg_captureFirst_other _ _ _ _ (below hh).2]
  · split
    case isTrue clear =>
      obtain ⟨which, place, low, high⟩ := Dev.captureFirst_captures clear g b det
      refine ⟨?_, ?_, ?_, ?_⟩
      · rw [Dev.regN, captured (by decide) (by decide), which]
        exact w32_toNat_of_lt (by omega)
      · rw [captured (by decide) (by decide), place]
      · rw [captured (by decide) (by decide), low]
      · rw [captured (by decide) (by decide), high]
    case isFalse set =>
      rw [Bool.not_eq_true] at set
      simp only [List.mem_cons, List.not_mem_nil, or_false, forall_eq_or_imp, forall_eq]
      refine ⟨?_, ?_, ?_, ?_⟩ <;> rw [captured (by decide) (by decide), Dev.captureFirst_of_not_clear set]

/-! Counters -/

theorem Inst.add_cnt (i : Inst) (e n per : Nat) (selected : Bool) :
    (i.add e n per selected).cnt = i.cnt.put e (min (i.cnt.get e 0 + n) (2 ^ 48)) := by
  cases selected <;> rfl

/-- Of an event that is counted one by one, the count is the counter's own. -/
theorem Inst.total_of_seen (i : Inst) (time : Nat) {e : Nat} (seen : unseen e = false) : i.total time e = i.cnt.get e 0 := by
  simp [Inst.total, seen]

/-- Settles O13: the count stops at 2^48, which reads as 2^48 - 1 and saturated. -/
theorem countersStopAtTheirEnd : Obligations.CountersStopAtTheirEnd := by
  unfold Obligations.CountersStopAtTheirEnd
  intro i e n per time sel seen _
  have counted : (i.add e n per sel).total time e = min (i.cnt.get e 0 + n) (2 ^ 48) := by
    rw [Inst.total_of_seen _ _ seen, Inst.add_cnt, SMap.get_put_same]
  refine ⟨fun fits => ?_, fun passes => ?_, fun e' other => ?_⟩
  · simp only [Inst.counter, Inst.sat, counted, decide_eq_false_iff_not]
    omega
  · simp only [Inst.counter, Inst.sat, counted, decide_eq_true_eq]
    omega
  · rw [Inst.add_cnt, SMap.get_put_other _ _ _ _ _ other]

/-! Fuses -/

theorem fuseCheck_lt (v : Nat) : fuseCheck v < 256 := by
  simp only [fuseCheck]
  omega

theorem bits_add_mul_two_pow (v c n m k : Nat) (h : n + m ≤ k) : bits (v % 2 ^ k + c * 2 ^ k) n m = bits v n m := by
  have low : (v % 2 ^ k + c * 2 ^ k) % 2 ^ (n + m) = v % 2 ^ (n + m) := by
    obtain ⟨j, rfl⟩ := Nat.exists_eq_add_of_le h
    rw [Nat.pow_add 2 (n + m) j, ← Nat.mul_assoc, Nat.mul_right_comm c, Nat.add_mul_mod_self_right, Nat.mod_mul_right_mod]
  simp only [bits, ← Nat.mod_mul_right_div_self, ← Nat.pow_add, low]

/-- The check value is of the low 56 bits. -/
theorem fuseCheck_add_mul (v c : Nat) : fuseCheck (v % 2 ^ 56 + c * 2 ^ 56) = fuseCheck v := by
  have same : (List.range 7).map (fun k => bits (v % 2 ^ 56 + c * 2 ^ 56) (8 * k) 8) = (List.range 7).map fun k => bits v (8 * k) 8 :=
    List.map_congr_left fun k hk => bits_add_mul_two_pow v c (8 * k) 8 56 (by have := List.mem_range.mp hk; omega)
  rw [fuseCheck, same, fuseCheck]

theorem fuseRecord_toNat (v : Nat) : (fuseRecord v).toNat = v % 2 ^ 56 + fuseCheck v * 2 ^ 56 := by
  have := fuseCheck_lt v
  rw [fuseRecord, BitVec.toNat_ofNat, Nat.mod_eq_of_lt]
  omega

theorem fuseValid_fuseRecord (v : Nat) : fuseValid (fuseRecord v).toNat = true := by
  have := fuseCheck_lt v
  rw [fuseValid, fuseRecord_toNat, fuseCheck_add_mul, beq_iff_eq, bits]
  omega

theorem otherValue_ne (x : Nat) (v : BitVec 64) : otherValue x v ≠ v := by
  unfold otherValue
  split
  · bv_omega
  · assumption

theorem State.fuseArmed_of {s : State} {t : Nat} (writable : s.dev.writable 0xE = true) (idle : s.fuses.burning = none)
    (armed : s.fuses.armedAt = some t) (in_time : s.dev.sys.time ≤ t + 1200000) : s.fuseArmed = true := by
  simp [State.fuseArmed, writable, idle, armed, usTicks, in_time]

theorem State.burnValue_eq (s : State) (v : BitVec 64) :
    s.burnValue v =
      { s with
        fuses := match (List.range 64).find? fun i => listGet s.fuses.records i 0 == 0 with
          | some i => { s.fuses with armedAt := none, burning := some (i, v) }
          | none => { s.fuses with armedAt := none, result := 3 } } := by
  unfold State.burnValue Fuses.lowestEmpty
  cases (List.range 64).find? fun i => listGet s.fuses.records i 0 == 0 <;> rfl

/-- Settles O33: arming and burning by the arming's rule, the end of a burn by its outcome, the check by the sum of the low seven bytes. -/
theorem fuseCommandsComplete : Obligations.FuseCommandsComplete := by
  unfold Obligations.FuseCommandsComplete
  refine ⟨fun s w writable => ?_, fun s index record v c t writable idle armed in_time command => ?_, fun s i v burning => ⟨?_, ?_⟩,
    fun v => ⟨fuseValid_fuseRecord v, ?_⟩⟩
  · have word : (w.toNat = 0xF05E) = (w = 0xF05E#32) := propext ⟨fun h => BitVec.eq_of_toNat_eq h, fun h => by rw [h]; rfl⟩
    simp [exec, execFusArm, State.fuseArm, writable, word]
  · have in_force := State.fuseArmed_of writable idle armed in_time
    rcases command with ⟨rfl, rfl⟩ | ⟨rfl, rfl⟩
    · exact congrArg Host.Outcome.next ((if_pos in_force).trans (s.burnValue_eq _))
    · exact congrArg Host.Outcome.next ((if_pos in_force).trans (s.burnValue_eq _))
  · simp [exec, execFusBurnDone, burning, listSet]
  · refine ⟨otherValue s.dev.draw.1 v, otherValue_ne _ _, ?_⟩
    simp [exec, execFusBurnDone, burning, listSet]
  · rw [fuseRecord_toNat]
    omega

/-! Injection and freeze -/

theorem Dev.freeze_mode {s : Dev} (running : s.sys.mode ≠ .frozen) (c : Nat) : (s.freeze c).sys.mode = .frozen := by
  simp [Dev.freeze, running]

/-- The registers that a freeze of a running device writes: its cause and the time. -/
theorem Dev.freeze_regs {s : Dev} (running : s.sys.mode ≠ .frozen) (c : Nat) :
    (s.freeze c).regs =
      ((s.setRegN (DBG + 0x0C) (s.regN (DBG + 0x0C) ||| 2 ^ c)).setReg64 (DBG + 0x10) (DBG + 0x14) s.sys.time).regs := by
  simp [Dev.freeze, running]

theorem Dev.regN_freeze_cause {s : Dev} (running : s.sys.mode ≠ .frozen) (c : Nat) :
    (s.freeze c).regN (DBG + 0x0C) = (s.regN (DBG + 0x0C) ||| 2 ^ c) % 2 ^ 32 := by
  have low : DBG + 0x0C ≠ DBG + 0x10 := by decide
  have high : DBG + 0x0C ≠ DBG + 0x14 := by decide
  rw [Dev.regN, Dev.reg_congr (Dev.freeze_regs running c), Dev.setReg64, Dev.reg_setRegN_other _ _ high, Dev.reg_setRegN_other _ _ low,
    ← Dev.regN, Dev.regN_setRegN_same]

theorem Dev.reg_freeze_time {s : Dev} (running : s.sys.mode ≠ .frozen) (c : Nat) : (s.freeze c).reg (DBG + 0x10) = w32 s.sys.time := by
  have high : DBG + 0x10 ≠ DBG + 0x14 := by decide
  rw [Dev.reg_congr (Dev.freeze_regs running c), Dev.setReg64, Dev.reg_setRegN_other _ _ high, Dev.reg_setRegN_same]

theorem Dev.not_frozen_of_writable {s : Dev} {blk : Nat} (writable : s.writable blk = true) : s.sys.mode ≠ .frozen := by
  intro frozen
  simp [Dev.writable, frozen] at writable

theorem bitAt_or_two_pow_mod {x i n : Nat} (h : i < n) : bitAt ((x ||| 2 ^ i) % 2 ^ n) i = true := by
  rw [bitAt_eq_testBit, Nat.testBit_mod_two_pow, Nat.testBit_or, Nat.testBit_two_pow_self]
  simp [h]

/-- The unlock sequence by its step, where no word comes late (R387). -/
theorem Dev.injWord_of_in_time {s : Dev} (writable : s.writable 0xD = true) (in_time : s.injLate = false) (w : Nat) :
    s.injWord w =
      if s.sys.inj.step = 0 then (if w = 0x1F6E0C81 then s.setInj fun j => { j with step := 1, lastAt := s.sys.time } else s)
      else if s.sys.inj.step = 1 then
        (if w = s.sys.inj.nonce then s.setInj fun j => { j with step := 2, lastAt := s.sys.time } else s.injEnd)
      else if w = 2 ^ 32 - 1 - s.sys.inj.nonce then s.injOpen else s.injEnd := by
  simp [Dev.injWord, writable, in_time]

/-- Settles O34: the sequence by its step, the freeze by what it records and leaves alone. -/
theorem injectionAndFreezeComplete : Obligations.InjectionAndFreezeComplete := by
  unfold Obligations.InjectionAndFreezeComplete
  refine ⟨fun s w writable in_time => ?_, fun s writable => ?_, fun s clocked late => ?_, fun s writable => ?_,
    fun s high armed enabled clocked => ?_, fun s => rfl⟩
  · have word : (w.toNat = 0x1F6E0C81) = (w = 0x1F6E0C81#32) := propext ⟨fun h => BitVec.eq_of_toNat_eq h, fun h => by rw [h]; rfl⟩
    simp only [exec, execInjUnlock, State.onDev, State.disarm_dev, Dev.injWord_of_in_time writable in_time, word]
    rfl
  · simp [exec, execInjLock, State.onDev, Dev.injLock, writable, State.disarm]
  · simp [exec, execInjUnlockTimeout, State.onDev, clocked, late]
  · have running := Dev.not_frozen_of_writable writable
    refine ⟨?_, Dev.freeze_mode running 1, ?_, ?_, Dev.freeze_hmem _ _, Dev.freeze_dmem _ _, Dev.reg_freeze_time running 1⟩
    · simp [exec, execFreeze, State.onDev, Dev.freezeCmd, writable, State.disarm]
    · simp [Dev.clocked, Dev.freeze_mode running 1]
    · rw [Dev.regN_freeze_cause running 1]
      exact bitAt_or_two_pow_mod (by decide)
  · simp [exec, execFrzNFall, State.onDev, high, armed, enabled, clocked]

/-! Resets -/

theorem SMap.find_filter_keys {α : Type} (m : SMap α) (keep : Nat → Bool) (n : Nat) :
    SMap.find (m.filter fun e => keep e.1) n = if keep n = true then m.find n else none := by
  induction m with
  | nil => simp [SMap.find]
  | cons e m ih =>
    obtain ⟨k, v⟩ := e
    by_cases kept : keep k = true <;> by_cases here : k = n
    · subst here; simp [SMap.find, kept]
    · simp [SMap.find, kept, here, ih]
    · subst here; simp [ih, kept]
    · simp [SMap.find, kept, here, ih]

/-- Registers after a reset: a warm one keeps those of R410, every other has its reset value. -/
theorem Dev.reg_afterReset (s : Dev) (cold : Bool) (cause : Nat) (m : Mode) (a : Nat) :
    (s.afterReset cold cause m).reg a = if cold = false ∧ a ∈ warmKept then s.reg a else regReset a := by
  cases cold with
  | true => simp [Dev.reg, Dev.afterReset, SMap.find]
  | false =>
    simp only [Dev.reg, Dev.afterReset, Bool.false_eq_true, if_false, SMap.find_filter_keys s.regs (fun k => warmKept.contains k) a]
    by_cases kept : a ∈ warmKept <;> simp [kept]

/-- Settles O36: each part of the device is its reset value or what the reset keeps, by the reset's definition. -/
theorem resetsLeaveWhatTheyShould : Obligations.ResetsLeaveWhatTheyShould := by
  unfold Obligations.ResetsLeaveWhatTheyShould
  intro s cold cause m
  exact ⟨rfl, rfl, rfl, Dev.reg_afterReset s.dev cold cause m, rfl, rfl, rfl, rfl, rfl, rfl, rfl, rfl⟩

theorem State.assertPin_of_powered {s : State} (powered : s.dev.sys.mode ≠ .powerOn) (cause : Nat) (f : Pins → Pins) :
    s.assertPin cause f = (s.afterReset false cause .held).setPins f := by
  simp [State.assertPin, powered]

/-- Settles O37: commands, pins and supplies each bring the reset of their cause. -/
theorem resetCommandsComplete : Obligations.ResetCommandsComplete := by
  unfold Obligations.ResetCommandsComplete
  refine ⟨fun s writable => ⟨?_, ?_⟩, fun s ns powered long => ⟨?_, ?_⟩, fun s ns short => ?_, fun s => rfl, fun s held => ?_,
    fun s powering => ?_⟩
  · simp [exec, execColdCmd, State.coldCmd, writable]
  · simp [exec, execWarmCmd, State.warmCmd, writable]
  · simp [exec, execPerst, State.assertPin_of_powered powered]
  · have not_short : ¬ ns < 100 := by omega
    simp [exec, execDevRst, not_short, long, State.assertPin_of_powered powered]
  · simp [exec, execDevRst, short]
  · simp [exec, execResetRelease, held, State.leaveReset, State.setPins, State.onDev, Dev.setMode]
  · by_cases pins : s.dev.sys.pins.perst = true ∧ s.dev.sys.pins.devRst = true
    · simp [exec, execPowerOnResetRelease, powering, pins, State.leaveReset, State.setPins, State.onDev, Dev.setMode]
    · simp [exec, execPowerOnResetRelease, powering, pins, State.onDev, Dev.setMode]

/-! Boot -/

/-- A START that is served and whose image is fetched: the checks of the image, then the tests (R412, R413). -/
theorem State.startBoot_of_fetched {s : State} {b : Bytes} (tests : BootTests) (boot : s.dev.sys.mode = .boot) (writable : s.dev.writable 2 = true)
    (may_start : s.dev.sys.bootState = 0 ∨ s.dev.sys.bootState = 6) (least : 256 ≤ s.dev.regN (PWR + 0x108))
    (most : s.dev.regN (PWR + 0x108) ≤ 2 ^ 24)
    (fetched : s.dev.hostRead (s.dev.reg64 (PWR + 0x100) (PWR + 0x104)) (s.dev.regN (PWR + 0x108)) = some b) :
    s.startBoot tests =
      s.onDev fun d =>
        if imageReason s.fuses (s.dev.regN (PWR + 0x108)) b ≠ 0 then d.bootFail (imageReason s.fuses (s.dev.regN (PWR + 0x108)) b)
        else if tests.noSpare = true then (d.bootTests tests).bootFail 7
        else (d.bootTests tests).becomeReady s.fuses.serial (u32At b 4) := by
  have not_short : ¬ s.dev.regN (PWR + 0x108) < 256 := by omega
  have not_long : ¬ 16777216 < s.dev.regN (PWR + 0x108) := by omega
  by_cases bad : imageReason s.fuses (s.dev.regN (PWR + 0x108)) b = 0 <;>
    simp [State.startBoot, boot, writable, may_start, not_short, not_long, fetched, bad]

/-- Settles O38: the PLL's lock by its range, the start by its image. -/
theorem bootCommandsComplete : Obligations.BootCommandsComplete := by
  unfold Obligations.BootCommandsComplete
  refine ⟨fun s ppm hbmOk waits in_range => ?_, fun s tests b boot writable may_start least most fetched => ?_⟩
  · simp [exec, execRootPllLock, waits, in_range, State.onDev]
  · have started := State.startBoot_of_fetched (s := s.disarm) tests boot writable may_start least most fetched
    simp only [exec, execStart, started]
    rfl

end Sys2Proof.Machine
end

section
/-!
The management chain (R337 to R344): what its frames do where they take effect, at a head and elsewhere, and its commands, with the statements
about them.
-/
namespace Sys2Proof.Machine

/-! Frames -/

section
variable {s : Dev} {b : Bytes} {typ len : Nat} {serial : Nat}

theorem Dev.onFrame_of_onChain (carried : carries b typ len = true) (on : s.onChain = true) (f : Dev → Dev) : s.onFrame b typ len f = f s := by
  simp [Dev.onFrame, carried, on]

theorem Dev.onFrame_of_bypassed (carried : carries b typ len = true) (bypassed : s.onChain = false) (f : Dev → Dev) :
    s.onFrame b typ len f = s.output (.chainFrame b) := by
  simp [Dev.onFrame, carried, bypassed]

/-! What a head does with a SURVEY or ASSIGN (R341) -/

theorem Dev.headCase_of_no_head (no_head : s.chain.head = false) (own : Dev → Dev) : s.headCase serial b own = none := by
  simp [Dev.headCase, no_head]

theorem Dev.headCase_of_own (head : s.chain.head = true) (same : u64At b 36 = serial) (own : Dev → Dev) :
    s.headCase serial b own = some (own s) := by
  simp [Dev.headCase, head, same]

theorem Dev.headCase_of_lower (lower : u64At b 36 < serial) (own : Dev → Dev) : s.headCase serial b own = none := by
  have other : u64At b 36 ≠ serial := by omega
  simp [Dev.headCase, other, lower]

theorem Dev.headCase_of_higher (head : s.chain.head = true) (higher : serial < u64At b 36) (own : Dev → Dev) :
    s.headCase serial b own = some s := by
  have other : u64At b 36 ≠ serial := by omega
  have not_lower : serial ≤ u64At b 36 := by omega
  simp [Dev.headCase, head, other, not_lower]

/-- The device is no head, has noted the conflict, and MCH_CTL.HEAD reads 0. -/
structure Dev.Yielded (t : Dev) : Prop where
  head : t.chain.head = false
  conflict : t.chain.conflict = true
  ctl : t.regN MCH = 0

theorem Dev.yielded_yieldHead (s : Dev) : s.yieldHead.Yielded :=
  ⟨rfl, rfl, (s.regN_setRegN_same MCH 0 :)⟩

@[simp] theorem Dev.forward_chain (s : Dev) (b : Bytes) : (s.forward b).chain = s.chain := by simp [Dev.forward]
@[simp] theorem Dev.forward_regs (s : Dev) (b : Bytes) : (s.forward b).regs = s.regs := by simp [Dev.forward]

theorem Dev.Yielded.forward {t : Dev} (h : t.Yielded) (b : Bytes) : (t.forward b).Yielded :=
  ⟨by simp [h.head], by simp [h.conflict], (Dev.regN_eq_of_reg (Dev.reg_congr (by simp) MCH)).trans h.ctl⟩

theorem Dev.Yielded.takeAddr {t : Dev} (h : t.Yielded) (m : Bytes) : (t.takeAddr m).1.Yielded := by
  unfold Dev.takeAddr
  split
  · exact h
  · split <;> exact ⟨h.head, h.conflict, h.ctl⟩

variable (on : s.onChain = true)
include on

theorem Dev.surveyOp_of_no_head (carried : carries b 0x01 40 = true) (no_head : s.chain.head = false) :
    s.surveyOp serial b =
      s.forward (reframe b ((if s.chain.addr = 0 then slice b 4 32 else mapAdd (slice b 4 32) s.chain.addr) ++ slice b 36 8)) := by
  simp [Dev.surveyOp, Dev.onFrame_of_onChain carried on, Dev.headCase_of_no_head no_head, no_head]

theorem Dev.surveyOp_of_own (carried : carries b 0x01 40 = true) (head : s.chain.head = true) (same : u64At b 36 = serial) :
    s.surveyOp serial b =
      ((s.takeAddr (slice b 4 32)).1.sendFrame 0 0x02 ((s.takeAddr (slice b 4 32)).2 ++ leBytes 8 serial)).setChain fun c =>
        { c with surveyOut := false } := by
  simp [Dev.surveyOp, Dev.onFrame_of_onChain carried on, Dev.headCase_of_own head same]

theorem Dev.surveyOp_of_higher (carried : carries b 0x01 40 = true) (head : s.chain.head = true) (higher : serial < u64At b 36) :
    s.surveyOp serial b = s := by
  simp [Dev.surveyOp, Dev.onFrame_of_onChain carried on, Dev.headCase_of_higher head higher]

theorem Dev.yielded_surveyOp (carried : carries b 0x01 40 = true) (head : s.chain.head = true) (lower : u64At b 36 < serial) :
    (s.surveyOp serial b).Yielded := by
  simp only [Dev.surveyOp, Dev.onFrame_of_onChain carried on, Dev.headCase_of_lower lower, head, if_true]
  exact s.yielded_yieldHead.forward _

theorem Dev.assignOp_of_joining (carried : carries b 0x02 40 = true) (no_head : s.chain.head = false) (no_addr : s.chain.addr = 0)
    (serving : s.serving = true) {a : Nat} (free : lowestClear (slice b 4 32) = some a) :
    s.assignOp serial b =
      (s.setChain fun c => { c with addr := a, full := false }).forward (reframe b (mapAdd (slice b 4 32) a ++ slice b 36 8)) := by
  simp [Dev.assignOp, Dev.onFrame_of_onChain carried on, Dev.headCase_of_no_head no_head, no_head, no_addr, serving, Dev.takeAddr, free]

theorem Dev.assignOp_of_own (carried : carries b 0x02 40 = true) (head : s.chain.head = true) (same : u64At b 36 = serial) :
    s.assignOp serial b = s.setChain fun c => { c with count := mapCount (slice b 4 32) } := by
  simp [Dev.assignOp, Dev.onFrame_of_onChain carried on, Dev.headCase_of_own head same]

theorem Dev.assignOp_of_higher (carried : carries b 0x02 40 = true) (head : s.chain.head = true) (higher : serial < u64At b 36) :
    s.assignOp serial b = s := by
  simp [Dev.assignOp, Dev.onFrame_of_onChain carried on, Dev.headCase_of_higher head higher]

theorem Dev.yielded_assignOp (carried : carries b 0x02 40 = true) (head : s.chain.head = true) (lower : u64At b 36 < serial) :
    (s.assignOp serial b).Yielded := by
  simp only [Dev.assignOp, Dev.onFrame_of_onChain carried on, Dev.headCase_of_lower lower, head, if_true]
  split
  · exact s.yielded_yieldHead.forward b
  · exact (s.yielded_yieldHead.takeAddr _).forward _

theorem Dev.joinOp_of_onChain (carried : carries b 0x03 8 = true) :
    s.joinOp serial b = if s.chain.head = true then s.enumerate serial else if u64At b 4 = serial then s else s.forward b := by
  simp [Dev.joinOp, Dev.onFrame_of_onChain carried on]

theorem Dev.statusOp_of_onChain (carried : carries b 0x10 16 = true) :
    s.statusOp serial b =
      if 1 ≤ frameDst b ∧ frameDst b ≤ 254 then (if frameDst b = s.chain.addr then s.learn b else s.forward b)
      else if frameSrc b = s.chain.addr ∧ u64At (framePayload b) 8 = serial then s.setChain fun c => { c with ringOk := true }
      else (if frameDst b = 255 then s.learn b else s).forward b := by
  simp [Dev.statusOp, Dev.onFrame_of_onChain carried on]

theorem Dev.statusReqOp_of_named (carried : carries b 0x11 0 = true) (not_zero : frameDst b ≠ 0) (named : frameDst b = s.chain.addr) :
    s.statusReqOp serial b = s.sendFrame (frameSrc b) 0x10 (s.statusPayload serial) := by
  have addressed : s.chain.addr ≠ 0 := named ▸ not_zero
  simp [Dev.statusReqOp, Dev.onFrame_of_onChain carried on, named, addressed]

end

/-- Settles O32: a lower serial leads to the yielding, what follows it keeps head, conflict and MCH_CTL; with a higher one the frame ends here. -/
theorem headsYieldToLowerSerials : Obligations.HeadsYieldToLowerSerials := by
  unfold Obligations.HeadsYieldToLowerSerials
  intro s fr c on command head
  rcases command with ⟨rfl, carried⟩ | ⟨rfl, carried⟩
  · refine ⟨fun lower => ?_, fun higher => ?_⟩
    · have yielded := Dev.yielded_surveyOp on carried head lower
      exact ⟨_, rfl, ⟨rfl, rfl, rfl, rfl⟩, yielded.head, yielded.conflict, yielded.ctl⟩
    · simp [exec, execSurvey, State.onDev, Dev.surveyOp_of_higher on carried head higher]
  · refine ⟨fun lower => ?_, fun higher => ?_⟩
    · have yielded := Dev.yielded_assignOp on carried head lower
      exact ⟨_, rfl, ⟨rfl, rfl, rfl, rfl⟩, yielded.head, yielded.conflict, yielded.ctl⟩
    · simp [exec, execAssign, State.onDev, Dev.assignOp_of_higher on carried head higher]

/-- Settles O31: each frame by its operation's case at a device on the chain, and by the bypass elsewhere. -/
theorem chainFramesComplete : Obligations.ChainFramesComplete := by
  unfold Obligations.ChainFramesComplete
  refine ⟨fun s fr on carried => ⟨fun no_head => ?_, fun head same => ?_⟩,
    fun s fr on carried => ⟨fun no_head no_addr serving a free => ?_, fun head same => ?_⟩, fun s fr on carried => ?_, fun s fr on carried => ?_,
    fun s fr on carried not_zero named => ?_, fun s fr on bad => ?_, fun s fr c bypassed command => ?_⟩
  · simp [exec, execSurvey, State.onDev, Dev.surveyOp_of_no_head on carried no_head]
  · simp [exec, execSurvey, State.onDev, Dev.surveyOp_of_own on carried head same]
  · simp [exec, execAssign, State.onDev, Dev.assignOp_of_joining on carried no_head no_addr serving free]
  · simp [exec, execAssign, State.onDev, Dev.assignOp_of_own on carried head same]
  · simp [exec, execJoin, State.onDev, Dev.joinOp_of_onChain on carried]
  · simp only [exec, execStatus, State.onDev, Dev.statusOp_of_onChain on carried]
  · simp [exec, execStatusReq, State.onDev, Dev.statusReqOp_of_named on carried not_zero named]
  · simp [exec, execChainFrameDrop, State.onDev, Dev.frameDropOp, on, bad]
  · rcases command with ⟨rfl, carried⟩ | ⟨rfl, carried⟩ | ⟨rfl, carried⟩ | ⟨rfl, carried⟩ | ⟨rfl, carried⟩ | rfl
    · simp [exec, execSurvey, State.onDev, Dev.surveyOp, Dev.onFrame_of_bypassed carried bypassed]
    · simp [exec, execAssign, State.onDev, Dev.assignOp, Dev.onFrame_of_bypassed carried bypassed]
    · simp [exec, execJoin, State.onDev, Dev.joinOp, Dev.onFrame_of_bypassed carried bypassed]
    · simp [exec, execStatus, State.onDev, Dev.statusOp, Dev.onFrame_of_bypassed carried bypassed]
    · simp [exec, execStatusReq, State.onDev, Dev.statusReqOp, Dev.onFrame_of_bypassed carried bypassed]
    · simp [exec, execChainFrameDrop, State.onDev, Dev.frameDropOp, bypassed]

/-! Commands -/

/-- A query that has had no answer for 3 ms ends unknown, where no query of the device's own runs (R344). -/
theorem Dev.queryTimeoutOp_of_due {s : Dev} {a t : Nat} (on : s.onChain = true) (query : s.chain.hostQuery = some (a, t))
    (no_own : s.chain.ownQuery = none) (due : t + 3600000 ≤ s.sys.time) :
    s.queryTimeoutOp = s.setChain fun c => { c with hostQuery := none, qres := 3 } := by
  simp [Dev.queryTimeoutOp, on, query, no_own, usTicks, due]

/-- Settles O30: each command by its operation where the registers are served. -/
theorem chainCommandsComplete : Obligations.ChainCommandsComplete := by
  unfold Obligations.ChainCommandsComplete
  refine ⟨fun s writable => ⟨?_, fun head => ?_, ?_, fun no_query => ?_⟩, fun s a t on query no_own due => ?_, fun s on addressed => ?_⟩
  · simp [exec, execHead, State.onDev, Dev.setHead, writable, b2n, State.disarm]
  · simp [exec, execEnum, State.onDev, Dev.enumOp, writable, head, State.disarm]
  · simp [exec, execMchRelease, State.onDev, Dev.releaseAddr, writable, State.disarm]
  · simp [exec, execQuery, State.onDev, Dev.queryOp, writable, no_query, State.disarm]
  · simp [exec, execQueryTimeout, State.onDev, Dev.queryTimeoutOp_of_due on query no_own due]
  · simp [exec, execStatusBroadcast, State.onDev, Dev.statusBroadcastOp, on, addressed]

end Sys2Proof.Machine
end

section
/-!
The pair (R345 to R366): pass links, MIRROR_CTL by descriptor, and the records of mirror slots, with the statements about them.
-/
namespace Sys2Proof.Machine

/-! Pass links -/

theorem Dev.link_modLink (s : Dev) (l : Nat) (f : PassLink → PassLink) (k : Nat) :
    (s.modLink l f).link k = if k = l ∧ l < s.pair.links.length then f (s.link l) else s.link k := by
  simp only [Dev.link, Dev.modLink, listGet, listMod, List.getElem?_modify]
  by_cases same : k = l
  · subst same
    by_cases inside : k < s.pair.links.length <;> simp [inside]
  · simp [same, Ne.symm same]

/-- A link that is up is one of the device's. -/
theorem Dev.lt_of_link_up {s : Dev} {l : Nat} (up : (s.link l).up = true) : l < s.pair.links.length := by
  by_contra outside
  rw [Dev.link, listGet, List.getElem?_eq_none (by omega)] at up
  exact absurd up (by decide)

/-- A link after a numbered flit has left on it (R345). -/
def PassLink.sentOne (x : PassLink) : PassLink := { x with txSeq := (x.txSeq + 1) % 2 ^ 24, kept := min 256 (x.kept + 1) }

/-- A heartbeat on link l, where it is up (R347). -/
def Dev.beatOn (s : Dev) (serial l : Nat) : Dev :=
  if (s.link l).up = true then (s.modLink l PassLink.sentOne).output (.heartbeat l (s.link l).txSeq (BitVec.ofNat 64 serial) s.pair.roles) else s

section
variable (s : Dev) (serial l : Nat)

theorem Dev.beatOn_outputs :
    (s.beatOn serial l).host.outputs =
      s.host.outputs ++ if (s.link l).up = true then [.heartbeat l (s.link l).txSeq (BitVec.ofNat 64 serial) s.pair.roles] else [] := by
  unfold Dev.beatOn
  split
  · rfl
  · simp

theorem Dev.beatOn_link (k : Nat) :
    (s.beatOn serial l).link k = if k = l ∧ (s.link l).up = true then (s.link l).sentOne else s.link k := by
  unfold Dev.beatOn
  split
  case isTrue up =>
    have inside := Dev.lt_of_link_up up
    have sent : ((s.modLink l PassLink.sentOne).output (.heartbeat l (s.link l).txSeq (BitVec.ofNat 64 serial) s.pair.roles)).link k =
        (s.modLink l PassLink.sentOne).link k := rfl
    rw [sent, Dev.link_modLink]
    simp [up, inside]
  case isFalse down => simp [down]

/-- What a heartbeat leaves alone. -/
theorem Dev.beatOn_frame :
    (s.beatOn serial l).pair.roles = s.pair.roles ∧ (s.beatOn serial l).pair.lastBeat = s.pair.lastBeat ∧ (s.beatOn serial l).hmem = s.hmem ∧
      (s.beatOn serial l).dmem = s.dmem ∧ (s.beatOn serial l).media = s.media ∧ (s.beatOn serial l).sys = s.sys := by
  unfold Dev.beatOn
  split <;> exact ⟨rfl, rfl, rfl, rfl, rfl, rfl⟩

end

section
variable {s : Dev} {l : Nat} (serving : s.serving = true)
include serving

theorem Dev.heartbeatOp_of_due (serial : Nat) (due : s.pair.lastBeat + 12000 ≤ s.sys.time) :
    s.heartbeatOp serial = (({ s with pair := { s.pair with lastBeat := s.sys.time } } : Dev).beatOn serial 0).beatOn serial 1 := by
  have not_early : ¬ s.sys.time < s.pair.lastBeat + 12000 := by omega
  simp only [Dev.heartbeatOp, serving, usTicks, Nat.reduceMul, not_early, Bool.not_true, Bool.false_or, decide_false, Bool.false_eq_true, if_false]
  rfl

theorem Dev.heartbeatReceiveOp_of_heard (own : Nat) (serial : BitVec 64) (roles : List SlotRole) (on : s.linkOn l = true)
    (known : (s.link l).everUp = true) :
    s.heartbeatReceiveOp own l serial roles =
      let d := s.modLink l fun x => { x with up := true, lastBeat := s.sys.time }
      let d1 := if (s.link l).up = true then d else d.sendHello l own
      let d2 : Dev := { d1 with pair := { d1.pair with evidence := none } }
      let d3 := if s.pair.silent = true then d2.heard ((s.link l).serial == some serial) else d2
      if s.pair.uses l = true then (d3.checkConflict roles).endDetaches fun m => !(roles.any fun r => r.mirrorId == m) else d1 := by
  have same_silent (d : Dev) : (d.sendHello l own).pair.silent = d.pair.silent := rfl
  have same_uses (d : Dev) : (d.sendHello l own).pair.uses l = d.pair.uses l := rfl
  have silent_mod (f : PassLink → PassLink) : (s.modLink l f).pair.silent = s.pair.silent := rfl
  have uses_mod (f : PassLink → PassLink) : (s.modLink l f).pair.uses l = s.pair.uses l := rfl
  by_cases up : (s.link l).up = true <;> by_cases uses : s.pair.uses l = true <;>
    simp [Dev.heartbeatReceiveOp, serving, on, known, up, uses, same_silent, same_uses, silent_mod, uses_mod]

theorem Dev.linkDownOp_of_due (up : (s.link l).up = true) (due : (s.link l).lastBeat + 36000 ≤ s.sys.time) :
    s.linkDownOp l = ((s.bump (PASS + 0x28) 1).count (ev 12 5) 1).linkDown l false := by
  have not_early : ¬ s.sys.time < (s.link l).lastBeat + 36000 := by omega
  simp [Dev.linkDownOp, serving, up, usTicks, not_early]

theorem Dev.replayOp_of_kept {seq : Nat} (up : (s.link l).up = true) (some_flits : 1 ≤ ((s.link l).txSeq + 2 ^ 24 - seq) % 2 ^ 24)
    (kept : ((s.link l).txSeq + 2 ^ 24 - seq) % 2 ^ 24 ≤ (s.link l).kept) :
    s.replayOp l seq =
      ((s.output (.replay l seq (((s.link l).txSeq + 2 ^ 24 - seq) % 2 ^ 24))).modLink l fun x =>
        { x with replayed := min (x.replayed + ((s.link l).txSeq + 2 ^ 24 - seq) % 2 ^ 24) 0xFFFFFFFF }).count (ev 12 4)
          (((s.link l).txSeq + 2 ^ 24 - seq) % 2 ^ 24) := by
  have replays : ¬(((s.link l).txSeq + 2 ^ 24 - seq) % 2 ^ 24 = 0 ∨ (s.link l).kept < ((s.link l).txSeq + 2 ^ 24 - seq) % 2 ^ 24) := by omega
  simp only [Dev.replayOp, serving, up, Bool.not_true, Bool.false_or, beq_iff_eq, Bool.or_eq_true, decide_eq_true_eq, replays, if_false]

theorem Dev.replayOp_of_not_kept {seq : Nat} (up : (s.link l).up = true)
    (not_kept : ((s.link l).txSeq + 2 ^ 24 - seq) % 2 ^ 24 = 0 ∨ (s.link l).kept < ((s.link l).txSeq + 2 ^ 24 - seq) % 2 ^ 24) :
    s.replayOp l seq = s := by
  simp only [Dev.replayOp, serving, up, Bool.not_true, Bool.false_or, beq_iff_eq, Bool.or_eq_true, decide_eq_true_eq, not_kept, if_true]

end

/-! HELLO (R348, R349) -/

/-- Link l after a HELLO has come in on it, answered where the link was down (R348). -/
def Dev.greeted (s : Dev) (own l : Nat) (serial : BitVec 64) : Dev :=
  let d := s.modLink l fun x => { x with up := true, everUp := true, serial := some serial, lastBeat := s.sys.time }
  if (s.link l).up = true then d else d.sendHello l own

section
variable (s : Dev) (own l : Nat) (serial : BitVec 64)

/-- What a HELLO's arrival at its link leaves alone. -/
theorem Dev.greeted_frame :
    (s.greeted own l serial).pair.silent = s.pair.silent ∧ (s.greeted own l serial).pair.hellos = s.pair.hellos ∧
      (s.greeted own l serial).pair.mplCap = s.pair.mplCap ∧ (s.greeted own l serial).hmem = s.hmem ∧
      (s.greeted own l serial).dmem = s.dmem ∧ (s.greeted own l serial).media = s.media := by
  unfold Dev.greeted
  dsimp only
  split <;> exact ⟨rfl, rfl, rfl, rfl, rfl, rfl⟩

theorem Dev.greeted_outputs :
    ∃ q : Nat, (s.greeted own l serial).host.outputs = s.host.outputs ++ (if (s.link l).up = true then []
      else [.helloSent l q
        { serial := BitVec.ofNat 64 own, rev := 0xB1, fw := BitVec.ofNat 32 (s.regN (GLB + 0x10)), mpl := BitVec.ofNat 32 s.pair.mplCap
          addr := BitVec.ofNat 8 s.chain.addr }]) := by
  unfold Dev.greeted
  dsimp only
  split
  · exact ⟨0, (List.append_nil _).symm⟩
  · exact ⟨_, rfl⟩

theorem Dev.greeted_link (inside : l < s.pair.links.length) :
    ((s.greeted own l serial).link l).up = true ∧ ((s.greeted own l serial).link l).serial = some serial ∧
      ((s.greeted own l serial).link l).lastBeat = s.sys.time := by
  unfold Dev.greeted
  dsimp only
  split
  · simp [Dev.link_modLink, inside]
  · have sent (d : Dev) : (d.sendHello l own).link l = (d.modLink l PassLink.sentOne).link l := rfl
    have length_kept (f : PassLink → PassLink) : (s.modLink l f).pair.links.length = s.pair.links.length := by simp [Dev.modLink, listMod]
    simp [sent, Dev.link_modLink, inside, length_kept, PassLink.sentOne]

end

/-- A HELLO while the partner is heard: its link, its data, and the level in common (R348, R349). -/
theorem Dev.helloOp_of_heard {s : Dev} {l : Nat} (own : Nat) (h : HelloData) (serving : s.serving = true) (on : s.linkOn l = true)
    (heard : s.pair.silent = false) :
    ∃ mis : Bool, s.helloOp own l h =
      let d := s.greeted own l h.serial
      let p : Pair := { d.pair with hellos := listSet d.pair.hellos l (some h), miswired := mis }
      { d with pair := { p with mpl := p.hello.bind fun g => commonLevel p.mplCap g.mpl.toNat, partner := 1 } } := by
  have heard' := (s.greeted_frame own l h.serial).1.trans heard
  simp only [Dev.helloOp, serving, on, Bool.not_true, Bool.or_self, Bool.false_eq_true, if_false]
  change ∃ mis : Bool, (if (s.greeted own l h.serial).pair.silent && _ then _ else
    ({ s.greeted own l h.serial with pair := { (s.greeted own l h.serial).pair with
        hellos := _, miswired := _, mpl := _, partner := if (s.greeted own l h.serial).pair.silent then _ else 1 } } : Dev)) = _
  simp only [heard', Bool.false_and, Bool.false_eq_true, if_false]
  exact ⟨_, rfl⟩

theorem listGet_listSet_same {α : Type} (l : List (Option α)) (i : Nat) (v : Option α) :
    listGet (listSet l i v) i none = if i < l.length then v else none := by
  by_cases inside : i < l.length <;> simp [listGet, listSet, inside]

/-- Settles O56: the links by their operations' cases, what a heartbeat and a HELLO change link by link. -/
theorem pairLinkCommandsComplete : Obligations.PairLinkCommandsComplete := by
  unfold Obligations.PairLinkCommandsComplete
  intro s serving
  refine ⟨fun due => ?_, fun l => ⟨fun serial roles on known => ?_, fun up due => ?_, fun h on heard => ?_, fun seq up => ⟨fun some_flits kept => ?_,
    fun not_kept => ?_⟩, fun lane up => ⟨fun whole => ?_, fun k failed other => ?_⟩⟩⟩
  · let d : Dev := { s.dev with pair := { s.dev.pair with lastBeat := s.dev.sys.time } }
    have other_link : (d.beatOn s.fuses.serial 0).link 1 = s.dev.link 1 := (d.beatOn_link s.fuses.serial 0 1).trans (if_neg (by simp))
    obtain ⟨roles0, beat0, hmem0, dmem0, media0, sys0⟩ := d.beatOn_frame s.fuses.serial 0
    obtain ⟨roles1, beat1, hmem1, dmem1, media1, sys1⟩ := (d.beatOn s.fuses.serial 0).beatOn_frame s.fuses.serial 1
    refine ⟨{ s with dev := (d.beatOn s.fuses.serial 0).beatOn s.fuses.serial 1 }, ?_, ⟨rfl, rfl, rfl, rfl⟩, beat1.trans beat0, ?_, fun l => ?_,
      hmem1.trans hmem0, dmem1.trans dmem0, media1.trans media0, sys1.trans sys0⟩
    · simp [exec, execHeartbeat, State.onDev, Dev.heartbeatOp_of_due serving s.fuses.serial due, d]
    · have roles : d.pair.roles = s.dev.pair.roles := rfl
      have first_link : d.link 0 = s.dev.link 0 := rfl
      have two : List.range 2 = [0, 1] := rfl
      rw [Dev.beatOn_outputs, Dev.beatOn_outputs, other_link, roles0, roles, first_link, two, List.append_assoc]
      by_cases up0 : (s.dev.link 0).up = true <;> by_cases up1 : (s.dev.link 1).up = true <;> simp [up0, up1, d]
    · have link (k : Nat) : d.link k = s.dev.link k := rfl
      rw [Dev.beatOn_link, other_link, Dev.beatOn_link, link, link]
      by_cases up : (s.dev.link l).up = true
      · have inside := Dev.lt_of_link_up up
        rcases Nat.lt_or_ge l 2 with two | beyond
        · obtain rfl | rfl : l = 0 ∨ l = 1 := by omega
          · simp [up, inside, PassLink.sentOne]
          · simp [up, inside, PassLink.sentOne]
        · have not_zero : l ≠ 0 := by omega
          have not_one : l ≠ 1 := by omega
          have not_two : ¬ l < 2 := by omega
          simp [not_zero, not_one, not_two]
      · by_cases zero : l = 0
        · subst zero; simp [up]
        · by_cases one : l = 1
          · subst one; simp [up]
          · simp [zero, one, up]
  · simp only [exec, execHeartbeatReceive, State.onDev, Dev.heartbeatReceiveOp_of_heard serving s.fuses.serial serial roles on known]
  · simp [exec, execLinkDown, State.onDev, Dev.linkDownOp_of_due serving up due]
  · obtain ⟨mis, op⟩ := Dev.helloOp_of_heard s.fuses.serial h serving on heard
    obtain ⟨-, hellos, level, hmem, dmem, media⟩ := s.dev.greeted_frame s.fuses.serial l h.serial
    refine ⟨{ s with dev := s.dev.helloOp s.fuses.serial l h }, rfl, ⟨rfl, rfl, rfl, rfl⟩, ?_, ?_, ?_, ?_, fun inside => ?_, ?_, ?_, ?_⟩ <;>
      simp only [op]
    · rw [listGet_listSet_same, hellos]
    · rw [level]; rfl
    · exact s.dev.greeted_outputs s.fuses.serial l h.serial
    · exact s.dev.greeted_link s.fuses.serial l h.serial inside
    · exact hmem
    · exact dmem
    · exact media
  · simp only [exec, execReplay, State.onDev, Dev.replayOp_of_kept serving up some_flits kept]
  · simp only [exec, execReplay, State.onDev, Dev.replayOp_of_not_kept serving up not_kept]
  · simp [exec, execLaneSpare, State.onDev, Dev.laneSpareOp, serving, up, whole]
  · simp [exec, execLaneSpare, State.onDev, Dev.laneSpareOp, serving, up, failed, other]

/-! MIRROR_CTL -/

theorem Dev.streamNamed_of_mirrorStream {s : Dev} {a : Acc} {flags n : Nat} {report : Bool} {x : Stream}
    (named : s.mirrorStream a flags report = some (n, x)) : s.streamNamed (u8At a.raw 19) (u32At a.raw 20) = some (n, x) := by
  cases found : s.streamNamed (u8At a.raw 19) (u32At a.raw 20) with
  | none => simp [Dev.mirrorStream, found] at named
  | some r =>
    obtain ⟨m, y⟩ := r
    obtain ⟨-, rfl, rfl⟩ : _ ∧ m = n ∧ y = x := by simpa [Dev.mirrorStream, found] using named
    rfl

/-- A MIRROR_CTL that runs and names a stream that is not evicted does what its operation does. -/
theorem next_mirrorDesc_of_runs {s : State} {d : Desc} {row : Nat} {a : Acc} {op : Acc → Dev → Dev} {flags n : Nat} {report : Bool} {x : Stream}
    {t : Dev} (runs : s.dev.Runs d row a) (named : s.dev.mirrorStream a flags report = some (n, x)) (here : x.failed ≠ some stABORTED)
    (effect : op a s.dev = t) : Host.Outcome.next (s.onDev fun v => v.mirrorDesc d row op) = (.next { s with dev := t } : Out) := by
  have op_runs : s.dev.mirrorDesc d row op = t := by
    rw [Dev.mirrorDesc, Dev.runDesc_of_runs runs, Dev.streamNamed_of_mirrorStream named]
    simpa [here] using effect
  rw [State.onDev, op_runs]

/-- Settles O28: each operation on the stream that its descriptor names. -/
theorem mirrorControlsComplete : Obligations.MirrorControlsComplete := by
  unfold Obligations.MirrorControlsComplete
  refine ⟨fun s d a n x runs named here => ?_, fun s d a n x runs named here new mirrored => ?_, fun s d a n k x t runs named here slot role free => ?_,
    fun s d a n k x t runs named here slot role free heard => ?_, fun s d a n k x t runs named here slot forced may => ?_⟩
  · refine next_mirrorDesc_of_runs runs named here ?_
    simp [Dev.attachOp, named]
  · refine next_mirrorDesc_of_runs runs named here ?_
    have mirrored' : ((s.dev.slotOf n).isSome || s.dev.pair.waiting.any fun w => w.stream == n) = true := by simpa using mirrored
    simp only [Dev.detachOp, named, new, mirrored', Bool.false_eq_true, if_false, if_true, Bool.and_eq_true, Bool.not_eq_true']
  · refine next_mirrorDesc_of_runs runs named here ?_
    simp [Dev.watchOp, named, slot, role, free]
  · refine next_mirrorDesc_of_runs runs named here ?_
    simp [Dev.switchOp, named, slot, role, free, heard]
  · refine next_mirrorDesc_of_runs runs named here ?_
    rcases may with ⟨standby, epoch⟩ | held
    · have some_epoch : t.epochNo ≠ none := Option.isSome_iff_ne_none.mp epoch
      simp [Dev.takeoverOp, named, slot, forced, standby, some_epoch]
    · simp [Dev.takeoverOp, named, slot, forced, held]

/-! Records of mirror slots -/

/-- An operation that a served device alone does, on a device that serves. -/
theorem next_serving {s : State} (serving : s.dev.serving = true) {op : Dev → Dev} {t : Dev} (effect : op s.dev = t) :
    Host.Outcome.next (s.onDev fun v => if v.serving then op v else v) = (.next { s with dev := t } : Out) := by
  simp [State.onDev, serving, effect]

/-- Two periods of a slot, in ns, against a time in ticks: 5 ns are 6 ticks (R357, R396). -/
theorem two_periods_le_iff (ticks period : Nat) : ((ticks : Rat) * 5 / 6 ≥ ((2 * period : Nat) : Rat)) ↔ 2 * period * 6 ≤ ticks * 5 := by
  rw [ge_iff_le, le_div_iff₀ (by norm_num)]
  exact_mod_cast Iff.rfl

section
variable {s : Dev} {k : Nat}

theorem Dev.epochLeaves_of_delivered {i : EpochImage} {rest : List EpochImage} {x : Stream} (ready : (s.slot k).ready = i :: rest)
    (stream : s.stream (s.slot k).stream = some x) (active : (s.slot k).role = .active) (agreed : (s.slot k).state ≠ .conflict)
    (known : (s.slot k).foreign = false) (mirrors : s.mirrors = true) (delivered : i.nextUnit ≤ x.delivered) :
    s.epochLeaves k =
      let t := s.slot k
      let e : Sent := { number := t.nextEpoch, times := 1, opened := s.sys.time, full := t.fullNext, image := i
                        bufs := if t.fullNext = true then x.named else [x.last].filterMap fun r => r.map (·.buf) }
      ((s.setSlot k { t with
        ready := rest, nextEpoch := t.nextEpoch + 1, opened := t.opened + 1, sent := t.sent ++ [e], fullNext := false
        state := if t.state = .degraded ∨ t.state = .takenOver then .resync else t.state }).sendRecord
        (.epoch k t.nextEpoch t.fullNext i)).switchStep t.stream := by
  have not_later : ¬ x.delivered < i.nextUnit := by omega
  simp [Dev.epochLeaves, ready, stream, active, agreed, known, mirrors, not_later]

theorem Dev.epochArrives_of_known (known : (s.slot k).foreign = false) (mirrors : s.mirrors = true) :
    s.epochArrives k =
      let t := s.slot k
      s.setSlot k { t with
        incoming := true, opened := t.opened + 1, discarded := if t.incoming = true then t.discarded + 1 else t.discarded } := by
  by_cases incoming : (s.slot k).incoming = true <;> simp [Dev.epochArrives, mirrors, known, Slot.dropIncoming, incoming]

theorem Dev.epochCloseOp_eq (standby : (s.slot k).role = .standby) (known : (s.slot k).foreign = false) (mirrors : s.mirrors = true)
    (number : Nat) (full : Bool) (i : EpochImage) (ok : Bool) :
    s.epochCloseOp k number full i ok =
      let t := s.slot k
      let opened := t.opened + (if t.incoming = true then 0 else 1)
      if ok = true then
        ((((s.setSlot k { t with
          opened := opened, incoming := false, acked := t.acked + 1, epochNo := some number, nextEpoch := number + 1
          mark := (i.nextUnit, lastIdOf i), covered := i.nextUnit }).install t.stream i).committed k full).count (ev 12 6) 1).sendRecord
          (.epochAck k number true)
      else
        ((s.setSlot k { t with opened := opened, incoming := false, discarded := t.discarded + 1 }).count (ev 12 7) 1).sendRecord
          (.epochAck k number false) := by
  by_cases incoming : (s.slot k).incoming = true <;> simp [Dev.epochCloseOp, standby, known, mirrors, incoming, b2n]

theorem Dev.epochAckOp_of_sent {number : Nat} {e : Sent} (active : (s.slot k).role = .active)
    (sent : ((s.slot k).sent.find? fun f => f.number == number) = some e) (ok : Bool) :
    s.epochAckOp k number ok =
      let t := s.slot k
      if ok = true then
        (((s.setSlot k { t with
          sent := t.sent.filter fun f => f.number != number, acked := t.acked + 1, epochNo := some number
          mark := (e.image.nextUnit, lastIdOf e.image) }).committed k e.full).count (ev 12 6) 1).settleFeatures t.stream
      else if 3 ≤ e.times then s.abortSlot k
      else
        ((s.count (ev 12 7) 1).setSlot k { t with
          sent := t.sent.map fun f => if f.number = number then { f with times := f.times + 1 } else f }).sendRecord
          (.epoch k number e.full e.image) := by
  simp [Dev.epochAckOp, active, sent]

theorem Dev.abortOp_of_due {e : Sent} (sent : e ∈ (s.slot k).sent) (active : (s.slot k).role = .active)
    (due : 2 * (s.slot k).period * 6 ≤ (s.sys.time - e.opened) * 5) : s.abortOp k = s.abortSlot k := by
  have late : ((s.slot k).sent.any fun f =>
      decide (((s.sys.time - f.opened : Nat) : Rat) * 5 / 6 ≥ ((2 * (s.slot k).period : Nat) : Rat))) = true :=
    List.any_eq_true.mpr ⟨e, sent, decide_eq_true ((two_periods_le_iff _ _).mpr due)⟩
  simp only [Dev.abortOp, active, beq_self_eq_true, late, Bool.and_self, if_true]

theorem Dev.switchRecordOp_of_epoch (standby : (s.slot k).role = .standby) (epoch : (s.slot k).epochNo.isSome = true) :
    s.switchRecordOp k =
      let t := s.slot k
      let d := s.endWatch k stDONE (some 3)
      (d.setSlot k { d.slot k with
        role := .active, state := .inSync, forced := false, covered := t.mark.1, acked := t.acked + t.discarded, discarded := 0 }).sendRecord
        (.switchAck k) := by
  have some_epoch : (s.slot k).epochNo ≠ none := Option.isSome_iff_ne_none.mp epoch
  simp [Dev.switchRecordOp, standby, some_epoch]

theorem Dev.switchAckOp_of_out {q : Nat} (switching : (s.slot k).switchSeq = some q) (active : (s.slot k).role = .active)
    (out : (s.slot k).switchOut = true) :
    s.switchAckOp k =
      let t := s.slot k
      ((s.setSlot k { t with
        role := .standby, state := .inSync, forced := false, switchSeq := none, switchOut := false, ready := [], sent := []
        acked := t.acked + t.sent.length, epochNo := some (t.nextEpoch - 1) }).finish (some q) stDONE 0 0).settleFeatures t.stream := by
  simp [Dev.switchAckOp, switching, active, out]

/-- A closing notice at an end that is active or held (R365). -/
theorem Dev.closingNoticeOp_of_active_or_held (role : (s.slot k).role = .active ∨ (s.slot k).role = .held) (closed : Bool) :
    s.closingNoticeOp k closed =
      let t := s.slot k
      (((((s.finish t.attachSeq stCANCELLED 0 0).finish t.switchSeq stABORTED 0 0).dropUnacked k).freeSlot k).settleFeatures
        t.stream).modStream t.stream fun x => { x with mirror := .active } := by
  rcases role with role | role <;> simp [Dev.closingNoticeOp, role]

end

/-! A matched ATTACH (R352) -/

section
variable {s : Dev} {p : PartnerAttach} {w : WaitAttach} {x : Stream} {c : Contract} {t : Seat}
  (waits : (s.pair.waiting.find? fun v => v.mirrorId == p.mirrorId && v.active != p.active) = some w)
  (stream : s.stream w.stream = some x) (seat : s.seatOf x = some (c, t)) (serving : s.serving = true) (mirrors : s.mirrors = true)
include waits stream seat serving mirrors

theorem Dev.attachMatchOp_of_other_job (other : c.job ≠ p.job) :
    s.attachMatchOp p =
      ({ s with pair := { s.pair with waiting := s.pair.waiting.filter fun v => v.seq != w.seq } } : Dev).finish (some w.seq) stFORMAT 0 0 := by
  simp [Dev.attachMatchOp, waits, stream, seat, serving, mirrors, other]

/-- Both ends' contracts, blocks and packages are alike, and the match is not refused; the standby has run nothing, there is no slot for the stream
yet, one is free, and the links' booking has room; the stream is no active picture stream, which would take a feature buffer more (R352, R356). -/
structure Dev.Matches (s : Dev) (p : PartnerAttach) (w : WaitAttach) (x : Stream) (c : Contract) : Prop where
  job : c.job = p.job
  cls : u8At c.cpb 4 = p.cls
  rerun : c.rerunA = p.rerun
  param : mirrorParam x.medium x.param = mirrorParam x.medium p.param
  digest : if x.enc = true then (s.pkgOf x).pkgDigest = p.pkgDigest else (s.pkgOf x).modelDigest = p.modelDigest
  taken : p.refused = false
  fresh : w.active = true ∨ x.ran = false
  unmirrored : s.slotOf w.stream = none
  slots : s.pair.slots.length < 1024
  no_buffer : w.active = false ∨ x.medium ≠ 0
  booking : s.pair.booked (!w.active) + (s.mirrorBooking c x).1 ≤ 950

theorem Dev.attachMatchOp_of_matches (fits : s.Matches p w x c) :
    s.attachMatchOp p =
      let k := lowestFree s.pair.slots 1024
      let y : Stream := { x with mirror := .none }
      let d := ({ s with pair := { s.pair with waiting := s.pair.waiting.filter fun v => v.seq != w.seq } } : Dev).setStream w.stream y
      let q : Slot :=
        { Slot.free with
          role := if w.active = true then .active else .standby, func := x.func, stream := w.stream, mirrorId := w.mirrorId
          booking := (s.mirrorBooking c x).1, period := (s.mirrorBooking c x).2, attachSeq := some w.seq, covered := x.aus }
      if w.active = true then
        let e : Sent := { number := 0, times := 1, opened := s.sys.time, full := true, image := d.capture y, bufs := y.named }
        (d.setSlot k { q with nextEpoch := 1, opened := 1, sent := [e] }).sendRecord (.epoch k 0 true (d.capture y))
      else d.setSlot k q := by
  have extra : (w.active && x.medium == 0) = false := by
    rcases fits.no_buffer with h | h <;> simp [h]
  simp only [Dev.attachMatchOp, waits, stream, seat, serving, mirrors, extra, Bool.not_true, Bool.not_false, Bool.or_self, Bool.true_or,
    Bool.false_eq_true, if_false]
  rw [if_neg ?alike, if_neg ?admitted]
  case alike =>
    change ¬(!(c.job == p.job && u8At c.cpb 4 == p.cls && c.rerunA == p.rerun && mirrorParam x.medium x.param == mirrorParam x.medium p.param &&
      (if x.enc = true then (s.pkgOf x).pkgDigest == p.pkgDigest else (s.pkgOf x).modelDigest == p.modelDigest))) = true
    have digest := fits.digest
    split at digest <;> simp_all [fits.job, fits.cls, fits.rerun, fits.param]
  case admitted =>
    change ¬(p.refused || (!w.active && x.ran) || (s.slotOf w.stream).isSome || decide (s.pair.slots.length ≥ 1024) || false ||
      decide (s.pair.booked (!w.active) + (s.mirrorBooking c x).1 > 950)) = true
    have fresh : (!w.active && x.ran) = false := by
      rcases fits.fresh with h | h <;> simp [h]
    simp [fits.taken, fresh, fits.unmirrored, fits.slots, fits.booking]
  rfl

end

/-- Settles O57: a matched ATTACH by what both ends hold, each record by its operation at the end that its slot's role names. -/
theorem mirrorSlotCommandsComplete : Obligations.MirrorSlotCommandsComplete := by
  unfold Obligations.MirrorSlotCommandsComplete
  intro s serving
  refine ⟨fun p w x c t waits stream seat mirrors other => ?_,
    fun p w x c t waits stream seat mirrors job cls rerun param digest taken fresh unmirrored slots no_buffer booking => ?_,
    fun k => ⟨fun i rest x ready stream active agreed known mirrors delivered => ?_, fun standby known mirrors => ?_,
      fun number full i standby known mirrors => ⟨?_, ?_⟩, fun number e active sent => ⟨?_, fun thrice => ?_, fun again => ?_⟩,
      fun e sent active due => ?_, fun standby epoch => ?_, fun q switching active out => ?_, fun closed => ⟨fun standby => ?_, fun role => ?_⟩,
      fun standby => ?_⟩⟩
  · exact next_onDev (Dev.attachMatchOp_of_other_job waits stream seat serving mirrors other)
  · exact next_onDev (Dev.attachMatchOp_of_matches waits stream seat serving mirrors
      ⟨job, cls, rerun, param, digest, taken, fresh, unmirrored, slots, no_buffer, booking⟩)
  · refine next_serving serving ?_
    have not_standby : ((s.dev.slot k).role == Role.standby) = false := by rw [active]; rfl
    simp only [Dev.epochOpenOp, not_standby, Bool.false_eq_true, if_false,
      Dev.epochLeaves_of_delivered ready stream active agreed known mirrors delivered]
  · refine next_serving serving ?_
    simp only [Dev.epochOpenOp, standby, beq_self_eq_true, if_true, Dev.epochArrives_of_known known mirrors]
  · exact next_serving serving (Dev.epochCloseOp_eq standby known mirrors number.toNat full i true)
  · exact next_serving serving (Dev.epochCloseOp_eq standby known mirrors number.toNat full i false)
  · exact next_serving serving (Dev.epochAckOp_of_sent active sent true)
  · exact next_serving serving ((Dev.epochAckOp_of_sent active sent false).trans (if_pos thrice))
  · exact next_serving serving ((Dev.epochAckOp_of_sent active sent false).trans (if_neg (Nat.not_le_of_lt again)))
  · exact next_serving serving (Dev.abortOp_of_due sent active due)
  · exact next_serving serving (Dev.switchRecordOp_of_epoch standby epoch)
  · exact next_serving serving (Dev.switchAckOp_of_out switching active out)
  · refine next_serving serving ?_
    simp only [Dev.closingNoticeOp, standby]
  · exact next_serving serving (Dev.closingNoticeOp_of_active_or_held role closed)
  · refine next_serving serving ?_
    simp only [Dev.relinquishOp, standby, beq_self_eq_true, if_true]

end Sys2Proof.Machine
end

section
/-!
Completions of a function in D3hot (R408): they are decided, and held in their ring's queue.
-/
namespace Sys2Proof.Machine

theorem Dev.mayWrite_of_d3 {s : Dev} {f : Nat} {x : Fn} (here : s.host.fns.find f = some x) (d3 : x.d3 = true) : s.mayWrite f = false := by
  simp [Dev.mayWrite, here, d3]

/-- Nothing is written for a function that may not write. -/
theorem Dev.flush_of_not_mayWrite {s : Dev} {f : Nat} (held : s.mayWrite f = false) (c : Nat) : s.flush f c = s := by
  simp [Dev.flush, Dev.flushRing, held]

theorem Dev.setCring_d3 {s : Dev} {f : Nat} {x : Fn} (here : s.host.fns.find f = some x) (d3 : x.d3 = true) (c : Nat) (r : CRing) :
    ∃ y : Fn, (s.setCring f c r).host.fns.find f = some y ∧ y.d3 = true := by
  refine ⟨{ s.fn f with crings := (s.fn f).crings.put c r }, SMap.find_put_same _ _ _, ?_⟩
  simp [Dev.fn, SMap.get, here, d3]

/-- The completion that a descriptor's conclusion queues (R296). -/
def Dev.completionOf (s : Dev) (a : Acc) (status result flags : Nat) (hm : Option Bytes) : Cpl :=
  { tag := tagOf a.raw, result := result % 2 ^ 32, status := status, flags := s.cplFlags a flags hm, ring := a.ring
    index := a.index, time := s.sys.time, irqNow := bitAt (dflagsOf a.raw) 0, hallmark := hm }

/-- In D3hot a conclusion ends the descriptor's acceptance and queues its completion, and nothing more. -/
theorem Dev.conclude_of_d3 {s : Dev} {a : Acc} {x : Fn} (here : s.host.fns.find a.func = some x) (d3 : x.d3 = true) (status result flags : Nat)
    (hm : Option Bytes) :
    s.conclude a status result flags hm =
      (({ s with host := { s.host with accepted := s.host.accepted.filter fun b => b.seq != a.seq } } : Dev).setCring a.func a.cq
        { s.cring a.func a.cq with queue := (s.cring a.func a.cq).queue ++ [s.completionOf a status result flags hm] }).count (ev 14 5)
        (b2n (status == stLATE)) := by
  obtain ⟨y, still_here, still_d3⟩ :=
    Dev.setCring_d3 (s := { s with host := { s.host with accepted := s.host.accepted.filter fun b => b.seq != a.seq } }) here d3 a.cq
      { s.cring a.func a.cq with queue := (s.cring a.func a.cq).queue ++ [s.completionOf a status result flags hm] }
  exact congrArg (fun d : Dev => d.count (ev 14 5) (b2n (status == stLATE)))
    (Dev.flush_of_not_mayWrite (Dev.mayWrite_of_d3 still_here still_d3) a.cq)

/-- Settles O11: what the conclusion comes to in D3hot. -/
theorem d3hotHoldsCompletions : Obligations.D3hotHoldsCompletions := by
  unfold Obligations.D3hotHoldsCompletions
  intro s a status result flags hm x here d3
  rw [Dev.conclude_of_d3 here d3]
  refine ⟨by simp [Dev.setCring], ⟨s.completionOf a status result flags hm, by simp, rfl, rfl, rfl, rfl⟩, fun b accepted => ?_⟩
  rw [Dev.count_host] at accepted
  have kept : b ∈ s.host.accepted.filter fun b => b.seq != a.seq := accepted
  simpa using (List.mem_filter.mp kept).2

end Sys2Proof.Machine
end

section
/-!
Counters, dumps, captures, samples and the trace (R418 to R431), with the statement about them.
-/
namespace Sys2Proof.Machine

/-! What counting leaves alone of the instruments -/

theorem Inst.add_frame (i : Inst) (e n per : Nat) (selected : Bool) :
    ∃ (m : Nat) (u : Nat × Nat × Nat × Nat), i.add e n per selected =
      { i with cnt := i.cnt.put e (min (i.cnt.get e 0 + n) (2 ^ 48)), sampCount := m, sampAt := u } := by
  cases selected with
  | true => exact ⟨i.sampCount + n, _, rfl⟩
  | false => exact ⟨i.sampCount, i.sampAt, rfl⟩

/-- Counting changes counters, the count towards the next sample and the micro-instruction that it would name, and nothing else of the
instruments. -/
theorem Dev.count_inst (s : Dev) (e n : Nat) :
    ∃ (c : SMap Nat) (m : Nat) (u : Nat × Nat × Nat × Nat), (s.count e n).inst = { s.inst with cnt := c, sampCount := m, sampAt := u } := by
  unfold Dev.count
  split
  · exact ⟨_, _, _, rfl⟩
  · obtain ⟨m, u, h⟩ := s.inst.add_frame e n (s.regN (PMC + 0x34)) (bitAt (s.regN (PMC + 0x30)) 31 && bits (s.regN (PMC + 0x30)) 0 10 == e)
    exact ⟨_, m, u, h⟩

section
variable (s : Dev) (e n : Nat)

@[simp] theorem Dev.count_inst_trace : (s.count e n).inst.trace = s.inst.trace := by
  obtain ⟨c, m, u, h⟩ := s.count_inst e n; rw [h]
@[simp] theorem Dev.count_inst_seq : (s.count e n).inst.seq = s.inst.seq := by
  obtain ⟨c, m, u, h⟩ := s.count_inst e n; rw [h]
@[simp] theorem Dev.count_inst_dumped : (s.count e n).inst.dumped = s.inst.dumped := by
  obtain ⟨c, m, u, h⟩ := s.count_inst e n; rw [h]
@[simp] theorem Dev.count_inst_written : (s.count e n).inst.written = s.inst.written := by
  obtain ⟨c, m, u, h⟩ := s.count_inst e n; rw [h]
@[simp] theorem Dev.count_inst_sampTaken : (s.count e n).inst.sampTaken = s.inst.sampTaken := by
  obtain ⟨c, m, u, h⟩ := s.count_inst e n; rw [h]

theorem Dev.count_inst_cnt_same (k : Nat) (one : n ≠ 0) :
    (s.count e n).inst.cnt.get e k = min (s.inst.cnt.get e 0 + n) (2 ^ 48) := by
  simp only [Dev.count, beq_iff_eq, one, if_false, Inst.add_cnt]
  exact SMap.get_put_same _ _ _ _

theorem Dev.count_inst_cnt_other {f : Nat} (other : f ≠ e) (k : Nat) : (s.count e n).inst.cnt.get f k = s.inst.cnt.get f k := by
  unfold Dev.count
  split
  · rfl
  · rw [Inst.add_cnt, SMap.get_put_other _ _ _ _ _ other]

end

/-! Clearing and capturing -/

/-- Just after a clear every counter reads 0. -/
theorem Inst.counter_of_cleared (i : Inst) (time e : Nat) : ({ i with cnt := [], cleared := true, clearTime := time } : Inst).counter time e = 0 := by
  simp [Inst.counter, Inst.total, SMap.get, SMap.find, Nat.mod_one]

theorem State.regValue_pmcVal1 (s : State) : s.regValue (PMC + 0x2C) = s.dev.inst.capture := rfl

theorem State.regValue_glbTime1 (s : State) : s.regValue (GLB + 0x34) = s.dev.sys.timeCap / 2 ^ 32 := rfl

/-! Records of fixed length -/

@[simp] theorem length_slice (b : Bytes) (off n : Nat) : (slice b off n).length = n := by
  simp [slice]

theorem length_satMap (i : Inst) (time : Nat) : (satMap i time).length = 128 := by simp [satMap]

theorem length_flatMap_leBytes (n k : Nat) (f : Nat → Nat) : ((List.range n).flatMap fun j => leBytes k (f j)).length = n * k := by
  simp [List.length_flatMap]

theorem length_dumpRecord (i : Inst) (time interval dflags : Nat) : (dumpRecord i time interval dflags).length = 8448 := by
  have counters : ((List.range 1024).flatMap fun n => leBytes 8 (i.counter time n)).length = 8192 := length_flatMap_leBytes 1024 8 _
  simp only [dumpRecord, List.length_append, length_leBytes, length_satMap, counters, List.length_cons, List.length_nil]

theorem length_bytes (r : TRec) : r.bytes.length = 32 := by simp [TRec.bytes]

/-! Two writes to host memory: a record, then the counter that makes it visible -/

/-- The counter reads what was written last; the record too, where the two lie apart. -/
theorem Mem.record_then_counter {m : Mem} (wf : m.wf = true) (slot ptr v n : Nat) (b : Bytes) (length : b.length = n) :
    leNat (((m.writeN slot b).writeN ptr (leBytes 8 v)).readN ptr 8) = v % 2 ^ 64 ∧
      ((slot + n ≤ ptr ∨ ptr + 8 ≤ slot) → ((m.writeN slot b).writeN ptr (leBytes 8 v)).readN slot n = b) := by
  subst length
  constructor
  · have back := Mem.readN_writeN_same (m.writeN slot b) ptr (leBytes 8 v) (Mem.wf_writeN _ _ _ wf)
    rw [length_leBytes] at back
    rw [back, leNat_leBytes]
  · intro apart
    rw [Mem.readN_writeN_other _ _ _ _ _ (by rwa [length_leBytes]), Mem.readN_writeN_same _ _ _ wf]

/-! Dumps (R422 to R424) -/

@[simp] theorem Dev.regN_putHost (s : Dev) (a : Nat) (b : Bytes) (x : Nat) : (s.putHost a b).regN x = s.regN x := rfl

/-- The device as a dump captures it: with the dump's number, and no configuration error (R422, R424). -/
def Dev.dumping (s : Dev) : Dev := { s with inst := { s.inst with seq := (s.inst.seq + 1) % 2 ^ 32, cfgErr := false } }

/-- The record of a dump taken now, and its slot in the ring (R422, R423). -/
def Dev.dumpBytes (s : Dev) (hold now : Bool) : Bytes :=
  dumpRecord s.dumping.inst s.sys.time (s.regN (PMC + 0x0C)) (s.dumping.dumpFlags hold now)
def Dev.dumpSlot (s : Dev) : Nat := s.pmcRing + 8448 * (s.inst.dumped % 2 ^ s.regN (PMC + 0x18))

/-- A dump whose record and counter are both written (R422, R423). -/
theorem Dev.dump_of_written {s t u : Dev} {hold now : Bool} {cb : Bytes} (may : s.instMay = true) (host : bitAt (s.regN (PMC + 0x04)) 1 = false)
    (consumed : s.hostRead (s.pmcPtr + 8) 8 = some cb)
    (room : (s.inst.dumped + 2 ^ 64 - leNat cb) % 2 ^ 64 < 2 ^ s.regN (PMC + 0x18))
    (record : s.dumping.hostWrite s.dumpSlot (s.dumpBytes hold now) = some t)
    (counter : t.hostWrite t.pmcPtr (leBytes 8 (t.inst.dumped + 1)) = some u) :
    s.dump hold now =
      ({ u with inst := { u.inst with dumped := u.inst.dumped + 1, skipped := 0, first := false, cleared := false } } : Dev).afterCapture hold := by
  have regs (i : Inst) (a : Nat) : ({ s with inst := i } : Dev).regN a = s.regN a := rfl
  have ptr (i : Inst) : ({ s with inst := i } : Dev).pmcPtr = s.pmcPtr := rfl
  have ring (i : Inst) : ({ s with inst := i } : Dev).pmcRing = s.pmcRing := rfl
  have read (i : Inst) (a n : Nat) : ({ s with inst := i } : Dev).hostRead a n = s.hostRead a n := rfl
  have full : ¬ 2 ^ s.regN (PMC + 0x18) ≤ (s.inst.dumped + 2 ^ 64 - leNat cb) % 2 ^ 64 := by omega
  simp only [Dev.dumping, Dev.dumpSlot, Dev.dumpBytes] at record
  simp only [Dev.dump, may, regs, ptr, ring, host, Dev.instOk, Dev.readSpace, Dev.writeSpace, read, consumed, Bool.not_true, Bool.not_false,
    Bool.true_or, Bool.and_self, Bool.false_eq_true, if_false, ge_iff_le, full, record, counter]

/-- A record and then its counter go to host memory that answers: which memory they leave, and what of the instruments stays. -/
theorem Dev.record_then_written {d : Dev} (no_faults : d.sys.hostFaults = []) (slot : Nat) (b : Bytes) :
    ∃ t u : Dev, d.hostWrite slot b = some t ∧ t.hostWrite t.pmcPtr (leBytes 8 (t.inst.dumped + 1)) = some u ∧
      u.inst.seq = d.inst.seq ∧ u.inst.dumped = d.inst.dumped ∧ u.sys.time = d.sys.time ∧
      u.hmem = (d.hmem.writeN slot b).writeN d.pmcPtr (leBytes 8 (d.inst.dumped + 1)) := by
  refine ⟨_, _, d.hostWrite_some slot b no_faults, Dev.hostWrite_some _ _ _ (by rw [Dev.count_sys]; exact no_faults), ?_, ?_, ?_, ?_⟩
  · simp
  · simp
  · simp
  · have ptr : ((d.putHost slot b).count (ev 11 1) b.length).pmcPtr = d.pmcPtr := by simp only [Dev.pmcPtr, Dev.reg64, Dev.regN_count, Dev.regN_putHost]
    rw [ptr]
    simp [Dev.putHost]

/-- A dump into a ring in host memory that answers and has room (R423): the record, then WRITTEN. -/
theorem Dev.dump_of_room {s : Dev} (hold now : Bool) (may : s.instMay = true) (host : bitAt (s.regN (PMC + 0x04)) 1 = false)
    (no_faults : s.sys.hostFaults = [])
    (room : (s.inst.dumped + 2 ^ 64 - leNat (s.hmem.readN (s.pmcPtr + 8) 8)) % 2 ^ 64 < 2 ^ s.regN (PMC + 0x18)) :
    (s.dump hold now).inst.seq = (s.inst.seq + 1) % 2 ^ 32 ∧ (s.dump hold now).inst.dumped = s.inst.dumped + 1 ∧
      (s.dump hold now).inst.skipped = 0 ∧ (s.dump hold now).inst.lastDump = s.sys.time ∧
      (s.dump hold now).hmem = (s.hmem.writeN s.dumpSlot (s.dumpBytes hold now)).writeN s.pmcPtr (leBytes 8 (s.inst.dumped + 1)) := by
  obtain ⟨t, u, record, counter, seq, dumped, time, hmem⟩ := s.dumping.record_then_written no_faults s.dumpSlot (s.dumpBytes hold now)
  rw [Dev.dump_of_written may host (s.hostRead_some _ _ no_faults) room record counter]
  exact ⟨seq, congrArg (· + 1) dumped, rfl, time, hmem⟩

/-! Samples and the trace (R425 to R428) -/

theorem Dev.trace_of_traceOn {s : Dev} {t : Nat} {p : Option Nat} (on : s.traceOn t p = true) (domain source : Nat) (payload : Bytes) :
    s.trace t domain source p payload =
      { s with inst := { s.inst with trace := s.inst.trace ++ [⟨s.sys.time, t, domain, source, payload⟩] } } := by
  simp [Dev.trace, on]

/-- SAMPLE records are always on (R425). -/
theorem Dev.traceOn_sample (s : Dev) : s.traceOn 6 none = true := by simp [Dev.traceOn, alwaysOn]

/-- What an interrupt leaves alone of what a sample writes, and of the device's work. -/
structure Dev.SameSample (s t : Dev) : Prop where
  taken : t.inst.sampTaken = s.inst.sampTaken
  trace : t.inst.trace = s.inst.trace
  drops : t.regN (TRC + 0x24) = s.regN (TRC + 0x24)
  lost : t.inst.cnt.get (ev 15 5) 0 = s.inst.cnt.get (ev 15 5) 0
  work : t.hmem = s.hmem ∧ t.dmem = s.dmem ∧ t.media = s.media ∧ t.units = s.units ∧ t.sys = s.sys

theorem Dev.sameSample_trigger (s : Dev) (f v : Nat) : s.SameSample (s.trigger f v) := by
  have drops : (s.trigger f v).regN (TRC + 0x24) = s.regN (TRC + 0x24) := Dev.regN_eq_of_reg (s.reg_trigger_of_lt f v (by decide))
  have work : (s.trigger f v).hmem = s.hmem ∧ (s.trigger f v).dmem = s.dmem ∧ (s.trigger f v).media = s.media ∧
      (s.trigger f v).units = s.units ∧ (s.trigger f v).sys = s.sys := by simp
  suffices inst : (s.trigger f v).inst.sampTaken = s.inst.sampTaken ∧ (s.trigger f v).inst.trace = s.inst.trace ∧
      (s.trigger f v).inst.cnt.get (ev 15 5) 0 = s.inst.cnt.get (ev 15 5) 0 from ⟨inst.1, inst.2.1, drops, inst.2.2, work⟩
  unfold Dev.trigger
  split
  · exact ⟨rfl, rfl, rfl⟩
  · split
    · rw [Dev.msi]
      exact ⟨Dev.count_inst_sampTaken _ _ _, Dev.count_inst_trace _ _ _, Dev.count_inst_cnt_other _ _ _ (by decide) _⟩
    · exact ⟨rfl, rfl, rfl⟩

/-- The device once a sample is taken, but for its interrupt (R425, R426): the multiples passed are taken, all but one of them lost. -/
def Dev.sampled (s : Dev) (due e : Nat) : Dev :=
  let lost := due - s.inst.sampTaken - 1
  let a := s.inst.sampAt
  let tile := decide (e / 64 < 8)
  let d := (({ s with inst := { s.inst with sampTaken := due } } : Dev).count (ev 15 5) lost).setRegN (TRC + 0x24)
    (min (s.regN (TRC + 0x24) + lost) 0xFFFFFFFF)
  d.trace 6 (classDomain (e / 64)) (if tile = true then a.1 else 0) none
    (leBytes 2 e ++ leBytes 1 (if tile = true then a.2.1 else 0xFF) ++ leBytes 1 0 ++ leBytes 2 (if tile = true then a.2.2.1 else 0) ++
      leBytes 2 (if tile = true then a.2.2.2 else 0))

theorem Dev.sampleOp_of_due {s : Dev} {e : Nat} (clocked : s.clocked = true) (enabled : bitAt (s.regN (PMC + 0x30)) 31 = true)
    (selected : bits (s.regN (PMC + 0x30)) 0 10 = e) (due : s.inst.sampTaken < s.inst.sampCount / s.regN (PMC + 0x34)) :
    (s.sampled (s.inst.sampCount / s.regN (PMC + 0x34)) e).SameSample (s.sampleOp e) := by
  simp only [Dev.sampleOp, clocked, enabled, selected, due, beq_self_eq_true, decide_true, Bool.and_self, if_true]
  split
  · exact Dev.sameSample_trigger _ _ _
  · exact ⟨rfl, rfl, rfl, rfl, rfl, rfl, rfl, rfl, rfl⟩

/-- The loss counter after a sample: unchanged where none is lost, saturating at 2^48. -/
theorem Dev.sampled_lost (s : Dev) (due e : Nat) :
    (s.sampled due e).inst.cnt.get (ev 15 5) 0 =
      if due - s.inst.sampTaken - 1 = 0 then s.inst.cnt.get (ev 15 5) 0
      else min (s.inst.cnt.get (ev 15 5) 0 + (due - s.inst.sampTaken - 1)) (2 ^ 48) := by
  rw [Dev.sampled, Dev.trace_of_traceOn (Dev.traceOn_sample _)]
  simp only [Dev.setRegN_inst]
  by_cases none_lost : due - s.inst.sampTaken - 1 = 0
  · simp [none_lost, Dev.count]
  · rw [if_neg none_lost, Dev.count_inst_cnt_same _ _ _ _ none_lost]

theorem Dev.sampled_drops (s : Dev) (due e : Nat) :
    (s.sampled due e).regN (TRC + 0x24) = min (s.regN (TRC + 0x24) + (due - s.inst.sampTaken - 1)) 0xFFFFFFFF := by
  rw [Dev.sampled, Dev.trace_of_traceOn (Dev.traceOn_sample _)]
  refine (Dev.regN_setRegN_same _ _ _).trans (Nat.mod_eq_of_lt ?_)
  omega

theorem Dev.sampled_inst (s : Dev) (due e : Nat) :
    (s.sampled due e).inst.sampTaken = due ∧
      (s.sampled due e).inst.trace = s.inst.trace ++
        [⟨s.sys.time, 6, classDomain (e / 64), if decide (e / 64 < 8) = true then s.inst.sampAt.1 else 0,
          leBytes 2 e ++ leBytes 1 (if decide (e / 64 < 8) = true then s.inst.sampAt.2.1 else 0xFF) ++ leBytes 1 0 ++
            leBytes 2 (if decide (e / 64 < 8) = true then s.inst.sampAt.2.2.1 else 0) ++
            leBytes 2 (if decide (e / 64 < 8) = true then s.inst.sampAt.2.2.2 else 0)⟩] := by
  rw [Dev.sampled, Dev.trace_of_traceOn (Dev.traceOn_sample _)]
  simp only [Dev.setRegN_inst, Dev.setRegN_sys, Dev.count_inst_sampTaken, Dev.count_inst_trace, Dev.count_sys, and_self]

theorem Dev.sampled_work (s : Dev) (due e : Nat) :
    (s.sampled due e).hmem = s.hmem ∧ (s.sampled due e).dmem = s.dmem ∧ (s.sampled due e).media = s.media ∧
      (s.sampled due e).units = s.units ∧ (s.sampled due e).sys = s.sys := by
  simp [Dev.sampled]

/-- A trace record into a ring in host memory that answers and has room (R423, R428): the record, then its counter. -/
theorem Dev.putTrace_of_room {s : Dev} (b : Bytes) (host : bitAt (s.regN TRC) 1 = false) (no_faults : s.sys.hostFaults = [])
    (room : (s.inst.written + 2 ^ 64 - leNat (s.hmem.readN (s.reg64 (TRC + 0x18) (TRC + 0x1C) + 8) 8)) % 2 ^ 64 < 2 ^ s.regN (TRC + 0x14)) :
    ∃ t : Dev, s.putTrace b = some t ∧ t.inst.trace = s.inst.trace ∧ t.inst.written = s.inst.written + 1 ∧
      t.hmem = (s.hmem.writeN (s.reg64 (TRC + 0x0C) (TRC + 0x10) + 32 * (s.inst.written % 2 ^ s.regN (TRC + 0x14))) b).writeN
        (s.reg64 (TRC + 0x18) (TRC + 0x1C)) (leBytes 8 (s.inst.written + 1)) := by
  have full : ¬ 2 ^ s.regN (TRC + 0x14) ≤ (s.inst.written + 2 ^ 64 - leNat (s.hmem.readN (s.reg64 (TRC + 0x18) (TRC + 0x1C) + 8) 8)) % 2 ^ 64 := by
    omega
  simp only [Dev.putTrace, host, Dev.instOk, Dev.readSpace, Dev.writeSpace, Dev.hostRead_some, Dev.hostWrite_some, no_faults,
    Dev.count_sys, Dev.putHost_sys, Bool.not_true, Bool.not_false, Bool.true_or, Bool.and_self, Bool.false_eq_true, if_false, ge_iff_le, full,
    Dev.count_inst_written, Dev.putHost_inst, Option.map_some]
  exact ⟨_, rfl, by simp, by simp, by simp [Dev.putHost]⟩

/-- The record whose hold has ended goes to the ring, where no loss stands before it (R428). -/
theorem Dev.traceWriteOp_of_due {s t : Dev} {r : TRec} (first : firstTrace s.inst.trace = some r) (may : s.instMay = true)
    (late : r.time + 2400 ≤ s.sys.time) (none_lost : (s.inst.dropped == 0) = true)
    (written : ({ s with inst := { s.inst with trace := s.inst.trace.erase r } } : Dev).putTrace r.bytes = some t) : s.traceWriteOp = t := by
  have not_early : ¬ s.sys.time < r.time + 2400 := by omega
  simp only [Dev.traceWriteOp, first, may, usTicks, Nat.reduceMul, not_early, none_lost, Bool.not_true, decide_false, Bool.or_self,
    Bool.false_eq_true, if_false, if_true, written, Option.getD_some]

/-- What stands in the queue, the count and host memory once a due record is in a ring that answers and has room (R423, R428). -/
theorem Dev.traceWriteOp_of_room {s : Dev} {r : TRec} {ptr slot : Nat} (first : firstTrace s.inst.trace = some r) (may : s.instMay = true)
    (late : r.time + 2400 ≤ s.sys.time) (none_lost : s.inst.dropped = 0) (host : bitAt (s.regN TRC) 1 = false) (no_faults : s.sys.hostFaults = [])
    (at_ptr : s.reg64 (TRC + 0x18) (TRC + 0x1C) = ptr)
    (at_slot : s.reg64 (TRC + 0x0C) (TRC + 0x10) + 32 * (s.inst.written % 2 ^ s.regN (TRC + 0x14)) = slot)
    (room : (s.inst.written + 2 ^ 64 - leNat (s.hmem.readN (ptr + 8) 8)) % 2 ^ 64 < 2 ^ s.regN (TRC + 0x14)) :
    s.traceWriteOp.inst.trace = s.inst.trace.erase r ∧ s.traceWriteOp.inst.written = s.inst.written + 1 ∧
      s.traceWriteOp.hmem = (s.hmem.writeN slot r.bytes).writeN ptr (leBytes 8 (s.inst.written + 1)) := by
  subst at_ptr at_slot
  obtain ⟨t, put, trace, written, hmem⟩ :=
    Dev.putTrace_of_room (s := { s with inst := { s.inst with trace := s.inst.trace.erase r } }) r.bytes host no_faults room
  rw [Dev.traceWriteOp_of_due first may late (by simp [none_lost]) put]
  exact ⟨trace, written, hmem⟩

/-! Captures (R433, R435) -/

theorem exec_pmcValCapture_of_served {s : State} {size : Fin 9}
    (served : s.dev.serving = true ∨ s.dev.sys.mode = .quiesced ∨ s.dev.sys.mode = .failStop) (ok : sizeOk size = true) :
    exec (.pmcValCapture size) s =
      .next { s with
        dev :=
          let e := bits (s.dev.regN (PMC + 0x24)) 0 10
          let v := s.dev.inst.counter s.dev.sys.time e
          let hi := v / 2 ^ 32 + 2 ^ 16 * b2n (s.dev.inst.sat s.dev.sys.time e)
          { s.dev with sys := { s.dev.sys with busData := pairRead size (v % 2 ^ 32) hi }, inst := { s.dev.inst with capture := hi } } } := by
  rcases served with serving | quiesced | failed
  · simp [exec, execPmcValCapture, State.onDev, serving, ok]
  · simp [exec, execPmcValCapture, State.onDev, quiesced, ok]
  · simp [exec, execPmcValCapture, State.onDev, failed, ok]

theorem exec_glbTimeCapture_of_clocked {s : State} {size : Fin 9} (clocked : s.dev.clocked = true) (ok : sizeOk size = true) :
    exec (.glbTimeCapture size) s =
      .next { s with
        dev := { s.dev with
          sys := { s.dev.sys with
            busData := pairRead size (s.dev.sys.time % 2 ^ 32) (s.dev.sys.time / 2 ^ 32), timeCap := s.dev.sys.time } } } := by
  simp [exec, execGlbTimeCapture, State.onDev, clocked, ok]

/-- Settles O39: a clear by its definition, dumps and records by what stands in memory once both writes are made, captures by the registers' reads, a
sample by what its interrupt leaves alone. -/
theorem instrumentCommandsComplete : Obligations.InstrumentCommandsComplete := by
  unfold Obligations.InstrumentCommandsComplete
  refine ⟨fun s served => ⟨?_, fun e => Inst.counter_of_cleared _ _ e⟩, fun s off => ⟨?_, ?_⟩, fun s now on due => ?_, fun s size served ok => ?_,
    fun s size clocked ok => ?_, fun s w served on marks => ?_, fun s e clocked enabled selected due => ?_, fun s r first may late none_lost host no_faults wf => ?_⟩
  · rcases served with serving | quiesced
    · simp [exec, execClear, State.onDev, Dev.clearCounters, State.disarm, serving]
    · simp [exec, execClear, State.onDev, Dev.clearCounters, State.disarm, quiesced]
  · simp [exec, execDumpNow, State.dumpNow, off, State.disarm]
  · simp [exec, execDump, off]
  · refine ⟨s.dev.dump s.clk.holdover now, ?_, fun may_not => ?_, fun may host no_faults wf room => ?_⟩
    · cases now with
      | true => simp [exec, execDumpNow, State.dumpNow, on, State.onDev, State.disarm]
      | false => simp [exec, execDump, on, due, usTicks, State.onDev]
    · simp [Dev.dump, may_not]
    · obtain ⟨seq, dumped, skipped, last, hmem⟩ := Dev.dump_of_room s.clk.holdover now may host no_faults room
      obtain ⟨reads, shows⟩ := Mem.record_then_counter wf s.dev.dumpSlot s.dev.pmcPtr (s.dev.inst.dumped + 1) 8448
        (s.dev.dumpBytes s.clk.holdover now) (length_dumpRecord _ _ _ _)
      rw [← hmem] at reads shows
      unfold Dev.dumpSlot Dev.dumpBytes Dev.dumping at shows
      exact ⟨seq, dumped, skipped, last, reads, shows⟩
  · have captured := exec_pmcValCapture_of_served served ok
    exact ⟨captured, fun t ends => by rw [captured] at ends; cases ends; exact State.regValue_pmcVal1 _⟩
  · have captured := exec_glbTimeCapture_of_clocked clocked ok
    exact ⟨captured, fun t ends => by rw [captured] at ends; cases ends; exact State.regValue_glbTime1 _⟩
  · have traced : s.dev.traceOn 13 none = true := by simp [Dev.traceOn, on, marks]
    rcases served with serving | quiesced
    · simp [exec, execMark, State.onDev, State.disarm, Dev.markOp, serving, on, Dev.trace_of_traceOn traced]
    · simp [exec, execMark, State.onDev, State.disarm, Dev.markOp, quiesced, on, Dev.trace_of_traceOn traced]
  · have same := Dev.sampleOp_of_due clocked enabled selected due
    obtain ⟨taken, trace⟩ := s.dev.sampled_inst (s.dev.inst.sampCount / s.dev.regN (PMC + 0x34)) e
    obtain ⟨hmem, dmem, media, units, sys⟩ := s.dev.sampled_work (s.dev.inst.sampCount / s.dev.regN (PMC + 0x34)) e
    obtain ⟨hmem', dmem', media', units', sys'⟩ := same.work
    exact ⟨_, rfl, ⟨rfl, rfl, rfl, rfl⟩, same.taken.trans taken, same.drops.trans (s.dev.sampled_drops _ _), same.lost.trans (s.dev.sampled_lost _ _),
      same.trace.trans trace, hmem'.trans hmem, dmem'.trans dmem, media'.trans media, units'.trans units, sys'.trans sys⟩
  · intro ptr slot room
    obtain ⟨trace, written, hmem⟩ := Dev.traceWriteOp_of_room first may late none_lost host no_faults rfl rfl room
    obtain ⟨reads, shows⟩ := Mem.record_then_counter wf slot ptr (s.dev.inst.written + 1) 32 _ (length_bytes r)
    rw [← hmem] at reads shows
    exact ⟨{ s with dev := s.dev.traceWriteOp }, rfl, ⟨rfl, rfl, rfl, rfl⟩, trace, written, reads, shows⟩

end Sys2Proof.Machine
end

section
/-!
Register writes and windows (R433, R437), with the statements about them.
-/
namespace Sys2Proof.Machine

/-! The bits that an access enables -/

theorem testBit_laneMask (b n i : Nat) : (laneMask b n).testBit i = decide (i < 32 ∧ 8 * b ≤ i ∧ i < 8 * b + 8 * n) := by
  simp only [laneMask, Nat.testBit_mod_two_pow, Nat.testBit_mul_two_pow, Nat.testBit_two_pow_sub_one, Bool.decide_and]
  by_cases reached : 8 * b ≤ i
  · have shift : i - 8 * b < 8 * n ↔ i < 8 * b + 8 * n := by omega
    simp [reached, shift]
  · simp [reached]

theorem testBit_mergeBits (old v en i : Nat) :
    (mergeBits old v en).testBit i = ((decide (i < 32) ^^ en.testBit i) && old.testBit i || v.testBit i && en.testBit i) := by
  have ones : (0xFFFFFFFF : Nat).testBit i = decide (i < 32) := Nat.testBit_two_pow_sub_one 32 i
  simp only [mergeBits, Nat.testBit_or, Nat.testBit_and, Nat.testBit_xor, ones, Bool.and_comm]

theorem testBit_byte (x k i : Nat) : (x / 256 ^ k % 256).testBit i = (decide (i < 8) && x.testBit (8 * k + i)) := by
  rw [show (256 : Nat) ^ k = 2 ^ (8 * k) from (Nat.pow_mul 2 8 k).symm, show (256 : Nat) = 2 ^ 8 by rfl, Nat.testBit_mod_two_pow,
    Nat.testBit_div_two_pow, Nat.add_comm]

/-- A byte that an aligned access covers takes its byte of the value (R433). -/
theorem byte_mergeBits_in {old v b n k : Nat} (fits : b + n ≤ 4) (inside : b ≤ k ∧ k < b + n) :
    mergeBits old (v % 2 ^ (8 * n) * 2 ^ (8 * b) % 2 ^ 32) (laneMask b n &&& 0xFFFFFFFF) % 2 ^ 32 / 256 ^ k % 256 = v / 256 ^ (k - b) % 256 := by
  have ones (i : Nat) : (0xFFFFFFFF : Nat).testBit i = decide (i < 32) := Nat.testBit_two_pow_sub_one 32 i
  refine Nat.eq_of_testBit_eq fun i => ?_
  rw [testBit_byte, testBit_byte]
  by_cases small : i < 8
  · have low : 8 * k + i < 32 := by omega
    have reached : 8 * b ≤ 8 * k + i := by omega
    have covered : 8 * k + i < 8 * b + 8 * n := by omega
    have shift : 8 * k + i - 8 * b = 8 * (k - b) + i := by omega
    have taken : 8 * (k - b) + i < 8 * n := by omega
    simp [-Nat.reducePow, testBit_mergeBits, testBit_laneMask, Nat.testBit_mod_two_pow, Nat.testBit_mul_two_pow, ones, low, reached, covered, shift, taken, small]
  · simp only [small, decide_false, Bool.false_and]

/-- A byte that an access does not cover stays (R433). -/
theorem byte_mergeBits_out {old w b n k : Nat} (low : k < 4) (outside : ¬(b ≤ k ∧ k < b + n)) :
    mergeBits old w (laneMask b n &&& 0xFFFFFFFF) % 2 ^ 32 / 256 ^ k % 256 = old / 256 ^ k % 256 := by
  have ones (i : Nat) : (0xFFFFFFFF : Nat).testBit i = decide (i < 32) := Nat.testBit_two_pow_sub_one 32 i
  refine Nat.eq_of_testBit_eq fun i => ?_
  rw [testBit_byte, testBit_byte]
  by_cases small : i < 8
  · have bit : 8 * k + i < 32 := by omega
    have uncovered : ¬(8 * b ≤ 8 * k + i ∧ 8 * k + i < 8 * b + 8 * n) := by omega
    simp [-Nat.reducePow, testBit_mergeBits, ones, testBit_laneMask, Nat.testBit_mod_two_pow, bit, uncovered, small]
  · simp only [small, decide_false, Bool.false_and]

/-! An access that acts -/

theorem sizeOk_iff (n : Nat) : sizeOk n = true ↔ n = 1 ∨ n = 2 ∨ n = 4 ∨ n = 8 := by simp [sizeOk, or_assoc]

theorem accessOk_iff (off n : Nat) : accessOk off n = true ↔ (n = 1 ∨ n = 2 ∨ n = 4 ∨ n = 8) ∧ off % n = 0 := by
  rw [accessOk, Bool.and_eq_true, sizeOk_iff, beq_iff_eq]

theorem exec_registerWrite_bar0 (s : State) (f : Fin 64) (off : BitVec 24) (size : Fin 9) (v : BitVec 64) :
    exec (.registerWrite f .bar0 off size v) s =
      .next (if accessOk off.toNat size = true then s.writeRegs f .bar0 off.toNat size v.toNat else s) := by
  simp only [exec, execRegisterWrite]
  cases accessOk off.toNat size <;> rfl

/-- The scratch register has no rule of its own (R438). -/
theorem State.rwWrite_scratch (s : State) (v : Nat) : s.rwWrite 0x40 v = { s with dev := s.dev.setRegN 0x40 v } := rfl

theorem State.writeWithin_scratch {s : State} (served : s.dev.regServed 0 .bar0 0 = true) (b n v : Nat) (low : b < 4) :
    s.writeWithin 0 .bar0 (0x40 + b) n v =
      { s.disarm with
        dev := s.dev.setRegN 0x40 (mergeBits (s.dev.regN 0x40) (v * 2 ^ (8 * b) % 2 ^ 32) (laneMask b n &&& 0xFFFFFFFF)) } := by
  have lane : (0x40 + b) % 4 = b := by omega
  have word : (0x40 + b) / 4 * 4 = 0x40 := by omega
  have spec : regSpec 0x40 = some ⟨.rw, 0xFFFFFFFF, 0⟩ := rfl
  have addr : regAddrOf 0 .bar0 0x40 = some 0x40 := rfl
  have disarm : s.disarmFor 0x40 = s.disarm := rfl
  simp only [State.writeWithin, lane, word, addr, spec, disarm, State.disarm_dev, Nat.reduceDiv, served, if_true]
  exact State.rwWrite_scratch _ _

theorem Dev.setRegN_mod (s : Dev) (a v : Nat) : s.setRegN a (v % 2 ^ 32) = s.setRegN a v :=
  congrArg (s.setReg a) (BitVec.eq_of_toNat_eq (by simp [w32]))

theorem State.regN_scratch (s : State) (d : Dev) (v : Nat) : ({ s with dev := d.setRegN 0x40 v } : State).dev.regN 0x40 = v % 2 ^ 32 :=
  Dev.regN_setRegN_same d 0x40 v

/-- Settles O41: bit by bit, with the lanes that the access enables. -/
theorem registerWritesMergeTheirBytes : Obligations.RegisterWritesMergeTheirBytes := by
  unfold Obligations.RegisterWritesMergeTheirBytes
  refine ⟨fun s b n off size v served sizes is_n at_off low aligned => ?_, fun s f space off size v bad => ?_⟩
  · have fits : b + n ≤ 4 := by rcases sizes with rfl | rfl | rfl <;> omega
    have ok : accessOk off.toNat size = true := by
      rw [accessOk_iff, is_n, at_off]
      rcases sizes with rfl | rfl | rfl <;> omega
    have narrow : (n == 8) = false := by simp; omega
    have write := exec_registerWrite_bar0 s 0 off size v
    rw [if_pos ok, State.writeRegs, is_n, narrow, if_neg Bool.false_ne_true, at_off] at write
    refine ⟨_, write.trans (congrArg _ (State.writeWithin_scratch served b n _ low)), ?_, fun k k_low => ?_⟩
    · rw [State.regN_scratch, Dev.setRegN_mod]
      rfl
    · rw [State.regN_scratch]
      split
      · exact byte_mergeBits_in fits ‹_›
      · exact byte_mergeBits_out k_low ‹_›
  · have not_ok : accessOk off.toNat size = false := by
      rw [← Bool.not_eq_true, accessOk_iff]
      rintro ⟨sizes, aligned⟩
      exact bad.elim (· sizes) (· aligned)
    simp [exec, execRegisterWrite, not_ok]

/-! Windows (R437) -/

theorem Dev.exists_zero (s : Dev) : s.exists 0 = true := rfl

theorem regAddrOf_of_ne_zero {f : Nat} (virtual : f ≠ 0) (off : Nat) :
    regAddrOf f .bar0 off = if off < 0x200 then some (WINF f + off) else none := by
  simp [regAddrOf, virtual]

/-- The physical function writes no other function's window through BAR0. -/
theorem regAddrOf_zero_of_window {off : Nat} (lo : RNG + 0x200 ≤ off) (hi : off < RNG + 0x8000) : regAddrOf 0 .bar0 off = none := by
  simp [regAddrOf, lo, hi]

theorem State.writeWithin_of_none {s : State} {f off n v : Nat} {space : RegSpace} (none : regAddrOf f space (off / 4 * 4) = none) :
    s.writeWithin f space off n v = s.disarm := by
  simp only [State.writeWithin, none]

/-- A whole access whose registers are none of the function's ends an arming and does nothing more. -/
theorem State.writeRegs_of_none {s : State} {f off n v : Nat} {space : RegSpace} (aligned : accessOk off n = true)
    (unmapped : ∀ k, k < n → regAddrOf f space ((off + k) / 4 * 4) = none) : s.writeRegs f space off n v = s.disarm := by
  obtain ⟨sizes, -⟩ := (accessOk_iff _ _).1 aligned
  have first : regAddrOf f space (off / 4 * 4) = none := unmapped 0 (by omega)
  rw [State.writeRegs]
  split
  · next eight =>
    rw [State.writeWithin_of_none first, State.writeWithin_of_none (unmapped 4 (by simp at eight; omega))]
    rfl
  · exact State.writeWithin_of_none first

theorem exec_registerWrite_of_none {s : State} {f : Fin 64} {off : BitVec 24} {size : Fin 9} {v : BitVec 64}
    (unmapped : ∀ k, k < size.val → accessOk off.toNat size = true → regAddrOf f .bar0 ((off.toNat + k) / 4 * 4) = none) :
    ∃ t : State, exec (.registerWrite f .bar0 off size v) s = .next t ∧ t = { s with fuses := t.fuses } := by
  refine ⟨_, exec_registerWrite_bar0 s f off size v, ?_⟩
  split
  · next ok =>
    rw [State.writeRegs_of_none ok fun k small => unmapped k small ok]
    rfl
  · rfl

/-- The access codes in a function's window (R308): the one write-only register is LOAD. -/
theorem winSpec_access {o f : Nat} {r : RegSpec} (spec : winSpec o f = some r) :
    r.access = .ro ∨ r.access = .rw ∨ r.access = .w1c ∨ r.access = .wo ∧ o = 8 := by
  unfold winSpec at spec
  split at spec <;> cases spec <;> simp

theorem Dev.reg_rngWrite_other (s : Dev) {a b : Nat} (v : Nat) (other : b ≠ a) : (s.rngWrite a v).reg b = s.reg b := by
  have store (x : Nat) : (s.setRegN a x).reg b = s.reg b := Dev.reg_setRegN_other s x other
  unfold Dev.rngWrite Dev.storeUnless
  dsimp only
  split
  · split
    · rfl
    · exact store _
  · split
    · exact store _
    · split
      · rfl
      · exact store _

/-- An access that is not at a register's first byte does not enable its bit 0. -/
theorem bitAt_zero_of_lane (v n : Nat) {b : Nat} (later : b ≠ 0) : bitAt (v &&& laneMask b n) 0 = false := by
  have lane : (laneMask b n).testBit 0 = false := by
    rw [testBit_laneMask]
    exact decide_eq_false (by omega)
  rw [bitAt_eq_testBit, Nat.testBit_and, lane, Bool.and_false]

/-- What a write of a register in a function's window changes of the registers: that one, where it is not LOAD. -/
theorem State.regWrite_window {s : State} {f o a : Nat} {r : RegSpec} (v en : Nat) (low : f < 64) (inside : o < 0x200)
    (spec : winSpec o f = some r) (not_load : o = 8 → bitAt (v &&& en) 0 = false) (other : a ≠ WINF f + o) :
    (s.regWrite (WINF f + o) v en r).dev.reg a = s.dev.reg a := by
  have block : (WINF f + o) / 0x10000 = 5 := by unfold WINF RNG; omega
  have apart (x : Nat) (far : x / 0x10000 ≠ 5) : (WINF f + o == x) = false := by
    rw [beq_eq_false_iff_ne]
    rintro rfl
    exact far block
  have not_keys : (decide (ADM + 0x810 ≤ WINF f + o) && decide (WINF f + o < ADM + 0x870)) = false := by
    unfold ADM WINF RNG
    simp
    omega
  unfold State.regWrite
  rcases winSpec_access spec with ro | rw | w1c | ⟨wo, rfl⟩
  · simp [ro]
  · simp only [rw, apart (CAL + 0x08) (by decide), apart (ADM + 0x800) (by decide), not_keys, Bool.false_eq_true, if_false, State.rwWrite,
      apart (CLK + 0x08) (by decide), apart PWR (by decide), apart (PWR + 0x08) (by decide), block, beq_self_eq_true, if_true, State.onDev]
    exact Dev.reg_rngWrite_other _ _ other
  · simp only [w1c, State.w1cWrite, apart (ADM + 0x20) (by decide), Bool.false_eq_true, if_false, State.onDev]
    exact Dev.reg_setRegN_other _ _ other
  · simp only [wo, State.woWrite, apart (PWR + 0x18) (by decide), apart (PWR + 0x10C) (by decide), Bool.false_eq_true, if_false, block,
      beq_self_eq_true, if_true, State.cmdBit, not_load rfl]

theorem State.disarmFor_dev (s : State) (a : Nat) : (s.disarmFor a).dev = s.dev := by
  unfold State.disarmFor
  split <;> rfl

/-- A virtual function's access other than to LOAD changes no register outside its window (R437). -/
theorem State.writeWithin_window {s : State} {f off a : Nat} (n v : Nat) (low : f < 64) (virtual : f ≠ 0) (not_load : off ≠ 8)
    (outside : a < WINF f ∨ WINF f + 0x200 ≤ a) : (s.writeWithin f .bar0 off n v).dev.reg a = s.dev.reg a := by
  unfold State.writeWithin
  rw [regAddrOf_of_ne_zero virtual]
  by_cases inside : off / 4 * 4 < 0x200
  · have other : a ≠ WINF f + off / 4 * 4 := by omega
    have not_err : (decide (ERR ≤ WINF f + off / 4 * 4) && decide (WINF f + off / 4 * 4 < ERR + 0x10)) = false := by
      unfold ERR WINF RNG
      simp
      omega
    have spec : regSpec (WINF f + off / 4 * 4) = winSpec (off / 4 * 4) f := by
      have offset : WINF f + off / 4 * 4 - RNG = f * 0x200 + off / 4 * 4 := by unfold WINF; omega
      have below : ¬ WINF f + off / 4 * 4 ≥ MSI 0 := by unfold WINF RNG MSI; omega
      have block : (WINF f + off / 4 * 4) / 0x10000 = 5 := by unfold WINF RNG; omega
      have windows : f * 0x200 + off / 4 * 4 < 0x8000 := by omega
      rw [regSpec, if_neg below, if_pos block, offset, if_pos windows, show (f * 0x200 + off / 4 * 4) % 0x200 = off / 4 * 4 by omega,
        show (f * 0x200 + off / 4 * 4) / 0x200 = f by omega]
    simp only [if_pos inside, not_err, Bool.false_eq_true, if_false, spec]
    split
    · exact congrArg (fun d : Dev => d.reg a) (State.disarmFor_dev _ _)
    · next r found =>
      split
      · refine (State.regWrite_window _ _ low inside found (fun load => ?_) other).trans (congrArg (fun d : Dev => d.reg a) (State.disarmFor_dev _ _))
        exact bitAt_zero_of_lane _ _ (by omega)
      · exact congrArg (fun d : Dev => d.reg a) (State.disarmFor_dev _ _)
  · simp only [if_neg inside, State.disarm_dev]

/-- Settles O42: reads and writes by the register that an offset names; a write in a virtual function's window by the access code of its register. -/
theorem functionsUseTheirOwnWindows : Obligations.FunctionsUseTheirOwnWindows := by
  unfold Obligations.FunctionsUseTheirOwnWindows
  refine ⟨fun s f o clocked not_boot inside => ⟨fun d0 => ?_, fun virtual found not_d3 => ?_⟩, fun s f o clocked virtual found not_d3 above => ?_,
    fun s off size v lo hi => ?_, fun s f off size v virtual above => ?_, fun s f off size v a virtual not_load outside => ?_⟩
  · simp [State.readReg, clocked, not_boot, d0, Dev.exists_zero, WINF]
  · simp [State.readReg, clocked, not_boot, found, not_d3, virtual, regAddrOf_of_ne_zero virtual, inside]
  · simp [State.readReg, clocked, found, not_d3, virtual, regAddrOf_of_ne_zero virtual, Nat.not_lt.2 above]
  · refine exec_registerWrite_of_none fun k small ok => regAddrOf_zero_of_window ?_ ?_
    · unfold RNG at *; omega
    · unfold RNG at *
      obtain ⟨one | two | four | eight, aligned⟩ := (accessOk_iff _ _).1 ok <;> simp only [*] at aligned small <;> omega
  · refine exec_registerWrite_of_none fun k small ok => ?_
    rw [regAddrOf_of_ne_zero virtual, if_neg (by omega)]
  · refine ⟨_, exec_registerWrite_bar0 s f off size v, ?_⟩
    split
    · next ok =>
      obtain ⟨sizes, aligned⟩ := (accessOk_iff _ _).1 ok
      rw [State.writeRegs]
      split
      · next eight =>
        rw [beq_iff_eq] at eight
        rw [State.writeWithin_window _ _ f.isLt virtual (by rw [eight] at aligned; omega) outside,
          State.writeWithin_window _ _ f.isLt virtual not_load outside]
      · exact State.writeWithin_window _ _ f.isLt virtual not_load outside
    · rfl

end Sys2Proof.Machine
end

section
/-!
Relations between a state and the next that every micro-instruction keeps to, double-bit errors included (R76, R91, R92, R101).
-/
namespace Sys2Proof.Machine

/-! Relations that the operations on a tile keep to -/

/-- A relation between a state and a later one that composes and allows whatever happens on one tile. -/
structure StepRel (R : State → State → Prop) : Prop where
  trans : ∀ {a b c : State}, R a b → R b c → R a c
  tile : ∀ {a b : State} {n : Nat}, a.OnlyTile n b → R a b

theorem StepRel.refl {R : State → State → Prop} (rel : StepRel R) (s : State) : R s s := rel.tile (State.OnlyTile.refl 0 s)

/-- A command has a next state, related to the present one. -/
def LeadsTo (R : State → State → Prop) (s : State) (o : Out) : Prop := ∃ t, o = .next t ∧ R s t

section
variable {R : State → State → Prop} {s : State}

theorem LeadsTo.next {t : State} (h : R s t) : LeadsTo R s (.next t) := ⟨t, rfl, h⟩

theorem LeadsTo.ite {c : Prop} [Decidable c] {a b : Out} (yes : c → LeadsTo R s a) (no : ¬c → LeadsTo R s b) : LeadsTo R s (if c then a else b) := by
  split
  · exact yes ‹_›
  · exact no ‹_›

end

/-! Reads of tile SRAM -/

/-- Where a read answers, it is in a state that comes of s by what happens on the tile. -/
def State.Reads {α : Type} (s : State) (tile : Nat) (o : Option (α × State)) : Prop := ∀ r, o = some r → s.OnlyTile tile r.2

/-- Where an effect is had, it is on the tile alone. -/
def State.Changes (s : State) (tile : Nat) (o : Option State) : Prop := ∀ u, o = some u → s.OnlyTile tile u

theorem State.OnlyTile.changes {s t : State} {tile : Nat} (only : s.OnlyTile tile t) : s.Changes tile (some t) := by
  rintro _ ⟨⟩
  exact only

section
variable {tile : Nat} {s t : State} {α β : Type}

theorem State.Reads.bind {o : Option (α × State)} {f : α × State → Option (β × State)} (h : s.Reads tile o)
    (step : ∀ r : α × State, s.OnlyTile tile r.2 → s.Reads tile (f r)) : s.Reads tile (o.bind f) := by
  intro q eq
  obtain ⟨r, found, next⟩ := Option.bind_eq_some_iff.1 eq
  exact step r (h r found) q next

theorem State.Reads.map {o : Option (α × State)} (h : s.Reads tile o) (f : α × State → β) : s.Reads tile (o.map fun r => (f r, r.2)) := by
  intro q eq
  obtain ⟨r, found, rfl⟩ := Option.map_eq_some_iff.1 eq
  exact h r found

theorem State.Reads.changes {o : Option (α × State)} (h : s.Reads tile o) {f : α × State → State}
    (step : ∀ r : α × State, s.OnlyTile tile r.2 → s.OnlyTile tile (f r)) : s.Changes tile (o.map f) := by
  intro u eq
  obtain ⟨r, found, rfl⟩ := Option.map_eq_some_iff.1 eq
  exact step r (h r found)

theorem State.reads_none : s.Reads tile (none : Option (α × State)) := by
  intro r eq
  cases eq

theorem State.changes_none : s.Changes tile none := by
  intro u eq
  cases eq

theorem State.OnlyTile.reads_some (only : s.OnlyTile tile t) (x : α) : s.Reads tile (some (x, t)) := by
  rintro _ ⟨⟩
  exact only

variable (only : s.OnlyTile tile t)
include only

theorem State.reads_sramRead (a n : Nat) : s.Reads tile (t.sramRead tile a n) := by
  unfold State.sramRead
  dsimp only
  split
  · exact State.reads_none
  · split
    · exact only.reads_some _
    · exact (((only.setTile _).onDev (Dev.tileFrame_setPlain _ _ _)).tileCount _ _ _).reads_some _

omit only in
theorem State.reads_readRuns (l : List (Nat × Nat)) {t : State} (only : s.OnlyTile tile t) : s.Reads tile (State.readRuns tile l t) := by
  induction l generalizing t with
  | nil => exact only.reads_some _
  | cons e l ih => exact (State.reads_sramRead only _ _).bind fun r only' => (ih only').map _

theorem State.reads_lineGet (c : RecCtx) (width y col ch n : Nat) : s.Reads tile (t.lineGet tile c width y col ch n) :=
  (State.reads_readRuns _ only).map _

theorem State.reads_outGet (n : Nat) (c : RecCtx) (y x : Nat) : s.Reads tile (t.outGet tile n c y x) := by
  unfold State.outGet
  dsimp only
  split
  · split
    · exact (State.reads_lineGet only _ _ _ _ _ _).map _
    · exact only.reads_some _
  · exact (State.reads_readRuns _ only).map _

omit only in
theorem State.reads_outUnits (n y : Nat) (c : RecCtx) (l : List Nat) {t : State} (only : s.OnlyTile tile t) :
    s.Reads tile (State.outUnits tile n y c l t) := by
  induction l generalizing t with
  | nil => exact only.reads_some _
  | cons x l ih => exact (State.reads_outGet only _ _ _ _).bind fun r only' => (ih only').map _

omit only in
theorem State.reads_lineUnits (c : RecCtx) (zc wide : Bool) (width y ch n : Nat) (l : List Nat) {t : State} (only : s.OnlyTile tile t) :
    s.Reads tile (State.lineUnits tile c zc wide width y ch n l t) := by
  induction l generalizing t with
  | nil => exact only.reads_some _
  | cons x l ih => exact (State.reads_lineGet only _ _ _ _ _ _).bind fun r only' => (ih only').map _

/-! Effects of the micro-instructions that read -/

theorem State.changes_sendHalo (n : Nat) (c m : RecCtx) (o : HaloOp) : s.Changes tile (t.sendHalo tile n c m o) := by
  unfold State.sendHalo
  split
  · exact only.changes
  · refine (State.reads_outUnits _ _ _ _ only).changes fun r only' => ?_
    dsimp only
    split
    · exact only'
    · exact (((only'.setMesh _).onDev (Dev.tileFrame_draw _)).tileCount _ _ _).tileCount _ _ _

theorem State.changes_loadLine (c : RecCtx) (o : LdaOp) (yo xo : Nat) : s.Changes tile (t.loadLine tile c o yo xo) := by
  unfold State.loadLine
  split
  · exact (only.modTile _).changes
  · exact (State.reads_sramRead only _ _).changes fun r only' => only'.modTile _

theorem State.changes_loadRows (n : Nat) (c : RecCtx) (o : LdaOp) (y x elem : Nat) : s.Changes tile (t.loadRows tile n c o y x elem) := by
  unfold State.loadRows
  split
  · exact only.changes
  · dsimp only
    split
    · exact (State.reads_sramRead only _ _).changes fun r only' => only'.modTile _
    · exact (only.modTile _).changes

theorem State.changes_loadWord (c : RecCtx) (o : LdaOp) (w elem rho : Nat) : s.Changes tile (t.loadWord tile c o w elem rho) := by
  unfold State.loadWord
  split
  case h_1 => exact State.changes_none
  case h_2 read =>
    refine (State.reads_sramRead (State.reads_sramRead only _ _ _ read) _ _).changes fun r only' => ?_
    split
    · exact only'.linePut _ _ _ _ _ _ _
    · exact only'.modTile _

theorem State.OnlyTile.fillLine (n : Nat) (c : RecCtx) (y part k : Nat) (b : Bytes) : s.OnlyTile tile (t.fillLine tile n c y part k b) := by
  unfold State.fillLine
  dsimp only
  split
  · exact only.modTile _
  · exact State.OnlyTile.foldl (fun _ _ h => h.linePutAll _ _ _ _ _ _ _ _) (only.modTile _) _

end

/-! Dispatch -/

section
variable {R : State → State → Prop} (rel : StepRel R) {s : State} {tile : Nat}
include rel

theorem StepRel.changes {t : State} {o : Option State} (h : t.Changes tile o) : ∀ u, o = some u → R t u := fun u eq => rel.tile (h u eq)

theorem StepRel.finish {t : State} {o : Option State} (before : R s t) (fault : o = none → R t (t.tileFault tile)) (had : ∀ u, o = some u → R t u) :
    R s (t.finish tile o) := by
  cases o with
  | none => exact rel.trans before (fault rfl)
  | some u => exact rel.trans (rel.trans before (had u rfl)) (rel.tile (State.OnlyTile.refl tile u).retire)

theorem StepRel.dispatch {code : Nat} {body : State → Option State} (fault : ∀ t, body t = none → R t (t.tileFault tile))
    (had : ∀ t u, body t = some u → R t u) : R s (s.dispatch tile code body) := by
  unfold State.dispatch
  split
  · exact rel.finish (rel.tile ((State.OnlyTile.refl tile s).naming _ _ _ _)) (fault _) (had _)
  · exact rel.refl s

theorem StepRel.dispatchRec {code n : Nat} {body : RecCtx → State → Option State} (fault : ∀ c t, body c t = none → R t (t.tileFault tile))
    (had : ∀ c t u, body c t = some u → R t u) : R s (s.dispatchRec tile code n body) := by
  unfold State.dispatchRec
  split
  · exact rel.refl s
  · split
    · exact rel.finish (rel.tile (((State.OnlyTile.refl tile s).naming _ _ _ _).beginRec _ _)) (fault _ _) (had _ _)
    · exact rel.refl s

/-- A micro-instruction of a record whose effect is always had, on its tile alone. -/
theorem StepRel.dispatchRec_of_only {code n : Nat} {f : RecCtx → State → State} (only : ∀ (c : RecCtx) (t : State), t.OnlyTile tile (f c t)) :
    R s (s.dispatchRec tile code n fun c t => some (f c t)) :=
  rel.dispatchRec (fun _ _ eq => nomatch eq) fun c t _ eq => by cases eq; exact rel.tile (only c t)

/-- A micro-instruction of a record whose effect, where it is had, is on its tile alone. -/
theorem StepRel.dispatchRec_of_changes {code n : Nat} {body : RecCtx → State → Option State} (fault : ∀ t, R t (t.tileFault tile))
    (changes : ∀ (c : RecCtx) (t : State), t.Changes tile (body c t)) : R s (s.dispatchRec tile code n body) :=
  rel.dispatchRec (fun _ _ _ => fault _) fun c t => rel.changes (changes c t)

end

/-! What each micro-instruction keeps to -/

section
variable {R : State → State → Prop} (rel : StepRel R) (s : State) (tile : Fin 2048) (rec : Fin 24)
include rel

/-- A halo word arrives (R116): the mesh gives it up, and the rest is on the tile. -/
theorem leadsTo_haloReceive : LeadsTo R s (exec (.haloReceive tile) s) := by
  have only := State.OnlyTile.refl tile s
  simp only [exec, execHaloReceive]
  split
  · exact .next (rel.refl s)
  · split
    · exact .next (rel.refl s)
    · split
      · exact .next (rel.tile ((only.setMesh _).modTile _))
      · exact .next (rel.tile (iteInduction (motive := State.OnlyTile tile s) (fun _ => (((only.setMesh _).putHalo _ _).setTile _).retire)
          fun _ => ((only.setMesh _).putHalo _ _).setTile _))

theorem leadsTo_hwt (side : Fin 3) (part : Fin 4) (value : Nat) : LeadsTo R s (exec (.hwt tile rec side part value) s) := by
  have only := State.OnlyTile.refl tile s
  simp only [exec, execHwt]
  split
  · exact .next (rel.refl s)
  · split
    · exact .next (rel.refl s)
    · split
      · exact .next (rel.tile ((only.naming _ _ _ _).beginRec _ _).retire)
      · exact .next (rel.tile (((only.naming _ _ _ _).beginRec _ _).setTile _))

theorem leadsTo_uinstrNop : LeadsTo R s (exec (.uinstrNop tile) s) :=
  .next (rel.dispatch (fun _ eq => nomatch eq) fun t _ eq => by cases eq; exact rel.refl t)

theorem leadsTo_srs (restore : Bool) : LeadsTo R s (exec (.srs tile rec restore) s) :=
  .next (rel.dispatchRec_of_only fun _ t => (State.OnlyTile.refl _ t).modTile _)

theorem leadsTo_endRec : LeadsTo R s (exec (.endRec tile rec) s) :=
  .next (rel.dispatchRec_of_only fun _ t => (((State.OnlyTile.refl _ t).modTile _).recTrace _ _ _).nextStack)

theorem leadsTo_st (o : StOp) : LeadsTo R s (exec (.st tile rec o) s) :=
  .next (rel.dispatchRec_of_only fun _ t => (State.OnlyTile.refl _ t).store _ _ _)

theorem leadsTo_swp (arrs : BitVec 4) : LeadsTo R s (exec (.swp tile arrs) s) :=
  .next (rel.dispatch (fun _ eq => nomatch eq) fun t _ eq => by cases eq; exact rel.tile ((State.OnlyTile.refl tile.val t).modTile _))

theorem leadsTo_mac (o : MacOp) : LeadsTo R s (exec (.mac tile rec o) s) :=
  .next (rel.dispatchRec_of_only fun _ t => ((State.OnlyTile.refl _ t).modTile _).tileCount _ _ _)

theorem leadsTo_ard (entry : Fin 16) (group : Fin 4) (rows : Fin 64) : LeadsTo R s (exec (.ard tile rec entry group rows) s) :=
  .next (rel.dispatchRec_of_only fun _ t => (State.OnlyTile.refl _ t).modTile _)

theorem leadsTo_epi : LeadsTo R s (exec (.epi tile rec) s) :=
  .next (rel.dispatchRec_of_only fun _ t => (State.OnlyTile.refl _ t).modTile _)

theorem leadsTo_rot (group : Fin 64) : LeadsTo R s (exec (.rot tile rec group) s) :=
  .next (rel.dispatchRec_of_only fun _ t => (State.OnlyTile.refl _ t).modTile _)

theorem leadsTo_row (x y : Nat) (wide : Bool) : LeadsTo R s (exec (.row tile rec x y wide) s) :=
  .next (rel.dispatchRec_of_only fun _ t => ((State.OnlyTile.refl _ t).setTile _).tileCount _ _ _)

theorem leadsTo_vop (o : VopOp) : LeadsTo R s (exec (.vop tile rec o) s) :=
  .next (rel.dispatchRec_of_only fun _ t => ((State.OnlyTile.refl _ t).setTile _).tileCount _ _ _)

theorem leadsTo_mact (o : MactOp) : LeadsTo R s (exec (.mact tile rec o) s) := by
  refine .next (rel.dispatchRec_of_only fun c t => ?_)
  split
  · exact ((State.OnlyTile.refl _ t).modTile _).tileCount _ _ _
  · exact (State.OnlyTile.refl _ t).tileCount _ _ _

theorem leadsTo_lda (fault : ∀ t, R t (t.tileFault tile)) (o : LdaOp) : LeadsTo R s (exec (.lda tile rec o) s) := by
  refine .next (rel.dispatchRec_of_changes fault fun c t => ?_)
  have only := State.OnlyTile.refl tile.val t
  split
  · exact State.changes_loadLine only _ _ _ _
  · exact State.changes_loadRows only _ _ _ _ _ _
  · exact State.changes_loadWord only _ _ _ _ _

theorem leadsTo_hsnd (fault : ∀ t, R t (t.tileFault tile)) (o : HaloOp) : LeadsTo R s (exec (.hsnd tile rec o) s) := by
  simp only [exec, execHsnd]
  split
  · split
    · exact .next (rel.dispatchRec_of_changes fault fun c t => State.changes_sendHalo (State.OnlyTile.refl _ t) _ _ _ _)
    · exact .next (rel.refl s)
  · exact .next (rel.refl s)

theorem leadsTo_ldw (fault : ∀ t, R t (t.tileFault tile)) (arr : Fin 4) (part : Fin 64) (word : Fin 2048) :
    LeadsTo R s (exec (.ldw tile arr part word) s) :=
  .next (rel.dispatch (fun t _ => fault t) fun t =>
    rel.changes ((State.reads_sramRead (State.OnlyTile.refl tile.val t) _ _).changes fun _ only => only.modTile _))

/-- XFR: tile SRAM is read or written, and one word goes to its place or comes from it (R88, R117). -/
theorem StepRel.transfer {o : XfrOp} {t u : State} {c : RecCtx} (place : ∀ t b, R t (t.placeWrite tile o.place b))
    (had : t.transfer tile c o = some u) : R t u := by
  have only := State.OnlyTile.refl tile.val t
  have spill {α : Type} {q : Option (α × State)} (reads : t.Reads tile q) {f : α × State → State} (step : ∀ r : α × State, R r.2 (f r))
      (had : q.map f = some u) : R t u := by
    obtain ⟨r, found, rfl⟩ := Option.map_eq_some_iff.1 had
    exact rel.trans (rel.tile (reads r found)) (step r)
  unfold State.transfer at had
  dsimp only at had
  split at had
  · exact spill (State.reads_sramRead only _ _) (fun r => place _ _) had
  · cases had; exact rel.tile (only.sramWrite _ _)
  · cases had; exact place _ _
  · cases had; exact rel.tile (only.modTile _)
  · split at had
    · cases had; exact rel.refl t
    · refine spill (State.reads_lineUnits _ _ _ _ _ _ _ _ only) (fun r => ?_) had
      split
      · exact rel.refl _
      · exact place _ _
  · cases had
    split
    · exact rel.tile (only.fillLine _ _ _ _ _ _)
    · exact rel.refl t
  · cases had; exact place _ _
  · cases had; exact rel.tile (only.modTile _)

theorem leadsTo_xfr (fault : ∀ t, R t (t.tileFault tile)) (o : XfrOp) (place : ∀ t b, R t (t.placeWrite tile o.place b)) :
    LeadsTo R s (exec (.xfr tile o) s) := by
  refine .next (rel.dispatchRec (fun _ t _ => fault t) fun c t u had => ?_)
  split at had
  · obtain ⟨v, moved, rfl⟩ := Option.map_eq_some_iff.1 had
    exact rel.trans (rel.transfer tile place moved) (rel.tile ((State.OnlyTile.refl tile.val v).tileCount _ _ _))
  · cases had; exact rel.refl t

theorem leadsTo_stat (space : Bool) (addr : BitVec 64) (stat : ∀ t n b, R t (t.writeStat n space addr.toNat b)) :
    LeadsTo R s (exec (.stat tile rec space addr) s) :=
  .next (rel.dispatchRec (fun _ _ eq => nomatch eq) fun c t _ eq => by cases eq; exact stat _ _ _)

end

end Sys2Proof.Machine
end

section
/-!
What no step changes: the queue behind the command, burnt fuse records (R381), cap dividers from 4 to 6 (R400, R401), with the statements about them.
-/
namespace Sys2Proof.Machine

/-! Fuses (R381) -/

/-- The later fuses have what the factory burnt, and where the records are well formed they stay so and no burnt one changes. -/
structure Fuses.Keeps (f g : Fuses) : Prop where
  factory : f.sameFactory g
  form : f.wf = true → g.wf = true
  burnt : f.wf = true → ∀ i : Nat, listGet f.records i 0 ≠ 0 → listGet g.records i 0 = listGet f.records i 0

theorem Fuses.wf_iff (f : Fuses) :
    f.wf = true ↔ f.records.length = 64 ∧ ∀ i v, f.burning = some (i, v) → i < 64 ∧ listGet f.records i 0 = 0 := by
  unfold Fuses.wf
  cases f.burning with
  | none => simp
  | some e =>
    obtain ⟨i, v⟩ := e
    simp only [Option.some.injEq, Prod.mk.injEq, Bool.and_eq_true, beq_iff_eq, decide_eq_true_eq, and_imp]
    exact and_congr_right fun _ => ⟨fun h j w same _ => same ▸ h, fun h => h i v rfl rfl⟩

theorem listGet_listSet_self {α : Type} {l : List α} {i : Nat} (low : i < l.length) (v d : α) : listGet (listSet l i v) i d = v := by
  simp [listGet, listSet, low]

theorem listGet_listSet_other {α : Type} (l : List α) {i j : Nat} (other : j ≠ i) (v d : α) : listGet (listSet l i v) j d = listGet l j d := by
  simp [listGet, listSet, List.getElem?_set_ne (Ne.symm other)]

section
variable {f : Fuses}

/-- What leaves factory, records and the burn in progress alone. -/
theorem Fuses.keeps_armed (f : Fuses) (a : Option Nat) (r : Nat) : f.Keeps { f with armedAt := a, result := r } :=
  ⟨⟨rfl, rfl, rfl, rfl, rfl, rfl⟩, id, fun _ _ _ => rfl⟩

theorem Fuses.Keeps.refl (f : Fuses) : f.Keeps f := f.keeps_armed f.armedAt f.result

theorem Fuses.Keeps.trans {g h : Fuses} (first : f.Keeps g) (second : g.Keeps h) : f.Keeps h where
  factory := by
    obtain ⟨a1, a2, a3, a4, a5, a6⟩ := first.factory
    obtain ⟨b1, b2, b3, b4, b5, b6⟩ := second.factory
    exact ⟨b1.trans a1, b2.trans a2, b3.trans a3, b4.trans a4, b5.trans a5, b6.trans a6⟩
  form := fun wf => second.form (first.form wf)
  burnt := fun wf i burnt => by
    have same := first.burnt wf i burnt
    exact (second.burnt (first.form wf) i (by rwa [same])).trans same

/-- A reset interrupts a burn (R410). -/
theorem Fuses.keeps_interrupted (f : Fuses) : f.Keeps { f with armedAt := none, burning := none, result := 0 } where
  factory := ⟨rfl, rfl, rfl, rfl, rfl, rfl⟩
  form := fun wf => by
    rw [Fuses.wf_iff] at wf ⊢
    exact ⟨wf.1, nofun⟩
  burnt := fun _ _ _ => rfl

/-- A burn begins in an empty record. -/
theorem Fuses.keeps_burning {i : Nat} {v : BitVec 64} (empty : f.lowestEmpty = some i) :
    f.Keeps { f with armedAt := none, burning := some (i, v) } where
  factory := ⟨rfl, rfl, rfl, rfl, rfl, rfl⟩
  form := fun wf => by
    have zero := List.find?_some empty
    have low := List.mem_range.1 (List.mem_of_find?_eq_some empty)
    rw [Fuses.wf_iff] at wf ⊢
    refine ⟨wf.1, fun j w eq => ?_⟩
    cases eq
    exact ⟨low, by simpa using zero⟩
  burnt := fun _ _ _ => rfl

/-- A burn ends: what is written is the record that it was for, which was empty. -/
theorem Fuses.keeps_burnt {i : Nat} {v : BitVec 64} (burning : f.burning = some (i, v)) (x : BitVec 64) (r : Nat) :
    f.Keeps { f with records := listSet f.records i x, burning := none, result := r } where
  factory := ⟨rfl, rfl, rfl, rfl, rfl, rfl⟩
  form := fun wf => by
    rw [Fuses.wf_iff] at wf ⊢
    exact ⟨by simpa [listSet] using wf.1, nofun⟩
  burnt := fun wf j burnt => by
    rw [Fuses.wf_iff] at wf
    have other : j ≠ i := by
      rintro rfl
      exact burnt (wf.2 j v burning).2
    exact listGet_listSet_other _ other _ _

end

/-! Cap dividers (R400, R401) -/

theorem Clocks.wf_iff (c : Clocks) : c.wf = true ↔ c.plains.length = 8 ∧ ∀ x ∈ c.plains, 4 ≤ x.cap ∧ x.cap ≤ 6 := by
  simp [Clocks.wf]

theorem Clocks.wf_reset : Clocks.reset.wf = true := by decide

theorem Clocks.cap_of_wf {c : Clocks} (wf : c.wf = true) (p : Nat) : 4 ≤ (c.plain p).cap ∧ (c.plain p).cap ≤ 6 := by
  rw [Clocks.wf_iff] at wf
  unfold Clocks.plain listGet
  cases found : c.plains[p]? with
  | none => simp
  | some x => exact wf.2 x (List.mem_of_getElem? found)

theorem Clocks.wf_setPlain {c : Clocks} {x : PlainClk} (wf : c.wf = true) (cap : 4 ≤ x.cap ∧ x.cap ≤ 6) (p : Nat) : (c.setPlain p x).wf = true := by
  rw [Clocks.wf_iff] at wf ⊢
  refine ⟨by simpa [Clocks.setPlain] using wf.1, fun y mem => ?_⟩
  rcases List.mem_or_eq_of_mem_set mem with old | rfl
  · exact wf.2 y old
  · exact cap

theorem Clocks.wf_of_plains {c d : Clocks} (plains : d.plains = c.plains) (wf : c.wf = true) : d.wf = true := by
  rw [Clocks.wf, plains]
  exact wf

/-- The power manager steps up below 6 and down above 4. -/
theorem State.wf_capStep {s : State} (wf : s.clk.wf = true) (estimate : Nat) (draws : List Nat) : (s.capStep estimate draws).wf = true := by
  have cap (p : Nat) := Clocks.cap_of_wf wf p
  unfold State.capStep
  split
  · split
    next p picked =>
      have below := (bestPlain_of_some picked).2.1
      simp only [Bool.and_eq_true, decide_eq_true_eq] at below
      exact Clocks.wf_setPlain wf ⟨Nat.le_succ_of_le (cap p).1, Nat.succ_le_of_lt below.2⟩ p
    next => exact wf
  · split
    · split
      next p picked =>
        have above := (bestPlain_of_some picked).2.1
        rw [decide_eq_true_eq] at above
        exact Clocks.wf_setPlain wf ⟨Nat.le_sub_one_of_lt above, (Nat.sub_le _ _).trans (cap p).2⟩ p
      next => exact wf
    · exact wf

/-! The relation -/

/-- What no command changes: the queue, the burnt fuses, and that the cap dividers lie from 4 to 6. -/
structure State.Keeps (s t : State) : Prop where
  pending : t.pending = s.pending
  caps : s.clk.wf = true → t.clk.wf = true
  fuses : s.fuses.Keeps t.fuses

/-- Nothing but the device, the tiles and what leaves the plains' clocks alone. -/
theorem State.keeps_of_same {s t : State} (pending : t.pending = s.pending) (plains : t.clk.plains = s.clk.plains) (fuses : t.fuses = s.fuses) :
    s.Keeps t :=
  ⟨pending, Clocks.wf_of_plains plains, fuses ▸ Fuses.Keeps.refl s.fuses⟩

theorem State.Keeps.trans {a b c : State} (first : a.Keeps b) (second : b.Keeps c) : a.Keeps c :=
  ⟨second.pending.trans first.pending, fun wf => second.caps (first.caps wf), first.fuses.trans second.fuses⟩

theorem State.stepRel_keeps : StepRel State.Keeps :=
  ⟨State.Keeps.trans, fun only => State.keeps_of_same only.pending (congrArg Clocks.plains only.clk) only.fuses⟩

section
variable {s t : State}

theorem State.Keeps.refl (s : State) : s.Keeps s := State.stepRel_keeps.refl s

theorem State.Keeps.ite {c : Prop} [Decidable c] {a b : State} (yes : s.Keeps a) (no : s.Keeps b) : s.Keeps (if c then a else b) :=
  iteInduction (fun _ => yes) fun _ => no

section
variable (keeps : s.Keeps t)
include keeps

theorem State.Keeps.onDev (f : Dev → Dev) : s.Keeps (t.onDev f) := keeps.trans (State.keeps_of_same rfl rfl rfl)

theorem State.Keeps.withFuses {g : Fuses} (fuses : t.fuses.Keeps g) : s.Keeps { t with fuses := g } :=
  keeps.trans ⟨rfl, id, fuses⟩

theorem State.Keeps.disarm : s.Keeps t.disarm := keeps.withFuses (t.fuses.keeps_armed none t.fuses.result)

theorem State.Keeps.disarmFor (a : Nat) : s.Keeps (t.disarmFor a) :=
  .ite keeps (keeps.disarm)

/-- A change of a plain's clock that leaves its cap divider alone. -/
theorem State.Keeps.clkPlain (p : Nat) {f : PlainClk → PlainClk} (cap : ∀ x, (f x).cap = x.cap) : s.Keeps (t.clkPlain p f) := by
  unfold State.clkPlain
  split
  · exact keeps.trans ⟨rfl, fun wf => Clocks.wf_setPlain wf (by rw [cap]; exact Clocks.cap_of_wf wf p) p, Fuses.Keeps.refl _⟩
  · exact keeps

theorem State.Keeps.dividerState (p : Nat) : s.Keeps (t.dividerState p) :=
  .ite keeps (keeps.onDev _)

theorem State.Keeps.tick : s.Keeps t.tick := .ite keeps (keeps.onDev _)

/-! Fuses -/

theorem State.Keeps.fuseArm (w : Nat) : s.Keeps (t.fuseArm w) :=
  .ite (keeps.withFuses (t.fuses.keeps_armed _ t.fuses.result)) keeps

theorem State.Keeps.burnValue (v : BitVec 64) : s.Keeps (t.burnValue v) := by
  unfold State.burnValue
  split
  next i empty => exact keeps.withFuses (Fuses.keeps_burning empty)
  next => exact keeps.withFuses (t.fuses.keeps_armed none 3)

theorem State.Keeps.burnSoft (index : Nat) : s.Keeps (t.burnSoft index) :=
  .ite (keeps.burnValue _) keeps

theorem State.Keeps.burnRevoke (record : Nat) : s.Keeps (t.burnRevoke record) :=
  .ite (keeps.burnValue _) keeps

/-! Resets and boot -/

theorem State.Keeps.afterReset (cold : Bool) (cause : Nat) (m : Mode) : s.Keeps (t.afterReset cold cause m) :=
  keeps.trans ⟨rfl, fun _ => Clocks.wf_reset, t.fuses.keeps_interrupted⟩

theorem State.Keeps.setPins (f : Pins → Pins) : s.Keeps (t.setPins f) := keeps.onDev _

theorem State.Keeps.assertPin (cause : Nat) (f : Pins → Pins) : s.Keeps (t.assertPin cause f) :=
  .ite (keeps.setPins f) ((keeps.afterReset _ _ _).setPins f)

theorem State.Keeps.coldCmd : s.Keeps t.coldCmd := .ite (keeps.afterReset _ _ _) keeps

theorem State.Keeps.warmCmd : s.Keeps t.warmCmd := .ite (keeps.afterReset _ _ _) keeps

theorem State.Keeps.leaveReset : s.Keeps t.leaveReset := (keeps.onDev _).setPins _

theorem State.Keeps.startBoot (tests : BootTests) : s.Keeps (t.startBoot tests) := by
  unfold State.startBoot
  dsimp only
  split
  · split
    · exact keeps.onDev _
    · split
      · exact keeps.onDev _
      · split
        · exact keeps.onDev _
        · exact keeps.onDev _
  · exact keeps

/-! Register writes -/

theorem State.Keeps.dumpNow : s.Keeps t.dumpNow := .ite (keeps.onDev _) keeps

theorem State.Keeps.clearSticky (g w : Nat) : s.Keeps (t.clearSticky g w) :=
  .ite keeps (keeps.trans (State.keeps_of_same rfl rfl rfl))

theorem State.Keeps.calUserWrite (v en : Nat) : s.Keeps (t.calUserWrite v en) := by
  unfold State.calUserWrite
  split
  · exact keeps
  · exact keeps.trans (State.keeps_of_same rfl rfl rfl)

theorem State.Keeps.rstCmd (v : Nat) : s.Keeps (t.rstCmd v) :=
  .ite (keeps.coldCmd) (.ite (keeps.warmCmd) keeps)

theorem State.Keeps.fusCmd (v : Nat) : s.Keeps (t.fusCmd v) := by
  unfold State.fusCmd
  dsimp only
  split
  · split
    · exact keeps.burnRevoke _
    · exact keeps
  · split
    · exact keeps.burnSoft _
    · exact keeps

theorem State.Keeps.w1cWrite (a v : Nat) : s.Keeps (t.w1cWrite a v) :=
  .ite (keeps.onDev _) (keeps.onDev _)

theorem State.Keeps.cmdBit (v b : Nat) {f : State → State} (command : s.Keeps (f t)) : s.Keeps (t.cmdBit v b f) :=
  .ite (command) keeps

/-- A command of the device alone. -/
theorem State.Keeps.cmdBit_onDev (v b : Nat) (f : Dev → Dev) : s.Keeps (t.cmdBit v b fun u => u.onDev f) := keeps.cmdBit v b (keeps.onDev f)

theorem State.Keeps.woWrite (a v : Nat) : s.Keeps (t.woWrite a v) := by
  unfold State.woWrite
  refine .ite (keeps.rstCmd v) ?_
  refine .ite (keeps.cmdBit v 0 (keeps.startBoot _)) ?_
  refine .ite (keeps.cmdBit_onDev v 0 _) ?_
  refine .ite ((keeps.cmdBit_onDev v 0 _).cmdBit_onDev v 1 _) ?_
  refine .ite (((keeps.cmdBit_onDev v 0 _).cmdBit_onDev v 1 _).cmdBit_onDev v 2 _) ?_
  refine .ite ((keeps.cmdBit_onDev v 0 _).cmdBit v 1 (keeps.cmdBit_onDev v 0 _).dumpNow) ?_
  refine .ite (keeps.onDev _) ?_
  refine .ite (keeps.cmdBit_onDev v 1 _) ?_
  refine .ite (keeps.onDev _) ?_
  refine .ite (keeps.fuseArm v) ?_
  refine .ite (keeps.fusCmd v) ?_
  refine .ite (keeps.cmdBit_onDev v 0 _) ?_
  refine .ite (keeps.onDev _) ?_
  exact keeps

theorem State.Keeps.regWrite (a v en : Nat) (r : RegSpec) : s.Keeps (t.regWrite a v en r) := by
  unfold State.regWrite
  split
  · exact keeps
  · exact keeps
  · split
    · exact keeps.onDev _
    · exact keeps
  · exact keeps.woWrite a _
  · exact keeps.w1cWrite a _
  · split; · exact keeps.calUserWrite v _
    split; · exact keeps.onDev _
    split; · exact keeps.onDev _
    exact keeps.onDev _

theorem State.Keeps.writeWithin (f : Nat) (space : RegSpace) (off n v : Nat) : s.Keeps (t.writeWithin f space off n v) := by
  unfold State.writeWithin
  dsimp only
  split
  · exact keeps.disarm
  · split
    · exact keeps.disarmFor _
    · split
      · exact (keeps.disarmFor _).clearSticky _ _
      · split
        · exact (keeps.disarmFor _).regWrite _ _ _ _
        · exact keeps.disarmFor _

theorem State.Keeps.writeRegs (f : Nat) (space : RegSpace) (off n v : Nat) : s.Keeps (t.writeRegs f space off n v) :=
  .ite ((keeps.writeWithin _ _ _ _ _).writeWithin _ _ _ _ _) (keeps.writeWithin _ _ _ _ _)

/-! Faults -/

theorem State.Keeps.tileFault (tile : Nat) : s.Keeps (t.tileFault tile) :=
  .ite keeps (keeps.trans (State.keeps_of_same rfl rfl rfl))

theorem State.Keeps.plainFail (p : Nat) : s.Keeps (t.plainFail p) :=
  .ite keeps (keeps.trans (State.keeps_of_same rfl rfl rfl))

end
end

/-! Every command -/

section
variable (s : State)

theorem exec_keeps_railFault (r : Rail) : LeadsTo State.Keeps s (exec (.railFault r) s) := by
  simp only [exec, execRailFault]
  split
  · exact .next (.refl s)
  · split
    · refine .next (State.Keeps.plainFail ?_ _)
      exact State.keeps_of_same rfl rfl rfl
    · exact .next (State.keeps_of_same rfl rfl rfl)

theorem exec_keeps_fusBurnDone (o : BurnOutcome) : LeadsTo State.Keeps s (exec (.fusBurnDone o) s) := by
  simp only [exec, execFusBurnDone]
  split
  · exact .next (.refl s)
  · next burning =>
    split
    · exact .next ⟨rfl, id, Fuses.keeps_burnt burning _ _⟩
    · exact .next ⟨rfl, id, Fuses.keeps_burnt burning _ _⟩

theorem exec_keeps_powerCapStep (estimate : Nat) (draws : List Nat) : LeadsTo State.Keeps s (exec (.powerCapStep estimate draws) s) := by
  by_cases clocked : s.dev.clocked = true
  · rw [exec_powerCapStep_of_clocked clocked]
    exact .next ⟨rfl, fun wf => Clocks.wf_of_plains rfl (State.wf_capStep wf estimate draws), Fuses.Keeps.refl _⟩
  · simp only [exec, execPowerCapStep, clocked]
    exact .next (.refl s)

theorem exec_keeps_registerWrite (f : Fin 64) (space : RegSpace) (off : BitVec 24) (size : Fin 9) (value : BitVec 64) :
    LeadsTo State.Keeps s (exec (.registerWrite f space off size value) s) := by
  have self := State.Keeps.refl s
  simp only [exec, execRegisterWrite]
  split
  · exact .next self
  · split
    · exact .next (self.onDev _)
    · exact .next self
    · exact .next (.ite (self.disarm.onDev _) self.disarm)
    · exact .next (self.writeRegs _ _ _ _ _)

theorem exec_keeps_devRst (ns : Nat) : LeadsTo State.Keeps s (exec (.devRst ns) s) := by
  have drawn : s.Keeps { s with dev := s.dev.draw.2 } := State.keeps_of_same rfl rfl rfl
  refine .ite (fun _ => .next (.refl s)) fun _ => .ite (fun _ => .next (.assertPin (.refl s) _ _)) fun _ => ?_
  exact .ite (fun _ => .next (drawn.assertPin _ _)) fun _ => .next drawn

theorem exec_keeps_resets : LeadsTo State.Keeps s (exec .resetRelease s) ∧ LeadsTo State.Keeps s (exec .powerOnResetRelease s) := by
  have self := State.Keeps.refl s
  exact ⟨.ite (fun _ => .next (self.setPins _).leaveReset) fun _ => .next (self.setPins _),
    .ite (fun _ => .ite (fun _ => .next self.leaveReset) fun _ => .next (self.onDev _)) fun _ => .next self⟩

/-- Every command has a next state, which keeps the queue, the burnt fuses and the range of the cap dividers. -/
theorem exec_keeps (c : Instr) : LeadsTo State.Keeps s (exec c s) := by
  have self := State.Keeps.refl s
  have rel := State.stepRel_keeps
  have fault (tile : Nat) (t : State) : t.Keeps (t.tileFault tile) := (State.Keeps.refl t).tileFault tile
  cases c with
  | dividerChange p => exact .next (self.dividerState p)
  | vminLow p => exact .next (self.clkPlain p fun _ => rfl)
  | vminRestored p => exact .next (self.clkPlain p fun _ => rfl)
  | overTemp p _ => exact .ite (fun _ => .next ((self.clkPlain p (by exact fun _ => rfl)).onDev _)) fun _ => .next self
  | overTempEnd p _ => exact .ite (fun _ => .next (self.clkPlain p fun _ => rfl)) fun _ => .next self
  | thermalFailstop p _ => exact .ite (fun _ => .next ((self.clkPlain p (by exact fun _ => rfl)).onDev _)) fun _ => .next self
  | powerCapStep estimate draws => exact exec_keeps_powerCapStep s estimate draws
  | railFault r => exact exec_keeps_railFault s r
  | fusArm w => exact .next (self.fuseArm _)
  | burn i => exact .next (self.burnSoft _)
  | revoke r => exact .next (self.burnRevoke _)
  | fusBurnDone o => exact exec_keeps_fusBurnDone s o
  | perst => exact .next (self.assertPin _ _)
  | devRst ns => exact exec_keeps_devRst s ns
  | coldPower => exact .next (self.afterReset _ _ _)
  | coldCmd => exact .next self.disarm.coldCmd
  | warmCmd => exact .next self.disarm.warmCmd
  | resetRelease => exact (exec_keeps_resets s).1
  | powerOnResetRelease => exact (exec_keeps_resets s).2
  | start tests => exact .next (self.disarm.startBoot tests)
  | registerWrite f space off size value => exact exec_keeps_registerWrite s f space off size value
  | stickyClear g w => exact .next (self.disarm.clearSticky _ _)
  | dumpNow => exact .next self.disarm.dumpNow
  | tileFault tile _ => exact .next (self.tileFault tile)
  | plainFail p => exact .next (self.plainFail p)
  | haloReceive tile => exact leadsTo_haloReceive rel s tile
  | uinstrNop tile => exact leadsTo_uinstrNop rel s tile
  | ldw tile arr part word => exact leadsTo_ldw rel s tile (fault tile) arr part word
  | swp tile arrs => exact leadsTo_swp rel s tile arrs
  | lda tile rec o => exact leadsTo_lda rel s tile rec (fault tile) o
  | mac tile rec o => exact leadsTo_mac rel s tile rec o
  | mact tile rec o => exact leadsTo_mact rel s tile rec o
  | ard tile rec entry group rows => exact leadsTo_ard rel s tile rec entry group rows
  | epi tile rec => exact leadsTo_epi rel s tile rec
  | rot tile rec group => exact leadsTo_rot rel s tile rec group
  | row tile rec x y wide => exact leadsTo_row rel s tile rec x y wide
  | vop tile rec o => exact leadsTo_vop rel s tile rec o
  | st tile rec o => exact leadsTo_st rel s tile rec o
  | hsnd tile rec o => exact leadsTo_hsnd rel s tile rec (fault tile) o
  | hwt tile rec side part value => exact leadsTo_hwt rel s tile rec side part value
  | xfr tile o => exact leadsTo_xfr rel s tile (fault tile) o fun t _ => (State.Keeps.refl t).onDev _
  | srs tile rec restore => exact leadsTo_srs rel s tile rec restore
  | stat tile rec space addr => exact leadsTo_stat rel s tile rec space addr fun t _ _ => (State.Keeps.refl t).onDev _
  | endRec tile rec => exact leadsTo_endRec rel s tile rec
  | plainLimit _ _ | plainLimitEnd _ _ | refLoss | holdoverEnd | gateEnter _ | quiesce | rootPllLock _ _ =>
    exact .ite (fun _ => .next (State.keeps_of_same rfl rfl rfl)) fun _ => .next self
  | pllSwitch _ _ =>
    exact .ite (fun _ => .next self) fun _ => .ite (fun _ => .next (self.onDev _)) fun _ => .next (State.keeps_of_same rfl rfl rfl)
  | linkRetrain _ _ | d3hot _ | d0Return _ | gateExit _ | dump => exact .ite (fun _ => .next (self.onDev _)) fun _ => .next self
  | pmcValCapture _ | glbTimeCapture _ => exact .ite (fun _ => .next (self.onDev _)) fun _ => .next (self.onDev _)
  | load _ | wake _ _ | install | erase | admKeyctlLock | enum | head | mchRelease | query | injUnlock _ | injLock | freeze | tileBist | mbist
  | arrayTest | engineTest | laneTest | clear | mark _ | admSuspClear _ => exact .next (self.disarm.onDev _)
  | nop _ | fence _ | modelLoad _ | modelUnload _ | contractOpen _ | contractClose _ | streamOpen _ | streamClose _ | encPicture _ | decUnits _
  | poolMarkAlloc _ | poolMarkTake _ | poolMarkRelease _ | poolMarkDiscard _ | audEnc _ | audDec _ | fldEnc _ | fldDec _ | llComp _ | llDecomp _
  | copy2d _ | attach _ | detach _ | watch _ | switch _ | takeover _ | poll _ | modTime _ _ | msixPendingSend _ _ | queryTimeout | frzNFall | frzNRise
  | testComplete _ | functionLevelReset _ _ | ledgerAudit | departure _ | release _ | contextPass _ | decodeSegment _ | encodeUnit _ | train _
  | regionJob _ | unitEmit _ | pictureClose _ | pictureRecord _ | autoCopy _ | outputRecord _ | blockRecord _ | llSuspend _ | llResume _
  | engineFault _ | rimFault _ | hbmUe _ _ _ | hbmLaneRepair _ _ _ | sample _ | traceWrite | heartbeat | heartbeatReceive _ _ _ | linkDown _
  | hello _ _ | replay _ _ | laneSpare _ _ | epochOpen _ | epochClose _ _ _ _ _ | epochAck _ _ _ | abort _ | switchRecord _ | switchAck _
  | closingNotice _ _ | relinquish _ | survey _ | assign _ | join _ | status _ | statusReq _ | statusBroadcast | vfEnable _ | injUnlockTimeout
  | watchdogExpiry | warpFault _ | regionFault _ | lleFault _ | spineUe | chainFrameDrop _ | attachMatch _ => exact .next (self.onDev _)

end

/-- Every step keeps the burnt fuses and the range of the cap dividers: an idle one is a tick, another one a command's. -/
theorem step_keeps {s t : State} (next : step s = .next t) : (s.clk.wf = true → t.clk.wf = true) ∧ s.fuses.Keeps t.fuses := by
  unfold step at next
  split at next
  · cases next
    have keeps := (State.Keeps.refl s).tick
    exact ⟨keeps.caps, keeps.fuses⟩
  · next c rest _ =>
    obtain ⟨u, reached, keeps⟩ := exec_keeps { s with pending := rest } c
    cases reached.symm.trans next
    exact ⟨keeps.caps, keeps.fuses⟩

/-- Settles O3, by what every command keeps. -/
theorem everyCommandKeepsTheQueue : Obligations.EveryCommandKeepsTheQueue := by
  unfold Obligations.EveryCommandKeepsTheQueue
  intro c s
  obtain ⟨t, next, keeps⟩ := exec_keeps s c
  exact ⟨t, next, keeps.pending⟩

/-- Settles O4, by what every step keeps of the fuses: a burn begins in an empty record and writes that one. -/
theorem burntRecordsNeverChange : Obligations.BurntRecordsNeverChange := by
  unfold Obligations.BurntRecordsNeverChange
  intro s t wf next
  obtain ⟨-, keeps⟩ := step_keeps next
  exact ⟨keeps.form wf, keeps.factory, keeps.burnt wf⟩

/-- Settles O5, by what every step keeps of the clocks: the power manager alone changes a cap divider. -/
theorem capDividersStayFrom4To6 : Obligations.CapDividersStayFrom4To6 := by
  unfold Obligations.CapDividersStayFrom4To6
  intro s t wf next
  exact (step_keeps next).1 wf

end Sys2Proof.Machine
end

section
/-!
Host and device memory: what holds of the two memories before an operation and after it.
-/
namespace Sys2Proof.Machine

/-- P holds of host memory and device memory. -/
def Dev.Has (P : Mem → Mem → Prop) (s : Dev) : Prop := P s.hmem s.dmem

/-- Both memories are in canonical form. -/
def Formed (h d : Mem) : Prop := h.wf = true ∧ d.wf = true

section
variable {P : Mem → Mem → Prop}

theorem Dev.Has.foldl {α : Type} {f : Dev → α → Dev} (step : ∀ t x, t.Has P → (f t x).Has P) {s : Dev} (h : s.Has P) {l : List α} :
    (l.foldl f s).Has P := by
  induction l generalizing s with
  | nil => exact h
  | cons x l ih => exact ih (step s x h)

/-- A fold over a device and what goes with it. -/
theorem Dev.Has.foldl_pair {α β : Type} {f : Dev × β → α → Dev × β} (step : ∀ x y, x.1.Has P → (f x y).1.Has P) {x : Dev × β} (h : x.1.Has P)
    {l : List α} : (l.foldl f x).1.Has P := by
  induction l generalizing x with
  | nil => exact h
  | cons y l ih => exact ih (step x y h)

theorem Dev.Has.ite {c : Prop} [Decidable c] {a b : Dev} (yes : a.Has P) (no : b.Has P) : (if c then a else b).Has P :=
  iteInduction (fun _ => yes) fun _ => no

/-- What changes neither memory. -/
theorem Dev.Has.update {s : Dev} (h : s.Has P) {sys regs host media units inst pair chain} :
    (Dev.mk sys regs s.hmem s.dmem host media units inst pair chain).Has P := h

theorem Dev.Has.fst {α : Type} {p : Dev × α} (h : p.1.Has P) {t : Dev} {x : α} (eq : p = (t, x)) : t.Has P := by
  rw [eq] at h
  exact h

theorem Dev.Has.snd {α : Type} {p : α × Dev} (h : p.2.Has P) {t : Dev} {x : α} (eq : p = (x, t)) : t.Has P := by
  rw [eq] at h
  exact h

end

theorem Dev.Has.putHost {s : Dev} (h : s.Has Formed) {a : Nat} {b : Bytes} : (s.putHost a b).Has Formed := ⟨Mem.wf_writeN _ _ _ h.1, h.2⟩

theorem Dev.Has.putDev {s : Dev} (h : s.Has Formed) {a : Nat} {b : Bytes} : (s.putDev a b).Has Formed := ⟨h.1, Mem.wf_writeN _ _ _ h.2⟩

end Sys2Proof.Machine
end

section
/-!
What the operations on rings, clocks, contracts, repair and copies do to host and device memory: each keeps what holds of the two memories,
or, where it writes one, their canonical form.
-/
namespace Sys2Proof.Machine

section
variable {P : Mem → Mem → Prop}

/-! Registers (R432) -/

theorem Dev.Has.setReg {s : Dev} (h : s.Has P) {a : Nat} {v : Word} : (s.setReg a v).Has P := h
theorem Dev.Has.setRegN {s : Dev} (h : s.Has P) {a v : Nat} : (s.setRegN a v).Has P := h
theorem Dev.Has.setReg64 {s : Dev} (h : s.Has P) {lo hi v : Nat} : (s.setReg64 lo hi v).Has P := h

/-! Shared operations (R300 to R302, R370 to R373, R418 to R431) -/

theorem Dev.Has.setMode {s : Dev} (h : s.Has P) {m : Mode} : (s.setMode m).Has P := h
theorem Dev.Has.draw {s : Dev} (h : s.Has P) : s.draw.2.Has P := h
theorem Dev.Has.count {s : Dev} (h : s.Has P) {e n : Nat} : (s.count e n).Has P := by
  unfold Dev.count
  exact .ite h h.update

theorem Dev.Has.trace {s : Dev} (h : s.Has P) {t0 domain source : Nat} {p : Option Nat} {payload : Bytes} :
    (s.trace t0 domain source p payload).Has P := by
  unfold Dev.trace
  exact .ite h.update h

theorem Dev.Has.hostWrite {s : Dev} (h : s.Has Formed) {a : Nat} {b : Bytes} {t : Dev} (eq : s.hostWrite a b = some t) : t.Has Formed := by
  unfold Dev.hostWrite at eq
  split at eq
  · cases eq
  · cases eq
    exact h.putHost.count

theorem Dev.Has.setFn {s : Dev} (h : s.Has P) {f : Nat} {x : Fn} : (s.setFn f x).Has P := h
theorem Dev.Has.output {s : Dev} (h : s.Has P) {o : Output} : (s.output o).Has P := h
theorem Dev.Has.msi {s : Dev} (h : s.Has P) {f v : Nat} : (s.msi f v).Has P := h
theorem Dev.Has.setPba {s : Dev} (h : s.Has P) {f v : Nat} {b : Bool} : (s.setPba f v b).Has P := h
theorem Dev.Has.trigger {s : Dev} (h : s.Has P) {f v : Nat} : (s.trigger f v).Has P := by
  unfold Dev.trigger
  exact .ite h (.ite h.msi h.setPba)

theorem Dev.Has.freeze {s : Dev} (h : s.Has P) {cause : Nat} : (s.freeze cause).Has P := by
  unfold Dev.freeze
  exact .ite h.setRegN h.setRegN.setReg64.update

theorem Dev.Has.captureFirst {s : Dev} (h : s.Has P) {g b det : Nat} : (s.captureFirst g b det).Has P := by
  unfold Dev.captureFirst
  exact .ite h.setRegN.setRegN.setReg64 h

theorem Dev.Has.sticky {s : Dev} (h : s.Has P) {g b det : Nat} : (s.sticky g b det).Has P := by
  unfold Dev.sticky
  exact .ite h (.ite (.freeze (.ite h.captureFirst.setRegN.trace.trigger h.captureFirst.setRegN.trace))
    (.ite h.captureFirst.setRegN.trace.trigger h.captureFirst.setRegN.trace))

theorem Dev.Has.failStop {s : Dev} (h : s.Has P) : s.failStop.Has P := by
  unfold Dev.failStop
  split <;> exact h

theorem Dev.Has.rerr {s : Dev} (h : s.Has P) {f b ring : Nat} {cpl : Bool} : (s.rerr f b ring cpl).Has P := by
  unfold Dev.rerr
  exact .setRegN (.ite h.setRegN h)

theorem Dev.Has.ringFault {s : Dev} (h : s.Has P) {f b ring : Nat} {cpl : Bool} : (s.ringFault f b ring cpl).Has P := by
  unfold Dev.ringFault
  exact h.rerr.count.sticky

theorem Dev.Has.dataFault {s : Dev} (h : s.Has P) {f ring : Nat} : (s.dataFault f ring).Has P := by
  unfold Dev.dataFault
  exact h.count.sticky

theorem Dev.Has.setDring {s : Dev} (h : s.Has P) {f n : Nat} {r0 : DRing} : (s.setDring f n r0).Has P := h
theorem Dev.Has.setCring {s : Dev} (h : s.Has P) {f n : Nat} {r0 : CRing} : (s.setCring f n r0).Has P := h
theorem Dev.Has.writeAcc {s : Dev} (h : s.Has Formed) {f n : Nat} : (s.writeAcc f n).Has Formed := by
  unfold Dev.writeAcc
  dsimp only
  split
  · exact h
  · split
    next eq =>
      exact (h.hostWrite eq).setDring
    · exact h.ringFault.setDring

theorem Dev.Has.cplIrq {s : Dev} (h : s.Has P) {f c : Nat} {now : Bool} : (s.cplIrq f c now).Has P := by
  unfold Dev.cplIrq
  exact .ite h (.ite h.setCring.trigger h.setCring)

theorem Dev.Has.writeWr {s : Dev} (h : s.Has Formed) {f c wr : Nat} {t : Dev} (eq : s.writeWr f c wr = some t) : t.Has Formed :=
  h.hostWrite eq

theorem Dev.Has.writeHallmark {s : Dev} (h : s.Has Formed) {r : CRing} {c : Cpl} {t : Dev} (eq : s.writeHallmark r c = some t) : t.Has Formed := by
  unfold Dev.writeHallmark at eq
  split at eq
  · exact h.hostWrite eq
  · cases eq
    exact h

theorem Dev.Has.writeEntry {s : Dev} (h : s.Has Formed) {r0 : CRing} {h0 : Cpl} : (s.writeEntry r0 h0).1.Has Formed := by
  unfold Dev.writeEntry
  split
  · exact h
  · split
    · exact h
    next eq =>
      split
      next eq' =>
        exact (h.writeHallmark eq).hostWrite eq'
      · exact h.writeHallmark eq

theorem Dev.Has.publish {s : Dev} (h : s.Has Formed) {f c : Nat} {r0 : CRing} {h0 : Cpl} {rest : List Cpl} :
    (s.publish f c r0 h0 rest).1.Has Formed := by
  unfold Dev.publish
  dsimp only
  split
  · exact h.setCring.ringFault
  next eq =>
    exact ((((h.writeWr eq).setFn).setCring).cplIrq).count

theorem Dev.Has.writeHead {s : Dev} (h : s.Has Formed) {f c : Nat} {h0 : Cpl} {rest : List Cpl} : (s.writeHead f c h0 rest).1.Has Formed := by
  unfold Dev.writeHead
  split
  next eq =>
    exact (h.writeEntry.fst eq).publish
  next eq =>
    exact (h.writeEntry.fst eq).ringFault

theorem Dev.Has.flushRing {n : Nat} {s : Dev} (h : s.Has Formed) {f c : Nat} : (Dev.flushRing f c n s).Has Formed := by
  induction n generalizing s with
  | zero => exact h
  | succ n ih =>
    unfold Dev.flushRing
    refine .ite h (.ite ?_ ?_)
    · split
      next eq => exact ih (h.writeWr eq).setCring
      next => exact h.ringFault
    · split
      · exact h
      · split
        next eq => exact ih (h.writeHead.fst eq)
        next eq => exact h.writeHead.fst eq

theorem Dev.Has.flush {s : Dev} (h : s.Has Formed) {f c : Nat} : (s.flush f c).Has Formed := by
  unfold Dev.flush
  exact h.flushRing

theorem Dev.Has.uncover {s : Dev} (h : s.Has P) {p : Nat → Stream → Bool} : (s.uncover p).Has P := h
theorem Dev.Has.suspend {s0 : Dev} (h : s0.Has P) {b : Nat} : (s0.suspend b).Has P := by
  unfold Dev.suspend
  exact .ite (.ite h.uncover h) (.trace (.update (.setRegN (.ite (.setReg64 (.ite h.uncover h)) (.ite h.uncover h)))))

theorem Dev.Has.unsuspend {s : Dev} (h : s.Has P) {b : Nat} : (s.unsuspend b).Has P := by
  unfold Dev.unsuspend
  exact .ite h.update.trace h

/-! The spaces that operands name (R285) -/

theorem Dev.Has.writeSpace {s : Dev} (h : s.Has Formed) {space : Bool} {a : Nat} {b : Bytes} {t : Dev} (eq : s.writeSpace space a b = some t) :
    t.Has Formed := by
  unfold Dev.writeSpace at eq
  split at eq
  · cases eq
    exact h.putDev
  · exact h.hostWrite eq

/-! Descriptor rings (R287 to R302) -/

theorem Dev.Has.accept {s : Dev} (h : s.Has P) {f n : Nat} {raw : Bytes} : (s.accept f n raw).Has P := h
theorem Dev.Has.conclude {s : Dev} (h : s.Has Formed) {a : Acc} {status result flags : Nat} {hm : Option Bytes} :
    (s.conclude a status result flags hm).Has Formed := by
  unfold Dev.conclude
  exact h.update.setCring.flush.count

theorem Dev.Has.settle {n : Nat} {s : Dev} (h : s.Has Formed) : (Dev.settle n s).Has Formed := by
  induction n generalizing s with
  | zero => exact h
  | succ n ih =>
    unfold Dev.settle
    split
    · exact ih h.conclude
    · exact h

theorem Dev.Has.settleAll {s : Dev} (h : s.Has Formed) : s.settleAll.Has Formed := by
  unfold Dev.settleAll
  exact h.settle

theorem Dev.Has.complete {s : Dev} (h : s.Has Formed) {a : Acc} {status result flags : Nat} {hm : Option Bytes} :
    (s.complete a status result flags hm).Has Formed := by
  unfold Dev.complete
  exact h.conclude.settleAll

theorem Dev.Has.setStage {s : Dev} (h : s.Has Formed) {q : Nat} {st : Stage} : (s.setStage q st).Has Formed := by
  unfold Dev.setStage
  exact h.update.settleAll

theorem Dev.Has.runWith {s : Dev} (h : s.Has P) {d : Desc} {row : Nat} {run bad : Acc → Dev → Dev} (on_run : ∀ (a : Acc) (t : Dev), t.Has P → (run a t).Has P)
    (on_bad : ∀ (a : Acc) (t : Dev), t.Has P → (bad a t).Has P) :
    (s.runWith d row run bad).Has P := by
  unfold Dev.runWith
  split
  · exact h
  · split
    · exact h
    · exact .ite h (.ite (on_run _ _ h) (on_bad _ _ h))

theorem Dev.Has.runDesc {s : Dev} (h : s.Has Formed) {d : Desc} {row : Nat} {run : Acc → Dev → Dev}
    (on_run : ∀ (a : Acc) (t : Dev), t.Has Formed → (run a t).Has Formed) :
    (s.runDesc d row run).Has Formed := by
  unfold Dev.runDesc
  exact h.runWith (fun _ _ k => on_run _ _ k) (fun _ _ k => k.complete)

theorem Dev.Has.nopOp {s : Dev} (h : s.Has Formed) {a : Acc} : (Dev.nopOp a s).Has Formed := by
  unfold Dev.nopOp
  exact h.complete

theorem Dev.Has.fenceOp {s : Dev} (h : s.Has Formed) {a : Acc} : (Dev.fenceOp a s).Has Formed := by
  unfold Dev.fenceOp
  split
  · exact h.complete
  · exact .ite h.complete h.setStage

theorem Dev.Has.applyDq {s : Dev} (h : s.Has Formed) {f n : Nat} {x : DRing × Bool} : (Dev.applyDq f s n x).Has Formed := by
  unfold Dev.applyDq
  exact .ite (.rerr (.ite h.setDring.writeAcc h.setDring)) (.ite h.setDring.writeAcc h.setDring)

theorem Dev.Has.applyCq {s : Dev} (h : s.Has Formed) {f c : Nat} {x : CRing × Bool} : (Dev.applyCq f s c x).Has Formed := by
  unfold Dev.applyCq
  exact .ite h.setCring.flush.rerr h.setCring.flush

theorem Dev.Has.loadOp {s : Dev} (h : s.Has Formed) {f : Nat} : (s.loadOp f).Has Formed := by
  unfold Dev.loadOp
  split
  · exact h
  · split
    · exact h.ringFault
    · exact .foldl (fun _ _ k => k.applyDq) (.foldl (fun _ _ k => k.applyCq) h.count)

theorem Dev.Has.retryHeld {s : Dev} (h : s.Has Formed) {f : Nat} : (s.retryHeld f).Has Formed := by
  unfold Dev.retryHeld
  exact .settleAll (.foldl (fun _ _ k => k.flush) (.foldl (fun _ _ k => .ite k.writeAcc k) h))

theorem Dev.Has.acceptBatch {n : Nat} {s : Dev} (h : s.Has P) {f q : Nat} : (Dev.acceptBatch f q n s).Has P := by
  induction n generalizing s with
  | zero => exact h
  | succ n ih =>
    unfold Dev.acceptBatch
    dsimp only
    split
    · exact h.ringFault
    · exact ih h.accept.count

theorem Dev.Has.pollRing {s : Dev} (h : s.Has Formed) {f : Nat} {page : Bytes} {q : Nat} : (Dev.pollRing f page s q).Has Formed := by
  unfold Dev.pollRing
  exact .ite h (.ite h.rerr (.ite h.rerr (.ite h (.settleAll (.ite h.acceptBatch.writeAcc.setFn h.acceptBatch.writeAcc)))))

theorem Dev.Has.pollOp {s : Dev} (h : s.Has Formed) {f : Nat} : (s.pollOp f).Has Formed := by
  unfold Dev.pollOp
  split
  · exact h
  · dsimp only
    split
    · exact h.retryHeld.count.setFn.ringFault
    · exact .foldl (fun _ _ k => .ite k.pollRing k) h.retryHeld.count.setFn.count.setFn

theorem Dev.Has.wakeOp {s : Dev} (h : s.Has P) {f : Nat} : (s.wakeOp f).Has P := by
  unfold Dev.wakeOp
  exact .ite h (.ite h.count.setFn h.count)

theorem Dev.Has.modTimeOp {s : Dev} (h : s.Has P) {f c : Nat} : (s.modTimeOp f c).Has P := by
  unfold Dev.modTimeOp
  dsimp only
  split
  · exact .ite h.setCring.trigger h
  · exact h

theorem Dev.Has.msixPendingOp {s : Dev} (h : s.Has P) {f v : Nat} : (s.msixPendingOp f v).Has P := by
  unfold Dev.msixPendingOp
  exact .ite h.setPba.msi h

/-! Suspension and the wheel (R261 to R282) -/

theorem Dev.Has.setPlain {s : Dev} (h : s.Has P) {p : Nat} {x : Plain} : (s.setPlain p x).Has P := h
theorem Dev.Has.markLink {s : Dev} (h : s.Has P) : s.markLink.Has P := by
  unfold Dev.markLink
  exact .ite h h.update

theorem Dev.Has.cause {s : Dev} (h : s.Has P) {b : Nat} {on : Bool} : (s.cause b on).Has P := by
  unfold Dev.cause
  exact .ite h.suspend h.unsuspend

theorem Dev.Has.refreshSusp {s0 : Dev} (h : s0.Has P) : s0.refreshSusp.Has P := by
  unfold Dev.refreshSusp
  exact h.markLink.uncover.cause.cause

theorem Dev.Has.refreshIdle {s : Dev} (h : s.Has P) : s.refreshIdle.Has P := by
  unfold Dev.refreshIdle
  exact .foldl (fun _ _ k => .ite (.ite k.setPlain k) k.setPlain) h

theorem Dev.Has.wakePlain {s : Dev} (h : s.Has P) {p : Nat} : (s.wakePlain p).Has P := by
  unfold Dev.wakePlain
  exact .ite h.setPlain.trace h

theorem Dev.Has.gatePlain {s : Dev} (h : s.Has P) {p : Nat} : (s.gatePlain p).Has P := by
  unfold Dev.gatePlain
  exact h.trace.setPlain.count

theorem Dev.Has.soft {s : Dev} (h : s.Has P) {e : BitVec 64} : (s.soft e).Has P := h

/-! Clocks and gating (R395 to R408) -/

theorem Dev.Has.tickPlain {s : Dev} (h : s.Has P) {stalls : Nat → Nat} {p : Nat} : (s.tickPlain stalls p).Has P := by
  unfold Dev.tickPlain
  exact .ite h (.ite (.ite h.setPlain.count.count.count h.setPlain.count.count) h.setPlain)

/-! Contracts (R258 to R271) -/

theorem Dev.Has.wakeSeats {s : Dev} (h : s.Has P) {xs : List Seat} : (s.wakeSeats xs).Has P := by
  unfold Dev.wakeSeats
  exact .foldl (fun _ _ k => .ite k.wakePlain k) h

theorem Dev.Has.seatsChanged {s : Dev} (h : s.Has P) : s.seatsChanged.Has P := by
  unfold Dev.seatsChanged
  exact h.refreshSusp.refreshIdle

theorem Dev.Has.contractFail {s : Dev} (h : s.Has Formed) {a : Acc} {cpb status reason : Nat} : (s.contractFail a cpb status reason).Has Formed := by
  unfold Dev.contractFail
  split
  next eq =>
    exact (h.hostWrite eq).complete
  · exact h.dataFault.complete

theorem Dev.Has.contractOpenOp {s : Dev} (h : s.Has Formed) {a : Acc} : (Dev.contractOpenOp a s).Has Formed := by
  unfold Dev.contractOpenOp
  dsimp only
  split
  · exact h.complete
  · split
    · exact h.dataFault.contractFail
    · split
      · exact h.count.contractFail
      · split
        · exact h.count.contractFail
        · split
          · exact h.count.count.contractFail
          · split
            · exact h.count.count.contractFail
            · split
              · exact h.count.dataFault.complete
              next eq =>
                exact (((((h.count.hostWrite eq).update).wakeSeats).seatsChanged).count).complete

theorem Dev.Has.dropContract {s : Dev} (h : s.Has P) {n : Nat} : (s.dropContract n).Has P := by
  unfold Dev.dropContract
  exact h.update.seatsChanged

theorem Dev.Has.contractCloseOp {s : Dev} (h : s.Has Formed) {a : Acc} : (Dev.contractCloseOp a s).Has Formed := by
  unfold Dev.contractCloseOp
  dsimp only
  split
  · exact h.complete
  · exact .ite h.complete (.ite h.complete h.dropContract.complete)

/-! Spares and repair (R374 to R386) -/

theorem Dev.Has.fuseErr {s : Dev} (h : s.Has P) : s.fuseErr.Has P := by
  unfold Dev.fuseErr
  exact h.sticky

theorem Dev.Has.markBad {s : Dev} (h : s.Has P) {p pos : Nat} : (s.markBad p pos).Has P := by
  unfold Dev.markBad
  exact .sticky (.ite (.ite h h.setPlain) (.soft (.ite h h.setPlain)))

theorem Dev.Has.applyRepair {s : Dev} (h : s.Has P) {soft : Bool} {v : Nat} : (Dev.applyRepair soft s v).Has P := by
  unfold Dev.applyRepair
  split
  · exact h.markBad
  · dsimp only
    split
    · exact .ite h.fuseErr h.setPlain
    · exact h
    · exact h
    · exact h
    · exact h
    · exact h
    · exact h
    · exact h
    · exact .ite h h.setPlain
    · exact h

theorem Dev.Has.applyRecord {s : Dev} (h : s.Has P) {rs : List (BitVec 64)} {i : Nat} : (Dev.applyRecord rs s i).Has P := by
  unfold Dev.applyRecord
  exact .ite h (.ite h.fuseErr h.applyRepair)

theorem Dev.Has.buildRepair {s : Dev} (h : s.Has P) {f : Fuses} : (s.buildRepair f).Has P := by
  unfold Dev.buildRepair
  exact .foldl (fun _ _ k => k.applyRepair) (.foldl (fun _ _ k => k.applyRecord) (.foldl (fun _ _ k => k.applyRepair) h))

theorem Dev.Has.placeTile {s : Dev} (h : s.Has P) {p n : Nat} {t : Dev} (eq : s.placeTile p n = some t) : t.Has P := by
  obtain ⟨_, _, rfl⟩ := Option.map_eq_some_iff.1 eq
  exact h.setPlain.soft

theorem Dev.Has.serveLost {n : Nat} {s : Dev} (h : s.Has P) {p : Nat} : (Dev.serveLost p n s).Has P := by
  induction n generalizing s with
  | zero => exact h
  | succ n ih =>
    unfold Dev.serveLost
    split
    · exact h
    · split
      next eq => exact ih (h.placeTile eq)
      next => exact h

theorem Dev.Has.freed {s : Dev} (h : s.Has P) {p : Nat} : (s.freed p).Has P := by
  unfold Dev.freed
  exact h.serveLost

theorem Dev.Has.softFix {s : Dev} (h : s.Has P) {p pos v : Nat} : (s.softFix p pos v).Has P := by
  unfold Dev.softFix
  exact .ite h.markBad h.applyRepair.soft

theorem Dev.Has.testWithdrawn {s : Dev} (h : s.Has P) {p pos : Nat} : (s.testWithdrawn p pos).Has P := by
  unfold Dev.testWithdrawn
  split
  next eq =>
    split
    · exact (h.draw.snd eq).freed
    · exact ((h.draw.snd eq).softFix).freed
    · exact (h.draw.snd eq).markBad

theorem Dev.Has.replaceTile {s : Dev} (h : s.Has P) {p t0 : Nat} : (s.replaceTile p t0).1.Has P := by
  unfold Dev.replaceTile
  split
  next eq =>
    exact h.placeTile eq
  · dsimp only
    exact h.setPlain.sticky

theorem Dev.Has.loseEngine {s : Dev} (h : s.Has P) {n : Nat} : (s.loseEngine n).1.Has P := by
  unfold Dev.loseEngine
  dsimp only
  split
  · exact h.sticky.update.soft
  · exact h.sticky.update.soft.sticky

theorem Dev.Has.bootRim {s : Dev} (h : s.Has P) {r0 : Nat} : (s.bootRim r0).Has P := by
  unfold Dev.bootRim
  dsimp only
  split
  · exact .ite h.sticky.update.soft (.ite h.sticky h.sticky.setPlain.sticky)
  · split
    · exact h.sticky.update.setPlain.sticky
    · exact h.sticky.update

theorem Dev.Has.bootLane {s : Dev} (h : s.Has P) {l lane : Nat} : (s.bootLane l lane).Has P := by
  unfold Dev.bootLane
  dsimp only
  split
  · exact .ite h h.update.sticky
  · exact h.update.soft.sticky

theorem Dev.Has.repairHbmLane {s : Dev} (h : s.Has P) {stack channel lane : Nat} : (s.repairHbmLane stack channel lane).Has P := by
  unfold Dev.repairHbmLane
  exact h.sticky.soft.update

theorem Dev.Has.bootTests {s : Dev} (h : s.Has P) {b : BootTests} : (s.bootTests b).Has P := by
  unfold Dev.bootTests
  dsimp only
  refine .foldl (fun t x k => ?_) ?_
  · exact k.repairHbmLane
  · refine .foldl (fun t x k => ?_) ?_
    · exact k.bootLane
    · refine .foldl (fun t x k => ?_) ?_
      · exact k.bootRim
      · refine .foldl (fun t x k => ?_) ?_
        · exact k.loseEngine
        · refine .foldl (fun t x k => ?_) ?_
          · split
            · exact k.markBad.replaceTile
            · exact k.markBad
          · exact h

theorem Dev.Has.testState {s : Dev} (h : s.Has P) {st : Nat} : (s.testState st).Has P := h
theorem Dev.Has.testOver {s : Dev} (h : s.Has P) {st : Nat} : (s.testOver st).Has P := h
theorem Dev.Has.testRuns {s : Dev} (h : s.Has P) {t0 : Test} : (s.testRuns t0).Has P := h
theorem Dev.Has.testTile {s : Dev} (h : s.Has P) {t0 : Test} : (s.testTile t0).Has P := by
  unfold Dev.testTile
  exact h.setPlain.wakePlain.testRuns.refreshIdle

theorem Dev.Has.withdrawTile {s : Dev} (h : s.Has P) {t0 : Test} : (s.withdrawTile t0).Has P := by
  unfold Dev.withdrawTile
  split
  · exact h.testTile
  · split
    next eq =>
      exact (h.placeTile eq).testTile
    · exact h

theorem Dev.Has.withdrawFor {s : Dev} (h : s.Has P) {tiles : List Nat} : (s.withdrawFor tiles).Has P := by
  unfold Dev.withdrawFor
  split
  · split
    · exact .ite h.withdrawTile h
    · exact h
  · exact h

theorem Dev.Has.withdrawEngine {s : Dev} (h : s.Has P) {t0 : Test} : (s.withdrawEngine t0).Has P := by
  unfold Dev.withdrawEngine
  split
  · exact .ite h.update.testRuns h.testOver

theorem Dev.Has.engineIdle {s : Dev} (h : s.Has P) {i : Nat} : (s.engineIdle i).Has P := by
  unfold Dev.engineIdle
  split
  · exact .ite h.withdrawEngine h
  · exact h

theorem Dev.Has.settlePlaces {s : Dev} (h : s.Has P) : s.settlePlaces.Has P := by
  unfold Dev.settlePlaces
  exact .foldl (fun _ _ k => .foldl (fun _ _ k => k.replaceTile) k) h

/-! COPY2D and the lossless engines (R303 to R319) -/

theorem Dev.Has.freeBytes {s : Dev} (h : s.Has P) {n : Nat} : (s.freeBytes n).2.Has P := h
theorem Dev.Has.putSpace {s : Dev} (h : s.Has Formed) {space : Bool} {a : Nat} {b : Bytes} : (s.putSpace space a b).Has Formed := by
  unfold Dev.putSpace
  exact .ite h.putDev h.putHost

theorem Dev.Has.putRows {l : List Bytes} {s : Dev} (h : s.Has Formed) {space : Bool} {a st : Int} {r : Nat} :
    (s.putRows space a st l r).Has Formed := by
  induction l generalizing s r with
  | nil => exact h
  | cons x l ih => exact ih h.putSpace

theorem Dev.Has.copyRow {c : Copy} {src : Mem} {x : Dev × Bool} (h : x.1.Has Formed) {r : Nat} : (Dev.copyRow c src x r).1.Has Formed := by
  unfold Dev.copyRow
  split
  · exact h
  · split
    · exact h.putSpace
    · exact .foldl (fun _ _ k => k.putSpace) h

theorem Dev.Has.copyRows {s : Dev} (h : s.Has Formed) {c : Copy} : (s.copyRows c).1.Has Formed :=
  foldl_pair (fun _ _ k => Dev.Has.copyRow k) h

theorem Dev.Has.stagedPart {l : List Bytes} {s : Dev} (h : s.Has Formed) {c : Copy} {r : Nat} : (Dev.stagedPart c s l r).Has Formed := by
  induction l generalizing s r with
  | nil => exact h
  | cons x l ih =>
    refine ih ?_
    exact .foldl (fun _ _ k => .ite k.putSpace k) (h.freeBytes (n := x.length))

theorem Dev.Has.writeStaged {s : Dev} (h : s.Has Formed) {c : Copy} {rows : List Bytes} : (s.writeStaged c rows).1.Has Formed := by
  unfold Dev.writeStaged
  split
  · exact h.stagedPart
  · exact h.putRows

theorem Dev.Has.copySent {s : Dev} (h : s.Has P) {c : Copy} : (s.copySent c).Has P := by
  unfold Dev.copySent
  exact .ite h h.count

theorem Dev.Has.copyOp {s : Dev} (h : s.Has Formed) {a : Acc} {reserved free : Nat} : (s.copyOp a reserved free).Has Formed := by
  unfold Dev.copyOp
  dsimp only
  split
  · exact h.complete
  · split
    · exact h.complete
    · split
      · exact h
      · split
        · split
          · exact .ite h.count.copySent.complete h.count.dataFault.complete
          · exact .ite h.count.writeStaged.copySent.complete h.count.writeStaged.dataFault.complete
        · exact .ite h.copyRows.copySent.complete h.copyRows.dataFault.complete

theorem Dev.Has.setLle {s : Dev} (h : s.Has P) {e : Nat} {x : Lle} : (s.setLle e x).Has P := h
theorem Dev.Has.bump {s : Dev} (h : s.Has P) {a n : Nat} : (s.bump a n).Has P := h
theorem Dev.Has.llFail {s : Dev} (h : s.Has Formed) {a : Acc} {status : Nat} : (s.llFail a status).Has Formed := by
  unfold Dev.llFail
  split
  next eq =>
    exact .complete (.count (.bump (.ite ((h.freeBytes.snd eq).putSpace) (((h.freeBytes.snd eq).putSpace).bump))))

theorem Dev.Has.llRun {s : Dev} (h : s.Has Formed) {a : Acc} : (s.llRun a).Has Formed := by
  unfold Dev.llRun
  dsimp only
  split
  · exact h.dataFault.llFail
  · split
    · exact .llFail (.ite h.count.dataFault h.count)
    · split
      · exact h.count.dataFault.llFail
      next eq =>
        exact ((((h.count.writeSpace eq).count).bump).count).complete

theorem Dev.Has.llOp {s : Dev} (h : s.Has Formed) {comp : Bool} {a : Acc} : (Dev.llOp comp a s).Has Formed := by
  unfold Dev.llOp
  split
  · exact h.complete
  · split
    · exact h
    · split
      · exact h.llRun
      · split
        · exact h.setLle.setStage.count
        · exact h

theorem Dev.Has.llSuspendOp {s : Dev} (h : s.Has P) {e : Nat} : (s.llSuspendOp e).Has P := by
  unfold Dev.llSuspendOp
  exact .ite h (.ite h.setLle.count h.setLle)

theorem Dev.Has.llResumeOp {s : Dev} (h : s.Has Formed) {e : Nat} : (s.llResumeOp e).Has Formed := by
  unfold Dev.llResumeOp
  dsimp only
  split
  · exact h
  · split
    · exact h
    · split
      · exact h.setLle.llRun
      · exact h

end

end Sys2Proof.Machine
end

section
/-!
What the operations on streams do to host and device memory: each keeps what holds of the two memories, or, where it writes one, their canonical
form.
-/
namespace Sys2Proof.Machine

section
variable {P : Mem → Mem → Prop}

/-! The frame pool (R214 to R219) -/

theorem Dev.Has.setBuf {s : Dev} (h : s.Has P) {i : Nat} {b : Buf} : (s.setBuf i b).Has P := h
theorem Dev.Has.freeBuf {s : Dev} (h : s.Has P) {i : Nat} : (s.freeBuf i).Has P := h
theorem Dev.Has.takeBuf {s : Dev} (h : s.Has P) {i : Nat} {x : Stream} {output : Bool} {r : Nat × Dev} (eq : s.takeBuf i x output = some r) :
    r.2.Has P := by
  unfold Dev.takeBuf at eq
  dsimp only at eq
  by_cases full : (s.media.pool.filter fun e => e.2.stream == some i && e.2.state != .free && e.2.output == output).length ≥
    (if output then x.outSpans else x.featSpans).length
  · rw [if_pos full] at eq
    cases eq
  · rw [if_neg full] at eq
    obtain ⟨_, _, rfl⟩ := Option.map_eq_some_iff.1 eq
    exact h.setBuf

theorem Dev.Has.unpin {s : Dev} (h : s.Has P) {i : Nat} : (s.unpin i).Has P := by
  unfold Dev.unpin
  exact .ite h.freeBuf h.setBuf

theorem Dev.Has.releaseBuf {s : Dev} (h : s.Has P) {i : Nat} : (s.releaseBuf i).Has P := by
  unfold Dev.releaseBuf
  exact .ite h.freeBuf h.setBuf

theorem Dev.Has.poolDone {s : Dev} (h : s.Has Formed) {a : Acc} {handle : Nat} {state : BufState} {base : Nat} :
    (s.poolDone a handle state base).Has Formed := by
  unfold Dev.poolDone
  dsimp only
  split
  · exact h.complete
  · split
    next eq =>
      exact (h.hostWrite eq).complete
    · exact h.dataFault.complete

theorem Dev.Has.poolAllocOp {s : Dev} (h : s.Has Formed) {a : Acc} : (Dev.poolAllocOp a s).Has Formed := by
  unfold Dev.poolAllocOp
  split
  · exact h.complete
  · dsimp only
    split
    · exact .ite h.complete h.setBuf.poolDone
    · exact h.complete

theorem Dev.Has.poolTakeOp {s : Dev} (h : s.Has Formed) {a : Acc} : (Dev.poolTakeOp a s).Has Formed := by
  unfold Dev.poolTakeOp
  split
  · exact .ite h.setBuf.poolDone h.complete
  · exact h.complete

theorem Dev.Has.poolDiscardOp {s : Dev} (h : s.Has Formed) {a : Acc} : (Dev.poolDiscardOp a s).Has Formed := by
  unfold Dev.poolDiscardOp
  split
  · exact .ite h.freeBuf.poolDone h.complete
  · exact h.complete

theorem Dev.Has.poolReleaseOp {s : Dev} (h : s.Has Formed) {a : Acc} : (Dev.poolReleaseOp a s).Has Formed := by
  unfold Dev.poolReleaseOp
  split
  · exact .ite h.releaseBuf.poolDone h.complete
  · exact h.complete

/-! Streams and jobs (R217 to R293) -/

theorem Dev.Has.setStream {s : Dev} (h : s.Has P) {n : Nat} {x : Stream} : (s.setStream n x).Has P := h
theorem Dev.Has.modStream {s : Dev} (h : s.Has P) {n : Nat} {f : Stream → Stream} : (s.modStream n f).Has P := by
  unfold Dev.modStream
  split <;> exact h

theorem Dev.Has.modSeat {s : Dev} (h : s.Has P) {n k : Nat} {f : Seat → Seat} : (s.modSeat n k f).Has P := h
theorem Dev.Has.streamOpenOp {s : Dev} (h : s.Has Formed) {a : Acc} : (Dev.streamOpenOp a s).Has Formed := by
  unfold Dev.streamOpenOp
  dsimp only
  split
  · exact h.complete
  · split
    · exact h.complete
    · split
      · exact h.dataFault.complete
      · split
        all_goals
          split
          · exact h.count.complete
          · split
            · exact h.count.complete
            · split
              · exact h.count.complete
              · split
                · exact h.count.complete
                · split
                  · exact h.count.complete
                  · exact h.count.setStream.modSeat.complete

theorem Dev.Has.refreshStreams {s : Dev} (h : s.Has P) : s.refreshStreams.Has P := by
  unfold Dev.refreshStreams
  exact h.cause.cause.cause.cause

theorem Dev.Has.waitRoom {s : Dev} (h : s.Has P) {n q : Nat} : (s.waitRoom n q).Has P := by
  unfold Dev.waitRoom
  exact h.modStream.uncover.refreshStreams

theorem Dev.Has.gotRoom {s : Dev} (h : s.Has P) {n : Nat} : (s.gotRoom n).Has P := by
  unfold Dev.gotRoom
  exact h.modStream

theorem Dev.Has.addJob {s : Dev} (h : s.Has Formed) {n : Nat} {x : Stream} {a : Acc} : (s.addJob n x a).Has Formed := by
  unfold Dev.addJob
  exact h.setStream.setStage

theorem Dev.Has.rejectJob {s : Dev} (h : s.Has Formed) {n : Nat} {x : Stream} {a : Acc} {st : Nat} : (s.rejectJob n x a st).Has Formed := by
  unfold Dev.rejectJob
  exact h.setStream.setStage

theorem Dev.Has.withStream {s : Dev} (h : s.Has Formed) {a : Acc} {f : Nat → Stream → Dev} (on_f : ∀ (n : Nat) (x : Stream), (f n x).Has Formed) :
    (s.withStream a f).Has Formed := by
  unfold Dev.withStream
  dsimp only
  split
  · exact h.complete
  · exact .ite h.complete (.ite h (on_f _ _))

theorem Dev.Has.onStream {s : Dev} (h : s.Has Formed) {a : Acc} {f : Nat → Stream → Dev} (on_f : ∀ (n : Nat) (x : Stream), (f n x).Has Formed) :
    (s.onStream a f).Has Formed := by
  refine h.withStream fun n x => ?_
  split
  · exact h.rejectJob
  · exact on_f _ _

theorem Dev.Has.endJob {s : Dev} (h : s.Has Formed) {n : Nat} {j : Job} {flags : Nat} : (s.endJob n j flags).Has Formed := by
  unfold Dev.endJob
  split
  · exact h.setStream.complete
  · exact h
  · exact h

theorem Dev.Has.writeStats {s : Dev} (h : s.Has Formed) {n q : Nat} {st : SMap RecStat} : (s.writeStats n q st).Has Formed := by
  unfold Dev.writeStats
  split
  · split
    · exact h
    · split
      · split
        · exact h
        · dsimp only
          split
          all_goals
            split
            · exact h.modStream
            · split
              next eq =>
                exact h.modStream.writeSpace eq
              · exact h.modStream.dataFault.modStream
  · exact h

theorem Dev.Has.jobFault {s : Dev} (h : s.Has P) {n q : Nat} : (s.jobFault n q).Has P := by
  unfold Dev.jobFault
  dsimp only
  refine .modStream ?_
  split
  · exact h.dataFault
  · exact h

theorem Dev.Has.modUnit {s : Dev} (h : s.Has P) {n k : Nat} {f : MUnit → MUnit} : (s.modUnit n k f).Has P := by
  unfold Dev.modUnit
  exact h.modStream

theorem Dev.Has.deliver {s : Dev} (h : s.Has P) {n k : Nat} : (s.deliver n k).Has P := by
  unfold Dev.deliver
  split
  · exact h
  · split
    · exact h
    · exact h.trace.setStream

theorem Dev.Has.addUnit {s : Dev} (h : s.Has P) {n : Nat} {u : MUnit} : (s.addUnit n u).Has P := by
  unfold Dev.addUnit
  exact h.modStream

/-! Units of a stream (R155 to R173, R212, R213) -/

theorem Dev.Has.tallyExec {s : Dev} (h : s.Has P) {x : Stream} {e : Exec} : (s.tallyExec x e).Has P := by
  unfold Dev.tallyExec
  exact .foldl (fun _ _ k => k.count) h

theorem Dev.Has.putUnit {s : Dev} (h : s.Has P) {n : Nat} {x : Stream} {u : MUnit} : (s.putUnit n x u).Has P := h
theorem Dev.Has.runBase {s : Dev} (h : s.Has P) {n : Nat} {x : Stream} {u : MUnit} {phase : Nat} {rs : List (Nat × Nat)} :
    (s.runBase n x u phase rs).Has P := by
  unfold Dev.runBase
  dsimp only
  exact h.putUnit.tallyExec

theorem Dev.Has.runParam {s : Dev} (h : s.Has P) {n : Nat} {x : Stream} {u : MUnit} {phase : Nat} {rs : List (Nat × Nat)} :
    (s.runParam n x u phase rs).Has P := by
  unfold Dev.runParam
  exact h.putUnit.tallyExec

theorem Dev.Has.holdEngine {s : Dev} (h : s.Has P) {i : Nat} {u : Option UnitRef} : (s.holdEngine i u).Has P := h
theorem Dev.Has.releaseEngine {s : Dev} (h : s.Has P) {n k : Nat} : (s.releaseEngine n k).Has P := by
  unfold Dev.releaseEngine
  split
  · exact h
  · split
    · exact h
    · exact h.holdEngine.modUnit.engineIdle

theorem Dev.Has.formAndPut {s : Dev} (h : s.Has P) {n k seg : Nat} : (s.formAndPut n k seg).Has P := by
  unfold Dev.formAndPut
  split
  · exact h
  · split
    · exact h
    · split
      · exact h.putUnit.bump.count

theorem Dev.Has.formAll {s : Dev} (h : s.Has P) {n k : Nat} {segs : List Nat} : (s.formAll n k segs).Has P := by
  unfold Dev.formAll
  exact .foldl (fun _ _ k => k.formAndPut) h

theorem Dev.Has.releaseOp {s : Dev} (h : s.Has P) {r0 : UnitRef} : (s.releaseOp r0).Has P := by
  unfold Dev.releaseOp
  dsimp only
  split
  · exact h
  · split
    · split
      · exact h
      · exact .ite h (.ite h.modUnit.trace (.ite h.modUnit.trace (.ite h h.modSeat.modUnit.trace)))
    · exact h

theorem Dev.Has.withUnit {s : Dev} (h : s.Has P) {n k : Nat} {f : Dev → Stream → MUnit → Dev}
    (on_f : ∀ (t : Dev) (x : Stream) (u : MUnit), t.Has P → (f t x u).Has P) :
    (s.withUnit n k f).Has P := by
  unfold Dev.withUnit
  split
  · exact h
  · split
    · exact h
    · exact on_f _ _ _ h

theorem Dev.Has.beginUnit {s : Dev} (h : s.Has P) {n : Nat} {x : Stream} {u : MUnit} : (s.beginUnit n x u).Has P := by
  unfold Dev.beginUnit
  dsimp only
  exact h.putUnit.withUnit (fun _ _ _ k => k.runBase)

theorem Dev.Has.beginCoding {s : Dev} (h : s.Has P) {n : Nat} {x : Stream} {u : MUnit} {i : Nat} : (s.beginCoding n x u i).Has P := by
  unfold Dev.beginCoding
  exact .ite h.modUnit.holdEngine (.ite h.modUnit.holdEngine.formAndPut h.modUnit.holdEngine.formAll.modUnit)

theorem Dev.Has.onEngine {s : Dev} (h : s.Has P) {n : Nat} {x : Stream} {u : MUnit} {f : Dev → Stream → MUnit → Dev}
    (on_f : ∀ (t : Dev) (x : Stream) (u : MUnit), t.Has P → (f t x u).Has P) :
    (s.onEngine n x u f).Has P := by
  unfold Dev.onEngine
  split
  · exact h
  · exact .withUnit (.ite h h.beginCoding) (fun _ _ _ k => on_f _ _ _ k)

theorem Dev.Has.idleDeparture {s : Dev} (h : s.Has P) {cn k : Nat} : (s.idleDeparture cn k).Has P := by
  unfold Dev.idleDeparture
  dsimp only
  refine .refreshStreams ?_
  refine .refreshSusp ?_
  split
  · refine .modStream ?_
    refine .count ?_
    refine .modSeat ?_
    split
    · exact h.withdrawFor
    · exact h
  · refine .count ?_
    refine .modSeat ?_
    split
    · exact h.withdrawFor
    · exact h

theorem Dev.Has.hostService {s : Dev} (h : s.Has P) {cn k : Nat} : (s.hostService cn k).Has P := by
  unfold Dev.hostService
  exact .ite h.modSeat.refreshSusp h

theorem Dev.Has.departureOp {s0 : Dev} (h : s0.Has P) {cn k : Nat} : (s0.departureOp cn k).Has P := by
  unfold Dev.departureOp
  split
  · exact h
  · split
    · exact h
    · dsimp only
      split
      · exact h
      · split
        · exact h.modSeat.idleDeparture
        · split
          · exact h.modSeat.setStream.hostService.count
          · split
            · exact .ite h.modSeat h.modSeat.idleDeparture
            · exact h.modSeat.beginUnit.hostService.count

theorem Dev.Has.contextPass {s : Dev} (h : s.Has P) {n : Nat} {x : Stream} {u : MUnit} : (Dev.contextPass n s x u).Has P := by
  unfold Dev.contextPass
  exact .ite (.formAndPut (.modUnit (.withUnit (.ite h.runParam h) (fun _ _ _ k => k.runParam))))
    (.modUnit (.withUnit (.ite h.runParam h) (fun _ _ _ k => k.runParam)))

theorem Dev.Has.contextPassOp {s : Dev} (h : s.Has P) {r0 : UnitRef} : (s.contextPassOp r0).Has P := by
  unfold Dev.contextPassOp
  split
  · exact h
  · exact .ite h (h.onEngine (fun _ _ _ k => k.contextPass))

theorem Dev.Has.endDecode {s : Dev} (h : s.Has P) {n : Nat} {u : MUnit} : (s.endDecode n u).Has P := by
  unfold Dev.endDecode
  exact .modStream (.ite h.modUnit.releaseEngine.count.count.count.bump.count h.modUnit.releaseEngine.count.count.count)

theorem Dev.Has.decodeSegment {s : Dev} (h : s.Has P) {n : Nat} {x : Stream} {u : MUnit} : (Dev.decodeSegment n s x u).Has P := by
  unfold Dev.decodeSegment
  split
  · exact .ite h.putUnit.count.endDecode h.putUnit.count

theorem Dev.Has.decodeSegmentOp {s : Dev} (h : s.Has P) {r0 : UnitRef} : (s.decodeSegmentOp r0).Has P := by
  unfold Dev.decodeSegmentOp
  split
  · exact h
  · exact .ite h (h.onEngine (fun _ _ _ k => k.decodeSegment))

theorem Dev.Has.writeCoded {s : Dev} (h : s.Has P) {n : Nat} : (s.writeCoded n).Has P := by
  unfold Dev.writeCoded
  split
  · exact h
  · exact .ite h (.foldl (fun _ _ k => k.releaseEngine) h)

theorem Dev.Has.encodeCoded {s : Dev} (h : s.Has P) {n : Nat} {x : Stream} {u : MUnit} : (Dev.encodeCoded n s x u).Has P := by
  unfold Dev.encodeCoded
  exact h.modUnit.count.count.count.count.writeCoded

theorem Dev.Has.encodeUnitOp {s : Dev} (h : s.Has P) {r0 : UnitRef} : (s.encodeUnitOp r0).Has P := by
  unfold Dev.encodeUnitOp
  split
  · exact h
  · exact .ite h (h.onEngine (fun _ _ _ k => k.encodeCoded))

theorem Dev.Has.writeOutput {s : Dev} (h : s.Has Formed) {x : Stream} {u : MUnit} : (s.writeOutput x u).Has Formed := by
  unfold Dev.writeOutput
  split
  · exact h
  · split
    · exact h
    · dsimp only
      exact .foldl (fun _ _ k => .foldl (fun _ _ k => k.putDev) k) h

theorem Dev.Has.phaseTen {s : Dev} (h : s.Has Formed) {n : Nat} {x : Stream} {u : MUnit} : (s.phaseTen n x u).Has Formed := by
  unfold Dev.phaseTen
  dsimp only
  exact (((h.putUnit.withUnit (fun _ _ _ k => k.runBase)).withUnit (fun _ _ _ k => k.setStream.writeStats)).modUnit).withUnit
    (fun _ _ _ k => .ite k k.writeOutput)

/-! Video (R211 to R239) -/

theorem Dev.Has.beginPicture {s : Dev} (h : s.Has P) {n : Nat} {x : Stream} : (s.beginPicture n x).Has P := by
  unfold Dev.beginPicture
  split
  · exact h
  · split
    · exact h
    · split
      next eq =>
        dsimp only
        exact .ite ((((h.takeBuf eq).setStream).refreshStreams).jobFault) (((h.takeBuf eq).setStream).refreshStreams)
      · exact h

theorem Dev.Has.fetchRows {s : Dev} (h : s.Has P) {n : Nat} {x : Stream} {look : Bool} : (s.fetchRows n x look).Has P := by
  unfold Dev.fetchRows
  split
  · exact h
  · split
    · exact h
    · split
      · exact h
      · dsimp only
        split
        · exact h.jobFault.modStream
        · split
          · exact h
          · split
            · exact h.jobFault.modStream
            · exact h.modStream

theorem Dev.Has.regionOp {s : Dev} (h : s.Has P) {n : Nat} : (s.regionOp n).Has P := by
  unfold Dev.regionOp
  split
  · exact h
  · split
    · exact h
    · dsimp only
      refine .modStream ?_
      refine .count ?_
      refine .count ?_
      split
      · exact h.tallyExec
      · exact h

theorem Dev.Has.feedSlices {m : Nat} {s : Dev} (h : s.Has P) {n k : Nat} : (Dev.feedSlices n m k s).Has P := by
  induction m generalizing s k with
  | zero => exact h
  | succ m ih =>
    unfold Dev.feedSlices
    split
    · exact h
    · split
      · exact h
      · exact .ite h (ih h.modStream.addUnit)

theorem Dev.Has.feedVideo {s : Dev} (h : s.Has P) {n : Nat} {look : Bool} : (s.feedVideo n look).Has P := by
  unfold Dev.feedVideo
  split
  · exact h
  · dsimp only
    split
    · exact h.beginPicture
    · exact h.beginPicture.fetchRows.modStream.feedSlices

theorem Dev.Has.queueSlice {s : Dev} (h : s.Has P) {n : Nat} {x : Stream} {p : Pic} {u : MUnit} : (s.queueSlice n x p u).Has P := h
theorem Dev.Has.queueSlices {m : Nat} {s : Dev} (h : s.Has P) {n : Nat} : (Dev.queueSlices n m s).Has P := by
  induction m generalizing s with
  | zero => exact h
  | succ m ih =>
    unfold Dev.queueSlices
    split
    · exact h
    · split
      · exact .ite (ih h.queueSlice) h
      · exact h

theorem Dev.Has.ringWrite {s : Dev} (h : s.Has Formed) {base size off : Nat} {b : Bytes} {t : Dev} (eq : s.ringWrite base size off b = some t) :
    t.Has Formed := by
  unfold Dev.ringWrite at eq
  dsimp only at eq
  split at eq
  · exact h.hostWrite eq
  · obtain ⟨u, first, second⟩ := Option.bind_eq_some_iff.1 eq
    exact (h.hostWrite first).hostWrite second

theorem Dev.Has.unitEmitOp {s : Dev} (h : s.Has Formed) {n : Nat} : (s.unitEmitOp n).Has Formed := by
  unfold Dev.unitEmitOp
  split
  · exact h
  · split
    · exact h
    · extract_lets q drop
      have dropped (u : Dev) (k : u.Has Formed) : (drop u).Has Formed := by
        dsimp only [drop]
        split
        · exact (Dev.Has.releaseEngine (.ite k.modStream.jobFault k.modStream)).deliver.writeCoded
        · exact .ite k.modStream.jobFault k.modStream
      refine .ite h ?_
      split
      · exact dropped s h
      · dsimp only
        refine .ite (.ite h.modStream h.modStream.waitRoom) ?_
        split
        · exact dropped _ h.modStream
        · next eq =>
          obtain ⟨u, bytes, counter⟩ := Option.bind_eq_some_iff.1 eq
          have written := ((h.modStream.ringWrite bytes).hostWrite counter)
          split
          · exact written.gotRoom.modStream.releaseEngine.deliver.writeCoded
          · exact written.gotRoom.modStream

theorem Dev.Has.trainOp {s : Dev} (h : s.Has P) {n : Nat} : (s.trainOp n).Has P := by
  unfold Dev.trainOp
  split
  · exact h
  · split
    · exact h
    · dsimp only
      exact .ite h h.modStream.tallyExec

theorem Dev.Has.settleFeatures {s : Dev} (h : s.Has P) {n : Nat} : (s.settleFeatures n).Has P := by
  unfold Dev.settleFeatures
  split
  · exact h
  · exact .foldl (fun _ _ k => .ite k.setBuf (.ite k.setBuf k.freeBuf)) h

theorem Dev.Has.endAccess {s : Dev} (h : s.Has P) {n q scope : Nat} {dig : Bytes} {kinds : List Nat} {chained : Bool} :
    (s.endAccess n q scope dig kinds chained).Has P := by
  unfold Dev.endAccess
  split <;> exact h

theorem Dev.Has.pictureCloseOp {s : Dev} (h : s.Has P) {n : Nat} : (s.pictureCloseOp n).Has P := by
  unfold Dev.pictureCloseOp
  split
  · exact h
  · split
    · exact h
    · split
      · exact h
      · dsimp only
        refine .refreshStreams ?_
        refine .settleFeatures ?_
        refine .modStream ?_
        split
        · refine .modStream ?_
          refine .endAccess ?_
          split <;> exact h
        · refine .modStream ?_
          refine .setBuf ?_
          refine .modStream ?_
          refine .endAccess ?_
          split <;> exact h

theorem Dev.Has.autoCopyOp {s : Dev} (h : s.Has Formed) {n : Nat} : (s.autoCopyOp n).Has Formed := by
  unfold Dev.autoCopyOp
  split
  · exact h
  · split
    · exact h
    · dsimp only
      split
      · exact h
      · split
        · exact h
        · split
          · exact h.jobFault.freeBuf.modStream
          · split
            · exact .ite h.modStream h.modStream.waitRoom
            · split
              · exact h.modStream.jobFault.freeBuf.modStream
              next eq =>
                exact (((h.modStream.hostWrite eq).gotRoom).freeBuf).modStream

theorem Dev.Has.recordOp {s : Dev} (h : s.Has Formed) {n size : Nat} {entry : Stream → RecOut → Bytes} : (s.recordOp n size entry).Has Formed := by
  unfold Dev.recordOp
  split
  · exact h
  · split
    · exact h
    · refine .ite h ?_
      extract_lets drop
      have dropped (u : Dev) (k : u.Has Formed) : (drop u).Has Formed := by
        dsimp only [drop]
        split
        · exact k.modStream.jobFault.deliver
        · exact k.modStream.jobFault
      split
      · exact dropped s h
      · dsimp only
        refine .ite (.ite h.modStream h.modStream.waitRoom) ?_
        split
        · exact dropped _ h.modStream
        · next eq =>
          obtain ⟨u, bytes, counter⟩ := Option.bind_eq_some_iff.1 eq
          have written := ((h.modStream.hostWrite bytes).hostWrite counter)
          split
          · exact written.gotRoom.modStream.deliver
          · exact written.gotRoom.modStream

theorem Dev.Has.pictureRecordOp {s : Dev} (h : s.Has Formed) {n : Nat} : (s.pictureRecordOp n).Has Formed := by
  unfold Dev.pictureRecordOp
  split
  · exact h
  · exact .ite h h.recordOp

theorem Dev.Has.encPictureJob {s : Dev} (h : s.Has Formed) {a : Acc} : (Dev.encPictureJob a s).Has Formed := by
  unfold Dev.encPictureJob
  exact h.onStream (fun _ _ => .ite h.rejectJob (.addJob (.ite h.setBuf h)))

theorem Dev.Has.endSource {s : Dev} (h : s.Has P) {q : Nat} : (s.endSource q).Has P := by
  unfold Dev.endSource
  split
  · exact h
  · exact .ite (.unpin (.ite h.setBuf h)) h

/-! Decoding a unit sequence (R198 to R209) -/

theorem Dev.Has.modJob {s : Dev} (h : s.Has P) {n q : Nat} {f : Job → Job} : (s.modJob n q f).Has P := by
  unfold Dev.modJob
  exact h.modStream

theorem Dev.Has.malformed {s : Dev} (h : s.Has P) {n q : Nat} : (s.malformed n q).Has P := by
  unfold Dev.malformed
  exact h.modJob

theorem Dev.Has.skipUnit {s : Dev} (h : s.Has P) {n q : Nat} : (s.skipUnit n q).Has P := by
  unfold Dev.skipUnit
  exact h.modJob

theorem Dev.Has.touch {s : Dev} (h : s.Has P) {n q : Nat} : (s.touch n q).Has P := by
  unfold Dev.touch
  exact h.modJob

theorem Dev.Has.dropHeld {s : Dev} (h : s.Has P) {n q : Nat} : (s.dropHeld n q).Has P := by
  unfold Dev.dropHeld
  split
  · exact h
  · exact h.modStream.malformed

theorem Dev.Has.failStream {s : Dev} (h : s.Has P) {n q st : Nat} : (s.failStream n q st).Has P := by
  unfold Dev.failStream
  exact h.modStream.modJob

theorem Dev.Has.bindHeader {s : Dev} (h : s.Has P) {n q : Nat} : (s.bindHeader n q).Has P := by
  unfold Dev.bindHeader
  split
  · exact h
  · dsimp only
    split
    · exact h.failStream
    · split
      · exact .ite h.failStream h.modJob
      · exact .ite h.failStream (.ite h.failStream h.modStream)

theorem Dev.Has.acceptHeader {s : Dev} (h : s.Has P) {n q : Nat} {x : Stream} {p : Bytes} : (s.acceptHeader n q x p).Has P := by
  unfold Dev.acceptHeader
  exact .ite h.malformed (.ite h.touch.modStream h.touch.modStream.bindHeader)

theorem Dev.Has.acceptModel {s : Dev} (h : s.Has P) {n q : Nat} {x : Stream} {p : Bytes} : (s.acceptModel n q x p).Has P := by
  unfold Dev.acceptModel
  exact .ite h.malformed h.touch.modStream

theorem Dev.Has.acceptAdapter {s : Dev} (h : s.Has P) {n q : Nat} {x : Stream} {u p : Bytes} : (s.acceptAdapter n q x u p).Has P := by
  unfold Dev.acceptAdapter
  split
  · exact h.malformed
  · split
    · exact h.malformed
    · exact h.touch.modStream

theorem Dev.Has.missSlices {m : Nat} {s : Dev} (h : s.Has P) {n q k : Nat} : (Dev.missSlices n q m k s).Has P := by
  induction m generalizing s with
  | zero => exact h
  | succ m ih =>
    unfold Dev.missSlices
    split
    · exact h
    · split
      · exact h
      · exact .ite h (ih h.addUnit.modStream.modJob)

theorem Dev.Has.closeSlices {s : Dev} (h : s.Has P) {n q : Nat} : (s.closeSlices n q).Has P := by
  unfold Dev.closeSlices
  split
  · exact h
  · exact .ite h h.missSlices.modStream

theorem Dev.Has.discardPicture {s : Dev} (h : s.Has P) {n q : Nat} : (s.discardPicture n q).Has P := by
  unfold Dev.discardPicture
  exact h.dropHeld.closeSlices.malformed

theorem Dev.Has.acceptPicture {s : Dev} (h : s.Has P) {n q : Nat} {x : Stream} {u p : Bytes} : (s.acceptPicture n q x u p).1.Has P := by
  unfold Dev.acceptPicture
  split
  · exact h.discardPicture
  · split
    · exact h.closeSlices
    · dsimp only
      split
      · exact h
      next eq =>
        split
        · exact .ite h h.waitRoom
        next eq' =>
          exact .modStream (.gotRoom (.ite (((h.touch.takeBuf eq).takeBuf eq').malformed) ((h.touch.takeBuf eq).takeBuf eq')))

theorem Dev.Has.acceptSlice {s : Dev} (h : s.Has P) {n q : Nat} {x : Stream} {u p : Bytes} : (s.acceptSlice n q x u p).Has P := by
  unfold Dev.acceptSlice
  split
  · exact h.malformed
  · split
    · dsimp only
      split
      · exact h.malformed
      · exact .ite h.malformed h.touch.missSlices.addUnit.modStream

theorem Dev.Has.acceptFrame {s : Dev} (h : s.Has P) {n q : Nat} {x : Stream} {u p : Bytes} : (s.acceptFrame n q x u p).Has P := by
  unfold Dev.acceptFrame
  exact .ite h.malformed h.touch.addUnit.modStream.modJob

theorem Dev.Has.acceptBlock {s : Dev} (h : s.Has P) {n q : Nat} {x : Stream} {u p : Bytes} : (s.acceptBlock n q x u p).Has P := by
  unfold Dev.acceptBlock
  split
  · dsimp only
    split
    · exact h.malformed
    · split
      · exact h.malformed
      · exact h.touch.addUnit.modStream

theorem Dev.Has.acceptHallmark {s : Dev} (h : s.Has P) {n q : Nat} {x : Stream} {p : Bytes} : (s.acceptHallmark n q x p).Has P := by
  unfold Dev.acceptHallmark
  exact .ite h.touch h.malformed

theorem Dev.Has.acceptEnd {s : Dev} (h : s.Has P) {n q : Nat} {p : Bytes} : (s.acceptEnd n q p).Has P := by
  unfold Dev.acceptEnd
  exact .ite h.malformed h.touch.closeSlices.modStream.modJob

theorem Dev.Has.acceptUnit {s0 : Dev} (h : s0.Has P) {n q : Nat} {u : Bytes} : (s0.acceptUnit n q u).1.Has P := by
  unfold Dev.acceptUnit
  dsimp only
  split
  · exact .ite h h.dropHeld
  · split
    · exact .skipUnit (.ite h h.dropHeld)
    · split
      · exact .ite (.discardPicture (.ite h h.dropHeld)) (.malformed (.ite h h.dropHeld))
      · split
        · exact .acceptHeader (.ite h h.dropHeld)
        · split
          · exact .ite (.skipUnit (.ite h h.dropHeld)) (.malformed (.ite h h.dropHeld))
          · split
            · exact .acceptModel (.ite h h.dropHeld)
            · exact .acceptAdapter (.ite h h.dropHeld)
            · exact .acceptPicture (.ite h h.dropHeld)
            · exact .acceptSlice (.ite h h.dropHeld)
            · exact .acceptFrame (.ite h h.dropHeld)
            · exact .acceptBlock (.ite h h.dropHeld)
            · exact .acceptHallmark (.ite h h.dropHeld)
            · exact .acceptEnd (.ite h h.dropHeld)

theorem Dev.Has.scanStep {s : Dev} (h : s.Has P) {n q : Nat} : (s.scanStep n q).1.Has P := by
  unfold Dev.scanStep
  split
  · exact h
  · dsimp only
    split
    · exact h
    · split
      · exact h.modJob
      · split
        · exact h.modJob
        · split
          · exact h.modJob
          · split
            · exact h.modJob
            · split
              · exact h.modJob
              · split
                · exact h.modJob.acceptUnit.modJob
                · exact h.modJob.acceptUnit

theorem Dev.Has.scanJob {m : Nat} {s : Dev} (h : s.Has P) {n q : Nat} : (Dev.scanJob n q m s).Has P := by
  induction m generalizing s with
  | zero => exact h
  | succ m ih =>
    unfold Dev.scanJob
    split
    next eq => exact .ite (ih (h.scanStep.fst eq)) (h.scanStep.fst eq)

theorem Dev.Has.fetchJob {s : Dev} (h : s.Has P) {n : Nat} {x : Stream} {j : Job} : (s.fetchJob n x j).Has P := by
  unfold Dev.fetchJob
  split
  · exact h.modJob
  · split
    · exact h.modJob
    · split
      · exact h.modJob
      · split
        · exact h.jobFault.modJob
        · exact h.modJob

theorem Dev.Has.scanJobs {m : Nat} {s : Dev} (h : s.Has P) {n : Nat} : (Dev.scanJobs n m s).Has P := by
  induction m generalizing s with
  | zero => exact h
  | succ m ih =>
    unfold Dev.scanJobs
    split
    · exact h
    · split
      · exact h
      · dsimp only
        split
        · exact .ite (ih (.scanJob (.ite h h.fetchJob))) (.scanJob (.ite h h.fetchJob))
        · exact .scanJob (.ite h h.fetchJob)

theorem Dev.Has.decJob {s : Dev} (h : s.Has Formed) {medium : Nat} {a : Acc} : (Dev.decJob medium a s).Has Formed := by
  unfold Dev.decJob
  exact h.onStream (fun _ _ => .ite h.rejectJob h.addJob)

/-! Audio (R241 to R249) -/

theorem Dev.Has.audEncJob {s : Dev} (h : s.Has Formed) {a : Acc} : (Dev.audEncJob a s).Has Formed := by
  unfold Dev.audEncJob
  exact h.onStream (fun _ _ => .ite h.rejectJob h.addJob)

theorem Dev.Has.readPcm {m : Nat} {s : Dev} (h : s.Has P) {n : Nat} : (Dev.readPcm n m s).Has P := by
  induction m generalizing s with
  | zero => exact h
  | succ m ih =>
    unfold Dev.readPcm
    split
    · exact h
    · split
      · exact h
      · dsimp only
        split
        · exact ih h.modJob
        · split
          · exact ih h.jobFault.modJob
          · exact ih h.modStream.modJob

theorem Dev.Has.makeFrames {m : Nat} {s : Dev} (h : s.Has P) {n : Nat} : (Dev.makeFrames n m s).Has P := by
  induction m generalizing s with
  | zero => exact h
  | succ m ih =>
    unfold Dev.makeFrames
    split
    · exact h
    · dsimp only
      split
      · exact h
      · exact .ite h (ih h.setStream.addUnit)

theorem Dev.Has.feedAudio {s : Dev} (h : s.Has P) {n : Nat} : (s.feedAudio n).Has P := by
  unfold Dev.feedAudio
  split
  · exact h
  · dsimp only
    split
    · exact h.readPcm
    · exact h.readPcm.makeFrames

theorem Dev.Has.queueAccess {s : Dev} (h : s.Has P) {n : Nat} {x : Stream} {u : MUnit} {unit digest : Bytes} {hallmark : Bool} :
    (s.queueAccess n x u unit digest hallmark).Has P := by
  unfold Dev.queueAccess
  exact h.setStream.endAccess

theorem Dev.Has.queueFrames {m : Nat} {s : Dev} (h : s.Has P) {n : Nat} : (Dev.queueFrames n m s).Has P := by
  induction m generalizing s with
  | zero => exact h
  | succ m ih =>
    unfold Dev.queueFrames
    split
    · exact h
    · split
      · exact h
      · exact ih h.queueAccess.modStream

theorem Dev.Has.finishFrame {s : Dev} (h : s.Has P) {n : Nat} {x : Stream} {u : MUnit} : (s.finishFrame n x u).Has P := by
  unfold Dev.finishFrame
  dsimp only
  exact h.setStream.endAccess

theorem Dev.Has.outputRecordOp {s : Dev} (h : s.Has Formed) {n : Nat} : (s.outputRecordOp n).Has Formed := by
  unfold Dev.outputRecordOp
  split
  · exact h
  · split
    · exact h
    · extract_lets hand drop
      have handed (u : Dev) (k : u.Has Formed) : (hand u).Has Formed := by
        dsimp only [hand]
        split
        · exact k.deliver
        · exact k
      refine .ite h ?_
      split
      · exact handed _ h.modStream.jobFault
      · refine .ite (.ite h.modStream h.modStream.waitRoom) ?_
        split
        · exact handed _ h.modStream.modStream.jobFault
        · next eq =>
          obtain ⟨u, bytes, counter⟩ := Option.bind_eq_some_iff.1 eq
          exact handed _ ((h.modStream.ringWrite bytes).hostWrite counter).gotRoom.modStream

/-! Scientific fields (R250 to R257) -/

theorem Dev.Has.writeRuns {l : List Nat} {s : Dev} (h : s.Has Formed) {base len : Nat} {b : Bytes} : (Dev.writeRuns base len l b s).1.Has Formed := by
  induction l generalizing s b with
  | nil => exact h
  | cons o l ih =>
    unfold Dev.writeRuns
    split
    next eq => exact ih (h.hostWrite eq)
    next => exact h

theorem Dev.Has.fldEncJob {s : Dev} (h : s.Has Formed) {a : Acc} : (Dev.fldEncJob a s).Has Formed := by
  unfold Dev.fldEncJob
  dsimp only
  exact h.onStream (fun _ _ => .ite h.rejectJob h.addJob)

theorem Dev.Has.feedField {m : Nat} {s : Dev} (h : s.Has P) {n : Nat} : (Dev.feedField n m s).Has P := by
  induction m generalizing s with
  | zero => exact h
  | succ m ih =>
    unfold Dev.feedField
    split
    · exact h
    · split
      · exact h
      · dsimp only
        split
        · exact ih h.modJob
        · split
          · exact ih h.jobFault.modJob
          · exact ih h.modJob.addUnit

theorem Dev.Has.queueBlocks {m : Nat} {s : Dev} (h : s.Has P) {n : Nat} : (Dev.queueBlocks n m s).Has P := by
  induction m generalizing s with
  | zero => exact h
  | succ m ih =>
    unfold Dev.queueBlocks
    split
    · exact h
    · split
      · exact h
      · exact ih h.queueAccess.modJob

theorem Dev.Has.finishBlock {s : Dev} (h : s.Has Formed) {n : Nat} {x : Stream} {u : MUnit} : (s.finishBlock n x u).Has Formed := by
  unfold Dev.finishBlock
  split
  · split
    next eq =>
      exact .ite (((h.writeRuns.fst eq).endAccess).modStream) ((((h.writeRuns.fst eq).endAccess).jobFault).deliver)

theorem Dev.Has.blockRecordOp {s : Dev} (h : s.Has Formed) {n : Nat} : (s.blockRecordOp n).Has Formed := by
  unfold Dev.blockRecordOp
  split
  · exact h
  · exact .ite h.recordOp h

/-! Mirror slots (R350 to R366) -/

theorem Dev.Has.setSlot {s : Dev} (h : s.Has P) {k : Nat} {t0 : Slot} : (s.setSlot k t0).Has P := h
theorem Dev.Has.freeSlot {s : Dev} (h : s.Has P) {k : Nat} : (s.freeSlot k).Has P := h
theorem Dev.Has.sendFlits {s : Dev} (h : s.Has P) {l k : Nat} : (s.sendFlits l k).Has P := h
theorem Dev.Has.sendRecord {s : Dev} (h : s.Has P) {o : Output} : (s.sendRecord o).Has P := h
theorem Dev.Has.placePics {l : List (Nat × TensorImage)} {r : Dev × SMap Nat} (h : r.1.Has P) {n : Nat} {held : List RefSlot} :
    (Dev.placePics n held l r).1.Has P := by
  induction l generalizing r with
  | nil => exact h
  | cons e l ih =>
    unfold Dev.placePics
    refine ih ?_
    split
    · exact h
    · split
      · exact h
      · split
        next eq =>
          obtain ⟨_, _, taken⟩ := Option.bind_eq_some_iff.1 eq
          exact (h.takeBuf taken).update
        next => exact h

theorem Dev.Has.install {s : Dev} (h : s.Has P) {n : Nat} {i : EpochImage} : (s.install n i).Has P := by
  unfold Dev.install
  split
  · exact h
  · exact .settleFeatures (.modStream (.placePics h.setStream.settleFeatures))

theorem Dev.Has.snapMirror {s : Dev} (h : s.Has P) {n : Nat} : (s.snapMirror n).Has P := by
  unfold Dev.snapMirror
  split
  · exact .ite h (.ite h.setSlot (.ite h h.setSlot))
  · exact h

theorem Dev.Has.switchStep {s : Dev} (h : s.Has P) {n : Nat} : (s.switchStep n).Has P := by
  unfold Dev.switchStep
  split
  · exact .ite h.sendRecord.setSlot h
  · exact h

theorem Dev.Has.dropUnacked {s : Dev} (h : s.Has P) {k : Nat} : (s.dropUnacked k).Has P := by
  unfold Dev.dropUnacked
  exact h.setSlot.count.settleFeatures

theorem Dev.Has.endWatch {s : Dev} (h : s.Has Formed) {k status : Nat} {reason : Option Nat} : (s.endWatch k status reason).Has Formed := by
  unfold Dev.endWatch
  dsimp only
  split
  · exact h
  · split
    · exact h.setSlot.complete
    · split
      · exact h.setSlot.complete
      · split
        next eq =>
          exact (h.setSlot.hostWrite eq).complete
        · exact h.setSlot.dataFault.complete

theorem Dev.Has.finish {s : Dev} (h : s.Has Formed) {q : Option Nat} {status result flags : Nat} : (s.finish q status result flags).Has Formed := by
  unfold Dev.finish
  split
  · exact h.complete
  · exact h

theorem Dev.Has.endMirror {s : Dev} (h : s.Has Formed) {n : Nat} {closed : Bool} : (s.endMirror n closed).Has Formed := by
  unfold Dev.endMirror
  dsimp only
  split
  · exact .foldl (fun _ _ k => k.finish) h.update
  · refine .ite (.modStream (.freeSlot (.finish (.endWatch ?_)))) (.settleFeatures (.freeSlot (.dropUnacked (.finish ?_))))
    all_goals exact .ite (.foldl (fun _ _ k => k.finish) h.update) (.sendRecord (.foldl (fun _ _ k => k.finish) h.update))

theorem Dev.Has.takeSlot {s : Dev} (h : s.Has Formed) {k reason status : Nat} {forced : Bool} : (s.takeSlot k reason status forced).Has Formed := by
  unfold Dev.takeSlot
  exact .ite h.endWatch.finish.freeSlot.modStream h.endWatch.settleFeatures.setSlot.modStream

/-! What follows a step of a stream (R221 to R257) -/

theorem Dev.Has.finishGap {s : Dev} (h : s.Has P) {n : Nat} {u : MUnit} : (s.finishGap n u).Has P := by
  unfold Dev.finishGap
  split
  · exact h
  · exact .modStream (.foldl (fun _ _ k => k.modStream.snapMirror) h.setStream)

theorem Dev.Has.finishUnits {m : Nat} {s : Dev} (h : s.Has Formed) {n : Nat} : (Dev.finishUnits n m s).Has Formed := by
  induction m generalizing s with
  | zero => exact h
  | succ m ih =>
    unfold Dev.finishUnits
    split
    · exact h
    · split
      · exact h
      · refine ih (.snapMirror (.ite h.phaseTen (h.phaseTen.withUnit fun t y v k => ?_)))
        split
        · exact k.deliver
        · exact k.finishGap.withUnit fun _ _ _ k => k.finishFrame
        · exact k.finishBlock

theorem Dev.Has.feed {s : Dev} (h : s.Has P) {n : Nat} {look : Bool} : (s.feed n look).Has P := by
  unfold Dev.feed
  split
  · exact h
  · split
    · exact h
    · split
      · exact h.scanJobs
      · split
        · exact h.feedVideo
        · exact h.feedAudio
        · exact h.feedField

theorem Dev.Has.queueCoded {s : Dev} (h : s.Has P) {n : Nat} : (s.queueCoded n).Has P := by
  unfold Dev.queueCoded
  split
  · exact h
  · dsimp only
    split
    all_goals
      split
      · exact h
      · split
        · exact h.queueSlices
        · exact h.queueFrames
        · exact h.queueBlocks

theorem Dev.Has.dropCancelled {s : Dev} (h : s.Has P) {n : Nat} : (s.dropCancelled n).Has P := by
  unfold Dev.dropCancelled
  split
  · exact h
  · split
    · exact h
    · exact .ite h (.ite (.modStream (.foldl (fun _ _ k => k.releaseEngine) h))
        (.modStream (.freeBuf (.modStream (.foldl (fun _ _ k => k.releaseEngine) h)))))

theorem Dev.Has.endJobs {m : Nat} {s : Dev} (h : s.Has Formed) {n : Nat} : (Dev.endJobs n m s).Has Formed := by
  induction m generalizing s with
  | zero => exact h
  | succ m ih =>
    unfold Dev.endJobs
    split
    · exact h
    · split
      · exact h
      · exact .ite h (ih (.endJob (.ite (.modStream (.ite h.endSource h)) (.ite h.endSource h))))

theorem Dev.Has.noteDelivered {s : Dev} (h : s.Has P) {n : Nat} : (s.noteDelivered n).Has P := by
  unfold Dev.noteDelivered
  split
  · exact h
  · exact .ite h.setStream.refreshStreams h.setStream

theorem Dev.Has.releaseBuffers {s : Dev} (h : s.Has P) {n : Nat} : (s.releaseBuffers n).Has P := by
  unfold Dev.releaseBuffers
  exact .foldl (fun _ _ k => .ite k.setBuf (.ite k k.freeBuf)) h

theorem Dev.Has.removeStream {s : Dev} (h : s.Has P) {n : Nat} {x : Stream} : (s.removeStream n x).Has P := by
  unfold Dev.removeStream
  exact h.releaseBuffers.modSeat.update.refreshStreams

theorem Dev.Has.closeStep {s : Dev} (h : s.Has Formed) {n : Nat} : (s.closeStep n).Has Formed := by
  unfold Dev.closeStep
  split
  · exact h
  · split
    · exact h
    · exact .ite h (.ite h.setStream h.removeStream.finish)

theorem Dev.Has.pump {s : Dev} (h : s.Has Formed) {n : Nat} {look : Bool} : (s.pump n look).Has Formed := by
  unfold Dev.pump
  split
  · exact h
  · exact h.snapMirror.finishUnits.feed.queueCoded.dropCancelled.endJobs.noteDelivered.snapMirror.switchStep.closeStep

theorem Dev.Has.pumpWaiting {s : Dev} (h : s.Has Formed) : s.pumpWaiting.Has Formed := by
  unfold Dev.pumpWaiting
  exact .foldl (fun _ _ k => k.pump) h

theorem Dev.Has.streamStep {s : Dev} (h : s.Has Formed) {n : Nat} {f : Dev → Dev} (on_f : ∀ (t : Dev), t.Has Formed → (f t).Has Formed) :
    (s.streamStep n f).Has Formed := by
  unfold Dev.streamStep
  exact .ite (.pumpWaiting (.pump (on_f _ h))) h

theorem Dev.Has.streamDesc {s : Dev} (h : s.Has Formed) {d : Desc} {row : Nat} {op : Acc → Dev → Dev}
    (on_op : ∀ (a : Acc) (t : Dev), t.Has Formed → (op a t).Has Formed) :
    (s.streamDesc d row op).Has Formed := by
  unfold Dev.streamDesc
  exact h.runWith (fun _ _ k => .pumpWaiting (.pump (on_op _ _ k))) (fun _ _ k => ((k.withStream (fun _ _ => k.rejectJob)).pump).pumpWaiting)

theorem Dev.Has.streamCloseOp {s : Dev} (h : s.Has Formed) {a : Acc} : (Dev.streamCloseOp a s).Has Formed := by
  unfold Dev.streamCloseOp
  dsimp only
  split
  · exact h.complete
  · exact .ite h.complete (.ite h h.setStream.setStage.endMirror.closeSlices)

theorem Dev.Has.evict {s : Dev} (h : s.Has Formed) {n : Nat} : (s.evict n).Has Formed := by
  unfold Dev.evict
  split
  · exact h
  · exact .closeStep (.endJobs (.modStream (.foldl (fun _ _ k => k.releaseEngine) h)))

theorem Dev.Has.pollStreams {s : Dev} (h : s.Has Formed) {f : Nat} : (s.pollStreams f).Has Formed := by
  unfold Dev.pollStreams
  refine .foldl (fun t x k => ?_) ?_
  · dsimp only
    refine .pump ?_
    split
    · split
      · exact k.modStream
      · exact k
    · exact k
  · exact h

theorem Dev.Has.pollAll {s : Dev} (h : s.Has Formed) {f : Nat} : (s.pollAll f).Has Formed := by
  unfold Dev.pollAll
  exact .ite h.pollOp.pollStreams h

end

end Sys2Proof.Machine
end

section
/-!
What boot, pair, chain, models, faults, instruments and register writes do to host and device memory: each keeps what holds of the two memories, or,
where it writes one, their canonical form.
-/
namespace Sys2Proof.Machine

section
variable {P : Mem → Mem → Prop}

/-! Keys, injection, freeze and boot (R146, R387 to R391, R409 to R414) -/

theorem Dev.Has.setKey {s : Dev} (h : s.Has P) {f : KeySlot → KeySlot} : (s.setKey f).Has P := h
theorem Dev.Has.noteKeys {s : Dev} (h : s.Has P) : s.noteKeys.Has P := h
theorem Dev.Has.keyInstall {s : Dev} (h : s.Has P) : s.keyInstall.Has P := by
  unfold Dev.keyInstall
  exact .ite h.noteKeys.setKey h

theorem Dev.Has.keyErase {s : Dev} (h : s.Has P) : s.keyErase.Has P := by
  unfold Dev.keyErase
  exact .ite h.noteKeys.setKey h

theorem Dev.Has.keyLock {s : Dev} (h : s.Has P) : s.keyLock.Has P := by
  unfold Dev.keyLock
  exact .ite h.setRegN h

theorem Dev.Has.setInj {s : Dev} (h : s.Has P) {f : Inj → Inj} : (s.setInj f).Has P := h
theorem Dev.Has.injEnd {s : Dev} (h : s.Has P) : s.injEnd.Has P := h
theorem Dev.Has.injOpen {s : Dev} (h : s.Has P) : s.injOpen.Has P := by
  unfold Dev.injOpen
  exact h.injEnd.setInj.update.suspend.sticky

theorem Dev.Has.injWord {s : Dev} (h : s.Has P) {w : Nat} : (s.injWord w).Has P := by
  unfold Dev.injWord
  exact .ite h (.ite (.ite (.setInj (.ite h.injEnd h)) (.ite h.injEnd h))
    (.ite (.ite (.setInj (.ite h.injEnd h)) (.injEnd (.ite h.injEnd h))) (.ite (.injOpen (.ite h.injEnd h)) (.injEnd (.ite h.injEnd h)))))

theorem Dev.Has.injRelock {s : Dev} (h : s.Has P) : s.injRelock.Has P := by
  unfold Dev.injRelock
  exact .ite (.unsuspend (.update (.setInj (.foldl (fun _ _ k => k.setRegN) h)))) h

theorem Dev.Has.injLock {s : Dev} (h : s.Has P) : s.injLock.Has P := by
  unfold Dev.injLock
  exact .ite h.injRelock h

theorem Dev.Has.freezeCmd {s : Dev} (h : s.Has P) : s.freezeCmd.Has P := by
  unfold Dev.freezeCmd
  exact .ite h.freeze h

theorem Dev.Has.bootFail {s : Dev} (h : s.Has P) {reason : Nat} : (s.bootFail reason).Has P := by
  unfold Dev.bootFail
  exact .ite h.update.failStop h.update

theorem Dev.Has.sendFrame {s : Dev} (h : s.Has P) {dst typ : Nat} {payload : Bytes} : (s.sendFrame dst typ payload).Has P := h
theorem Dev.Has.becomeReady {s : Dev} (h : s.Has P) {serial version : Nat} : (s.becomeReady serial version).Has P := by
  unfold Dev.becomeReady
  split
  next eq =>
    exact .ite ((((((h.draw.snd eq).setMode).setRegN).setRegN).update).sendFrame) (((((h.draw.snd eq).setMode).setRegN).setRegN).update)

/-! The pair (R345 to R366) -/

theorem Dev.Has.modLink {s : Dev} (h : s.Has P) {l : Nat} {f : PassLink → PassLink} : (s.modLink l f).Has P := h
theorem Dev.Has.degrade {s : Dev} (h : s.Has P) {p : Slot → Bool} : (s.degrade p).Has P := h
theorem Dev.Has.takeDecision {s : Dev} (h : s.Has Formed) {partner : Nat} : (s.takeDecision partner).Has Formed := by
  unfold Dev.takeDecision
  exact .ite (.ite h.update (.refreshStreams (.foldl (fun _ _ k => k.takeSlot) h.update))) h.update.degrade

theorem Dev.Has.endDetaches {s : Dev} (h : s.Has Formed) {p : BitVec 64 → Bool} : (s.endDetaches p).Has Formed := by
  unfold Dev.endDetaches
  exact .foldl (fun _ _ k => k.finish) h.update

theorem Dev.Has.becomeSilent {s : Dev} (h : s.Has Formed) : s.becomeSilent.Has Formed := by
  unfold Dev.becomeSilent
  extract_lets s0 _ s1 s2 a mute _ _ s3
  have held : s2.Has Formed := by
    refine .foldl (fun t e k => ?_) h.endDetaches.update
    dsimp only
    split
    · exact k.dropUnacked.setSlot.finish
    · exact k.dropUnacked.setSlot
  have asked : s3.Has Formed := .ite held held.sendFrame.update
  split
  · exact .ite asked.takeDecision (.ite asked.takeDecision asked)
  · exact .ite asked.takeDecision asked

theorem Dev.Has.checkSilence {s : Dev} (h : s.Has Formed) : s.checkSilence.Has Formed := by
  unfold Dev.checkSilence
  exact .ite h.becomeSilent h

theorem Dev.Has.linkDown {s : Dev} (h : s.Has Formed) {l : Nat} {dead : Bool} : (s.linkDown l dead).Has Formed := by
  unfold Dev.linkDown
  exact h.modLink.sticky.checkSilence

theorem Dev.Has.checkConflict {s : Dev} (h : s.Has P) {roles : List SlotRole} : (s.checkConflict roles).Has P := h
theorem Dev.Has.heard {s : Dev} (h : s.Has P) {same : Bool} : (s.heard same).Has P := h
theorem Dev.Has.heartbeatOp {s : Dev} (h : s.Has P) {serial : Nat} : (s.heartbeatOp serial).Has P := by
  unfold Dev.heartbeatOp
  exact .ite h (.foldl (fun _ _ k => .ite k.sendFlits.output k) h.update)

theorem Dev.Has.sendHello {s : Dev} (h : s.Has P) {l serial : Nat} : (s.sendHello l serial).Has P := h
theorem Dev.Has.heartbeatReceiveOp {s : Dev} (h : s.Has Formed) {own l : Nat} {serial : BitVec 64} {roles : List SlotRole} :
    (s.heartbeatReceiveOp own l serial roles).Has Formed := by
  unfold Dev.heartbeatReceiveOp
  exact .ite h (.ite (.ite h.modLink h.modLink.sendHello) (.endDetaches
    (.checkConflict (.ite (.heard (.update (.ite h.modLink h.modLink.sendHello))) (.update (.ite h.modLink h.modLink.sendHello))))))

theorem Dev.Has.linkDownOp {s : Dev} (h : s.Has Formed) {l : Nat} : (s.linkDownOp l).Has Formed := by
  unfold Dev.linkDownOp
  exact .ite h h.bump.count.linkDown

theorem Dev.Has.helloOp {s : Dev} (h : s.Has P) {own l : Nat} {h0 : HelloData} : (s.helloOp own l h0).Has P := by
  unfold Dev.helloOp
  exact .ite h (.ite (.heard (.update (.ite h.modLink h.modLink.sendHello))) (.update (.ite h.modLink h.modLink.sendHello)))

theorem Dev.Has.replayOp {s : Dev} (h : s.Has P) {l seq : Nat} : (s.replayOp l seq).Has P := by
  unfold Dev.replayOp
  exact .ite h h.output.modLink.count

theorem Dev.Has.laneSpareOp {s : Dev} (h : s.Has Formed) {l lane : Nat} : (s.laneSpareOp l lane).Has Formed := by
  unfold Dev.laneSpareOp
  split
  · exact h
  · split
    · exact .ite h h.linkDown
    · exact h.modLink.soft.sticky

theorem Dev.Has.mirrorDesc {s : Dev} (h : s.Has Formed) {d : Desc} {row : Nat} {op : Acc → Dev → Dev}
    (on_op : ∀ (a : Acc) (t : Dev), t.Has Formed → (op a t).Has Formed) :
    (s.mirrorDesc d row op).Has Formed := by
  refine h.runDesc fun a t k => ?_
  split
  · exact .ite k.complete (on_op _ _ k)
  · exact on_op _ _ k

theorem Dev.Has.attachOp {s : Dev} (h : s.Has Formed) {a : Acc} : (Dev.attachOp a s).Has Formed := by
  unfold Dev.attachOp
  split
  · exact h.complete
  · exact h.update.sendRecord.setStage

theorem Dev.Has.attachMatchOp {s : Dev} (h : s.Has Formed) {p : PartnerAttach} : (s.attachMatchOp p).Has Formed := by
  unfold Dev.attachMatchOp
  split
  · exact h
  · split
    · exact h
    · split
      · exact h
      · split
        · exact h
        · dsimp only
          exact .ite h.update.finish (.ite h.update.finish (.ite h.update.setStream.setSlot.sendRecord h.update.setStream.setSlot))

theorem Dev.Has.detachOp {s : Dev} (h : s.Has Formed) {a : Acc} : (Dev.detachOp a s).Has Formed := by
  unfold Dev.detachOp
  split
  · exact h.complete
  · exact .ite h (.ite h.update.endMirror.pump (.ite h.endMirror.pump.complete (.ite h.setStream.complete h.complete)))

theorem Dev.Has.watchOp {s : Dev} (h : s.Has Formed) {a : Acc} : (Dev.watchOp a s).Has Formed := by
  unfold Dev.watchOp
  split
  · exact h.complete
  · exact .ite h.complete (.ite h.complete h.setSlot.setStage)

theorem Dev.Has.switchOp {s : Dev} (h : s.Has Formed) {a : Acc} : (Dev.switchOp a s).Has Formed := by
  unfold Dev.switchOp
  split
  · exact h.complete
  · exact .ite h (.ite h.complete (.ite h.setSlot.complete h.setSlot.pump))

theorem Dev.Has.takeoverOp {s : Dev} (h : s.Has Formed) {a : Acc} : (Dev.takeoverOp a s).Has Formed := by
  unfold Dev.takeoverOp
  split
  · exact h.complete
  · exact .ite h.complete (.ite h.complete h.takeSlot.refreshStreams.complete)

theorem Dev.Has.epochArrives {s : Dev} (h : s.Has P) {k : Nat} : (s.epochArrives k).Has P := by
  unfold Dev.epochArrives
  exact .ite h h.setSlot

theorem Dev.Has.epochLeaves {s : Dev} (h : s.Has P) {k : Nat} : (s.epochLeaves k).Has P := by
  unfold Dev.epochLeaves
  dsimp only
  split
  · exact .ite h h.setSlot.sendRecord.switchStep
  · exact h

theorem Dev.Has.epochOpenOp {s : Dev} (h : s.Has P) {k : Nat} : (s.epochOpenOp k).Has P := by
  unfold Dev.epochOpenOp
  exact .ite h.epochArrives h.epochLeaves

theorem Dev.Has.committed {s : Dev} (h : s.Has Formed) {k : Nat} {full : Bool} : (s.committed k full).Has Formed := by
  unfold Dev.committed
  exact h.setSlot.finish

theorem Dev.Has.epochCloseOp {s : Dev} (h : s.Has Formed) {k number : Nat} {full : Bool} {i : EpochImage} {ok : Bool} :
    (s.epochCloseOp k number full i ok).Has Formed := by
  unfold Dev.epochCloseOp
  exact .ite h (.ite h.setSlot.install.committed.count.sendRecord h.setSlot.count.sendRecord)

theorem Dev.Has.abortSlot {s : Dev} (h : s.Has P) {k : Nat} : (s.abortSlot k).Has P := by
  unfold Dev.abortSlot
  exact h.dropUnacked.setSlot.sendRecord

theorem Dev.Has.epochAckOp {s : Dev} (h : s.Has Formed) {k number : Nat} {committed : Bool} : (s.epochAckOp k number committed).Has Formed := by
  unfold Dev.epochAckOp
  dsimp only
  split
  · exact h
  · exact .ite h (.ite h.setSlot.committed.count.settleFeatures (.ite h.abortSlot h.count.setSlot.sendRecord))

theorem Dev.Has.abortOp {s : Dev} (h : s.Has P) {k : Nat} : (s.abortOp k).Has P := by
  unfold Dev.abortOp
  exact .ite h.abortSlot h

theorem Dev.Has.switchRecordOp {s : Dev} (h : s.Has Formed) {k : Nat} : (s.switchRecordOp k).Has Formed := by
  unfold Dev.switchRecordOp
  exact .ite h h.endWatch.setSlot.sendRecord

theorem Dev.Has.switchAckOp {s : Dev} (h : s.Has Formed) {k : Nat} : (s.switchAckOp k).Has Formed := by
  unfold Dev.switchAckOp
  dsimp only
  split
  · exact h
  · exact .ite h h.setSlot.finish.settleFeatures

theorem Dev.Has.closingNoticeOp {s : Dev} (h : s.Has Formed) {k : Nat} {closed : Bool} : (s.closingNoticeOp k closed).Has Formed := by
  unfold Dev.closingNoticeOp
  dsimp only
  split
  · exact h
  · exact h.endWatch.finish.freeSlot.modStream
  · exact h.finish.finish.dropUnacked.freeSlot.settleFeatures.modStream

theorem Dev.Has.relinquishOp {s : Dev} (h : s.Has Formed) {k : Nat} : (s.relinquishOp k).Has Formed := by
  unfold Dev.relinquishOp
  exact .ite h.takeSlot.refreshStreams h

/-! The management chain (R337 to R344) -/

theorem Dev.Has.forward {s : Dev} (h : s.Has P) {b : Bytes} : (s.forward b).Has P := h
theorem Dev.Has.onFrame {s : Dev} (h : s.Has P) {b : Bytes} {typ len : Nat} {f : Dev → Dev} (on_f : ∀ (t : Dev), t.Has P → (f t).Has P) :
    (s.onFrame b typ len f).Has P := by
  unfold Dev.onFrame
  exact .ite h (.ite (on_f _ h) h.output)

theorem Dev.Has.setChain {s : Dev} (h : s.Has P) {f : Chain → Chain} : (s.setChain f).Has P := h
theorem Dev.Has.enumerate {s : Dev} (h : s.Has P) {serial : Nat} : (s.enumerate serial).Has P := h
theorem Dev.Has.takeAddr {s : Dev} (h : s.Has P) {m : Bytes} : (s.takeAddr m).1.Has P := by
  unfold Dev.takeAddr
  split
  · exact h
  · split <;> exact h

theorem Dev.Has.setHead {s : Dev} (h : s.Has P) {serial : Nat} {on : Bool} : (s.setHead serial on).Has P := by
  unfold Dev.setHead
  exact .ite h (.ite h.setRegN.setChain.enumerate h.setRegN.setChain)

theorem Dev.Has.enumOp {s : Dev} (h : s.Has P) {serial : Nat} : (s.enumOp serial).Has P := by
  unfold Dev.enumOp
  exact .ite h.enumerate h

theorem Dev.Has.releaseAddr {s : Dev} (h : s.Has P) : s.releaseAddr.Has P := by
  unfold Dev.releaseAddr
  exact .ite h.setChain h

theorem Dev.Has.yieldHead {s : Dev} (h : s.Has P) : s.yieldHead.Has P := h
theorem Dev.Has.headCase {s : Dev} (h : s.Has P) {serial : Nat} {b : Bytes} {own : Dev → Dev}
    (on_own : ∀ x : Dev, x.Has P → (own x).Has P) {t : Dev} (eq : s.headCase serial b own = some t) :
    t.Has P := by
  unfold Dev.headCase at eq
  dsimp only at eq
  split at eq
  · cases eq
  · split at eq
    · cases eq
      exact on_own _ h
    · split at eq
      · cases eq
      · cases eq
        exact h

theorem Dev.Has.surveyOp {s0 : Dev} (h : s0.Has P) {serial : Nat} {b : Bytes} : (s0.surveyOp serial b).Has P := by
  refine h.onFrame fun t k => ?_
  split
  next eq => exact k.headCase (fun _ k => k.takeAddr.sendFrame.setChain) eq
  next => exact .forward (.ite k.yieldHead k)

theorem Dev.Has.assignOp {s0 : Dev} (h : s0.Has P) {serial : Nat} {b : Bytes} : (s0.assignOp serial b).Has P := by
  refine h.onFrame fun t k => ?_
  split
  next eq => exact k.headCase (fun _ k => k.setChain) eq
  next => exact .ite (.forward (.ite k.yieldHead k)) (.forward (.takeAddr (.ite k.yieldHead k)))

theorem Dev.Has.joinOp {s0 : Dev} (h : s0.Has P) {serial : Nat} {b : Bytes} : (s0.joinOp serial b).Has P := by
  unfold Dev.joinOp
  exact h.onFrame (fun _ k => .ite k.enumerate (.ite k k.forward))

theorem Dev.Has.learn {s : Dev} (h : s.Has Formed) {b : Bytes} : (s.learn b).Has Formed := by
  unfold Dev.learn
  dsimp only
  split
  all_goals
    split
    · split
      · exact .ite h.setChain h
      · exact h
    · split
      · exact .ite (.update (.ite h.setChain h))
          (.ite (.takeDecision (.update (.ite h.setChain h))) (.ite (.takeDecision (.update (.ite h.setChain h))) (.update (.ite h.setChain h))))
      · exact .ite h.update (.ite h.update.takeDecision (.ite h.update.takeDecision h.update))

theorem Dev.Has.statusOp {s0 : Dev} (h : s0.Has Formed) {serial : Nat} {b : Bytes} : (s0.statusOp serial b).Has Formed := by
  unfold Dev.statusOp
  exact h.onFrame (fun _ k => .ite (.ite k.learn k.forward) (.ite k.setChain (.forward (.ite k.learn k))))

theorem Dev.Has.statusReqOp {s0 : Dev} (h : s0.Has Formed) {serial : Nat} {b : Bytes} : (s0.statusReqOp serial b).Has Formed := by
  refine h.onFrame fun t k => .ite k.sendFrame (.ite ?_ k.forward)
  extract_lets s1
  have heard : s1.Has Formed := by
    dsimp only [s1]
    split
    · exact .ite k.setChain k
    · exact k
  split
  · exact .ite (.ite heard.setChain.takeDecision heard.setChain) heard
  · exact heard

theorem Dev.Has.statusBroadcastOp {s : Dev} (h : s.Has P) {serial : Nat} : (s.statusBroadcastOp serial).Has P := by
  unfold Dev.statusBroadcastOp
  exact .ite h h.sendFrame.setChain

theorem Dev.Has.queryOp {s : Dev} (h : s.Has P) : s.queryOp.Has P := by
  unfold Dev.queryOp
  exact .ite h (.ite h.setChain h.sendFrame.setChain)

theorem Dev.Has.queryTimeoutOp {s : Dev} (h : s.Has Formed) : s.queryTimeoutOp.Has Formed := by
  unfold Dev.queryTimeoutOp
  exact .ite h (.ite (.ite (.takeDecision (.setChain (.ite h.setChain h))) (.setChain (.ite h.setChain h))) (.ite h.setChain h))

theorem Dev.Has.frameDropOp {s : Dev} (h : s.Has P) {b : Bytes} : (s.frameDropOp b).Has P := by
  unfold Dev.frameDropOp
  exact .ite h.output (.ite h h.setChain.count)

/-! Model packages (R132 to R154) -/

theorem Dev.Has.assignHandle {s : Dev} (h : s.Has P) {f : Nat} {p : Pkg} {r : Nat × Dev} (eq : s.assignHandle f p = some r) : r.2.Has P := by
  unfold Dev.assignHandle at eq
  dsimp only at eq
  split at eq
  · cases eq
    exact h
  · split at eq
    · cases eq
    · split at eq
      · cases eq
        exact h
      · split at eq
        · cases eq
        · cases eq
          exact h

theorem Dev.Has.modelLoadOp {s : Dev} (h : s.Has Formed) {a : Acc} : (Dev.modelLoadOp a s).Has Formed := by
  unfold Dev.modelLoadOp
  dsimp only
  split
  · exact h.complete
  · split
    · exact h.dataFault.complete
    · split
      · exact h
      · split
        · exact .complete (.count (.count (.ite h h.count)))
        · split
          · exact .complete (.count (.count (.ite h h.count)))
          next eq =>
            exact (Dev.Has.assignHandle (.count (.count (.ite h h.count))) eq).complete

theorem Dev.Has.dropPackages {s : Dev} (h : s.Has P) : s.dropPackages.Has P := h
theorem Dev.Has.modelUnloadOp {s : Dev} (h : s.Has Formed) {a : Acc} : (Dev.modelUnloadOp a s).Has Formed := by
  unfold Dev.modelUnloadOp
  dsimp only
  split
  · exact h.complete
  · exact .ite h.complete (.ite h.setFn.complete h.setFn.dropPackages.complete)

/-! Faults, quiesce, tests and Function Level Reset (R307, R374 to R386, R404) -/

theorem Dev.Has.countRedo {s : Dev} (h : s.Has P) {n : Nat} {x : Stream} {u : MUnit} : (s.countRedo n x u).Has P := by
  unfold Dev.countRedo
  exact .ite h.modSeat.count.uncover.refreshStreams h.modSeat.count

theorem Dev.Has.redoUnits {s : Dev} (h : s.Has P) {n : Nat} {more : MUnit → Bool} : (s.redoUnits n more).Has P := by
  unfold Dev.redoUnits
  split
  · exact h
  · dsimp only
    split
    · exact h
    · exact .countRedo (.modStream (.foldl (fun _ _ k => k.releaseEngine) h))

theorem Dev.Has.redoStream {s : Dev} (h : s.Has P) {n : Nat} : (s.redoStream n).Has P := by
  unfold Dev.redoStream
  exact h.redoUnits

theorem Dev.Has.redoSeat {s : Dev} (h : s.Has P) {cn k : Nat} : (s.redoSeat cn k).Has P := by
  unfold Dev.redoSeat
  split
  · exact h.redoStream
  · exact h

theorem Dev.Has.loseMirror {s : Dev} (h : s.Has Formed) {n : Nat} : (s.loseMirror n).Has Formed := by
  unfold Dev.loseMirror
  dsimp only
  split
  · exact .foldl (fun _ _ k => k.finish) h.update
  · exact .ite (.endMirror (.finish (.endWatch (.foldl (fun _ _ k => k.finish) h.update)))) (.settleFeatures (.freeSlot (.dropUnacked
      (.finish (.finish (.ite (.sendRecord (.foldl (fun _ _ k => k.finish) h.update)) (.foldl (fun _ _ k => k.finish) h.update)))))))

theorem Dev.Has.loseStream {s : Dev} (h : s.Has Formed) {n : Nat} : (s.loseStream n).Has Formed := by
  unfold Dev.loseStream
  exact h.loseMirror.evict

theorem Dev.Has.loseSeat {s : Dev} (h : s.Has Formed) {cn k : Nat} : (s.loseSeat cn k).Has Formed := by
  unfold Dev.loseSeat
  dsimp only
  split
  · exact h.modSeat.loseStream
  · exact h

theorem Dev.Has.relocate {s : Dev} (h : s.Has Formed) {bad : Option Nat} {cn k : Nat} : (s.relocate bad cn k).Has Formed := by
  unfold Dev.relocate
  split
  · exact h
  · split
    · exact h
    · split
      · exact h.loseSeat
      · dsimp only
        split
        · exact h.redoSeat.loseSeat
        · exact h.redoSeat.modSeat

theorem Dev.Has.relocateAll {s : Dev} (h : s.Has Formed) {bad : Option Nat} {l : List (Nat × Nat)} : (s.relocateAll bad l).Has Formed := by
  unfold Dev.relocateAll
  exact .pumpWaiting (.seatsChanged (.wakeSeats (.foldl (fun _ _ k => k.relocate) h)))

theorem Dev.Has.loseInstance {s : Dev} (h : s.Has Formed) {res : Nat} {bad : Option Nat} : (s.loseInstance res bad).Has Formed := by
  unfold Dev.loseInstance
  exact h.relocateAll

theorem Dev.Has.abandonTest {s : Dev} (h : s.Has P) : s.abandonTest.Has P := by
  unfold Dev.abandonTest
  split
  · exact h
  · exact .ite h.testOver (.ite h.testOver.setPlain
      (.ite h.testOver.update (.ite (.ite h.testOver.update h.testOver) (.ite h.testOver.modLink h.testOver))))

theorem Dev.Has.abandonIf {s : Dev} (h : s.Has P) {p : Test → Bool} : (s.abandonIf p).Has P := by
  unfold Dev.abandonIf
  split
  · exact .ite h.abandonTest h
  · exact h

theorem Dev.Has.moveWork {s : Dev} (h : s.Has Formed) {tile : Nat} : (s.moveWork tile).Has Formed := by
  unfold Dev.moveWork
  dsimp only
  split
  · exact h
  · split
    · exact h.modSeat.seatsChanged
    · exact h.relocateAll

theorem Dev.Has.tileFaultOp {s : Dev} (h : s.Has Formed) {tile : Nat} : (s.tileFaultOp tile).Has Formed := by
  unfold Dev.tileFaultOp
  dsimp only
  exact .ite h (.seatsChanged (.testWithdrawn (.ite (.foldl (fun _ _ k => .ite k.loseSeat k.redoSeat) h.sticky.abandonIf.replaceTile)
    (.moveWork (.foldl (fun _ _ k => .ite k.loseSeat k.redoSeat) h.sticky.abandonIf.replaceTile)))))

theorem Dev.Has.engineFaultOp {s : Dev} (h : s.Has Formed) {n : Nat} : (s.engineFaultOp n).Has Formed := by
  unfold Dev.engineFaultOp
  extract_lets e s1 s2
  have redone : s2.Has Formed := by
    dsimp only [s2]
    split
    · exact h.abandonIf.redoUnits
    · exact h.abandonIf
  refine .ite h ?_
  split
  next eq =>
    have lost := redone.holdEngine.loseEngine.fst eq
    split
    · exact .ite lost lost.loseInstance
    · exact lost

theorem Dev.Has.redoBooked {s : Dev} (h : s.Has P) {res : Nat} : (s.redoBooked res).Has P := by
  unfold Dev.redoBooked
  exact .foldl (fun _ _ k => k.redoSeat) h

theorem Dev.Has.setRimDown {s : Dev} (h : s.Has P) {p : Nat} : (s.setRimDown p).Has P := h
theorem Dev.Has.rimFaultOp {s : Dev} (h : s.Has Formed) {p : Nat} : (s.rimFaultOp p).Has Formed := by
  unfold Dev.rimFaultOp
  exact .ite h (.ite h.abandonIf.sticky.update.soft.redoBooked
    (.loseInstance (.sticky (.setRimDown (.ite h.abandonIf.sticky.update h.abandonIf.sticky)))))

theorem Dev.Has.hbmUeOp {s : Dev} (h : s.Has Formed) {a : Nat} {reader : Option Nat} {state : Bool} : (s.hbmUeOp a reader state).Has Formed := by
  unfold Dev.hbmUeOp
  split
  · exact h
  · dsimp only
    split
    · exact h.sticky
    · split
      · exact h.sticky
      · split
        · exact h.sticky.loseStream.pumpWaiting
        · split
          · exact h.sticky
          · exact h.sticky.modStream.pump.pumpWaiting

theorem Dev.Has.plainFailOp {s : Dev} (h : s.Has Formed) {p : Nat} : (s.plainFailOp p).Has Formed := by
  unfold Dev.plainFailOp
  exact .ite h (.relocateAll (.ite h.abandonIf.sticky.setPlain.update h.abandonIf.sticky.setPlain))

theorem Dev.Has.pauseRedo {s : Dev} (h : s.Has P) : s.pauseRedo.Has P := by
  unfold Dev.pauseRedo
  refine .foldl (fun t x k => ?_) ?_
  · split
    · exact k
    · exact k.modStream.countRedo
  · exact h

theorem Dev.Has.drainUnits {m : Nat} {s : Dev} (h : s.Has Formed) {n : Nat} : (Dev.drainUnits n m s).Has Formed := by
  induction m generalizing s with
  | zero => exact h
  | succ m ih =>
    unfold Dev.drainUnits
    split
    · exact h
    · exact ih h.contextPassOp.decodeSegmentOp.encodeUnitOp.unitEmitOp.pump

theorem Dev.Has.drainOut {m : Nat} {s : Dev} (h : s.Has Formed) {n : Nat} : (Dev.drainOut n m s).Has Formed := by
  induction m generalizing s with
  | zero => exact h
  | succ m ih =>
    unfold Dev.drainOut
    exact ih h.trainOp.unitEmitOp.pictureRecordOp.autoCopyOp.outputRecordOp.blockRecordOp.pump

theorem Dev.Has.drainStream {s : Dev} (h : s.Has Formed) {n : Nat} : (s.drainStream n).Has Formed := by
  unfold Dev.drainStream
  split
  · exact h
  · exact h.drainUnits.drainOut.modStream.modStream.endJobs

theorem Dev.Has.quiesceOp {s : Dev} (h : s.Has Formed) : s.quiesceOp.Has Formed := by
  unfold Dev.quiesceOp
  exact .foldl (fun _ _ k => .ite k k.gatePlain) (.foldl (fun _ _ k => k.drainStream) h.setMode.sticky.update)

theorem Dev.Has.withdrawRim {s : Dev} (h : s.Has P) {t0 : Test} : (s.withdrawRim t0).Has P := by
  unfold Dev.withdrawRim
  exact .ite h.testOver (.ite h.update.testRuns h.testRuns)

theorem Dev.Has.withdrawLane {s : Dev} (h : s.Has P) {t0 : Test} : (s.withdrawLane t0).Has P := by
  unfold Dev.withdrawLane
  exact .ite h.testOver (.ite h.modLink.testRuns h.testRuns)

theorem Dev.Has.startTile {s : Dev} (h : s.Has P) {t0 : Test} : (s.startTile t0).Has P := by
  unfold Dev.startTile
  dsimp only
  split
  · exact h
  · split
    · exact h.testTile
    · exact .ite (.ite h.testOver h.update.testState) h.testTile

theorem Dev.Has.startEngine {s : Dev} (h : s.Has P) {t0 : Test} : (s.startEngine t0).Has P := by
  unfold Dev.startEngine
  exact .ite h.testOver (.ite h.testOver (.ite h.update.testState h.withdrawEngine))

theorem Dev.Has.testCmd {s : Dev} (h : s.Has P) {kind : Nat} : (s.testCmd kind).Has P := by
  unfold Dev.testCmd
  split
  · exact h
  · dsimp only
    split
    · exact h
    · split
      · exact h.setRegN.startTile
      · exact h.setRegN.startTile
      · exact h.setRegN.startEngine
      · exact h.setRegN.withdrawRim
      · exact h.setRegN.withdrawLane
      · exact h

theorem Dev.Has.testReturn {s : Dev} (h : s.Has P) {t0 : Test} : (s.testReturn t0).Has P := by
  unfold Dev.testReturn
  split
  · exact h
  · exact .ite h.update h
  · exact .ite h.modLink h
  · exact h
  · exact h.setPlain.freed.refreshIdle

theorem Dev.Has.testFailed {s : Dev} (h : s.Has P) {t0 : Test} : (s.testFailed t0).Has P := by
  unfold Dev.testFailed
  split
  · exact h.loseEngine
  · exact .ite h.sticky.soft h.sticky.update
  · exact h.sticky.soft
  · split
    next eq =>
      exact (((h.draw.snd eq).sticky).soft).update
  · dsimp only
    refine .refreshIdle ?_
    split
    · exact h.setPlain.markBad.replaceTile
    · exact h.setPlain.markBad

theorem Dev.Has.testFound {s : Dev} (h : s.Has P) : s.testFound.Has P := h
theorem Dev.Has.testCompleteOp {s : Dev} (h : s.Has P) {o : TestOutcome} : (s.testCompleteOp o).Has P := by
  unfold Dev.testCompleteOp
  split
  · exact h
  · split
    · exact h
    · split
      · exact h.testOver.testReturn
      · split
        · split
          next eq =>
            exact .ite ((((h.draw.snd eq).testOver).setReg).testFailed) (((((h.draw.snd eq).testOver).setReg).softFix).testReturn)
        · exact h
      · exact h.testOver.testFound.testFailed
      · exact h.abandonTest

theorem Dev.Has.retireFn {s : Dev} (h : s.Has P) {f : Nat} : (s.retireFn f).Has P := h
theorem Dev.Has.clearFnRegs {s : Dev} (h : s.Has P) {f : Nat} : (s.clearFnRegs f).Has P := h
theorem Dev.Has.killStream {s : Dev} (h : s.Has Formed) {n : Nat} : (s.killStream n).Has Formed := by
  unfold Dev.killStream
  split
  · exact h
  · exact .removeStream (.endMirror (.foldl (fun _ _ k => k.releaseEngine) h))

theorem Dev.Has.resetFn {s : Dev} (h : s.Has Formed) {f : Nat} : (s.resetFn f).Has Formed := by
  unfold Dev.resetFn
  exact .dropPackages (.foldl (fun _ _ k => k.freeBuf)
    (.foldl (fun _ _ k => k.dropContract) (.foldl (fun _ _ k => k.killStream) h.retireFn.clearFnRegs)))

theorem Dev.Has.resetVfs {m : Nat} {s : Dev} (h : s.Has Formed) : (Dev.resetVfs m s).Has Formed := by
  induction m generalizing s with
  | zero => exact h
  | succ m ih =>
    unfold Dev.resetVfs
    exact ih h.resetFn

theorem Dev.Has.flrOp {s : Dev} (h : s.Has Formed) {f : Nat} {vfClear : Bool} : (s.flrOp f vfClear).Has Formed := by
  unfold Dev.flrOp
  exact .ite h (.ite h.resetVfs.update (.ite h.injRelock.resetVfs.resetFn.update (.ite h.resetFn h)))

theorem Dev.Has.setCount {s : Dev} (h : s.Has P) {a n : Nat} : (s.setCount a n).Has P := h
theorem Dev.Has.ledgerFault {s : Dev} (h : s.Has P) {k : Nat} {c : Nat × Nat × Nat} : (s.ledgerFault k c).Has P := by
  unfold Dev.ledgerFault
  exact h.setRegN.setCount.setCount.setCount.setReg64.sticky.failStop

theorem Dev.Has.auditOp {s : Dev} (h : s.Has P) : s.auditOp.Has P := by
  unfold Dev.auditOp
  dsimp only
  split
  · exact h
  · split
    · exact h.draw.update.count.ledgerFault
    · exact h

theorem Dev.Has.clearLedger {s : Dev} (h : s.Has P) : s.clearLedger.Has P := h
theorem Dev.Has.clearSusp {s : Dev} (h : s.Has P) {w : Nat} : (s.clearSusp w).Has P := by
  unfold Dev.clearSusp
  exact .ite h (.ite h.setRegN.setReg64 h.setRegN)

/-! Counters, dumps, samples and trace (R418 to R431) -/

theorem Dev.Has.afterCapture {s : Dev} (h : s.Has P) {hold : Bool} : (s.afterCapture hold).Has P := h
theorem Dev.Has.skipDump {s : Dev} (h : s.Has P) {hold : Bool} : (s.skipDump hold).Has P := h
theorem Dev.Has.dump {s : Dev} (h : s.Has Formed) {hold now : Bool} : (s.dump hold now).Has Formed := by
  unfold Dev.dump
  refine .ite h (.ite h.update.update.skipDump ?_)
  dsimp only
  split
  · exact h.update.dataFault.skipDump
  · refine .ite h.update.skipDump ?_
    split
    · exact h.update.dataFault.skipDump
    · next record =>
      have recorded := h.update.writeSpace record
      split
      · exact recorded.dataFault.skipDump
      · next counter => exact (recorded.writeSpace counter).update.afterCapture

theorem Dev.Has.clearCounters {s : Dev} (h : s.Has P) : s.clearCounters.Has P := by
  unfold Dev.clearCounters
  exact .ite h.update.trace h

theorem Dev.Has.markOp {s : Dev} (h : s.Has P) {w : Nat} : (s.markOp w).Has P := by
  unfold Dev.markOp
  exact .ite h.trace h

theorem Dev.Has.sampleOp {s : Dev} (h : s.Has P) {e : Nat} : (s.sampleOp e).Has P := by
  unfold Dev.sampleOp
  dsimp only
  exact .ite (.ite h.update.count.setRegN.trace.trigger h.update.count.setRegN.trace) h

theorem Dev.Has.dropTrace {s : Dev} (h : s.Has P) {r0 : TRec} : (s.dropTrace r0).Has P := h
theorem Dev.Has.putTrace {s : Dev} (h : s.Has Formed) {b : Bytes} {t : Dev} (eq : s.putTrace b = some t) : t.Has Formed := by
  unfold Dev.putTrace at eq
  dsimp only at eq
  split at eq
  · cases eq
  · split at eq
    · cases eq
    · split at eq
      · cases eq
      · split at eq
        · cases eq
        · next record =>
          obtain ⟨u, counter, rfl⟩ := Option.map_eq_some_iff.1 eq
          exact ((h.writeSpace record).writeSpace counter).update

theorem Dev.Has.loseTrace {s : Dev} (h : s.Has P) {r0 : TRec} : (s.loseTrace r0).Has P := by
  unfold Dev.loseTrace
  exact .dropTrace (.ite h.dataFault h)

theorem Dev.Has.traceWriteOp {s : Dev} (h : s.Has Formed) : s.traceWriteOp.Has Formed := by
  unfold Dev.traceWriteOp
  split
  · exact h
  · refine .ite h ?_
    dsimp only
    split
    · exact h.update.loseTrace
    · next t eq =>
      have ready : t.Has Formed := by
        split at eq
        · cases eq
          exact h.update
        · obtain ⟨u, put, rfl⟩ := Option.map_eq_some_iff.1 eq
          exact (h.update.putTrace put).update
      cases put : t.putTrace (TRec.bytes _) with
      | none => exact ready.loseTrace
      | some u => exact ready.putTrace put

/-! Register writes (R433 to R437) -/

theorem Dev.Has.keyDataWrite {s : Dev} (h : s.Has P) {w v en : Nat} : (s.keyDataWrite w v en).Has P := by
  unfold Dev.keyDataWrite
  exact .ite h h.noteKeys.setKey

theorem Dev.Has.keyCtlWrite {s : Dev} (h : s.Has P) {v en : Nat} : (s.keyCtlWrite v en).Has P := by
  unfold Dev.keyCtlWrite
  exact .ite h (.ite h.noteKeys.setRegN.keyLock h.noteKeys.setRegN)

theorem Dev.Has.pmcCtlWrite {s : Dev} (h : s.Has P) {v : Nat} : (s.pmcCtlWrite v).Has P := by
  unfold Dev.pmcCtlWrite
  exact .ite h.setRegN.update h.setRegN

theorem Dev.Has.sampSelWrite {s : Dev} (h : s.Has P) {v : Nat} : (s.sampSelWrite v).Has P := by
  unfold Dev.sampSelWrite
  exact .ite h.setRegN.update h.setRegN

theorem Dev.Has.sampPerWrite {s : Dev} (h : s.Has P) {v : Nat} : (s.sampPerWrite v).Has P := h
theorem Dev.Has.trcCtlWrite {s : Dev} (h : s.Has P) {v : Nat} : (s.trcCtlWrite v).Has P := by
  unfold Dev.trcCtlWrite
  exact .ite h.setRegN.trace h.setRegN

theorem Dev.Has.storeUnless {s : Dev} (h : s.Has P) {ignore : Bool} {a v : Nat} : (s.storeUnless ignore a v).Has P := by
  unfold Dev.storeUnless
  exact .ite h h.setRegN

theorem Dev.Has.rngWrite {s : Dev} (h : s.Has P) {a v : Nat} : (s.rngWrite a v).Has P := by
  unfold Dev.rngWrite
  exact .ite h.storeUnless (.ite h.setRegN h.storeUnless)

theorem Dev.Has.msixControlWrite {s : Dev} (h : s.Has P) {f v : Nat} : (s.msixControlWrite f v).Has P := by
  unfold Dev.msixControlWrite
  exact .ite h.setFn h

end

end Sys2Proof.Machine
end

section
/-!
What every command and every step does to host and device memory, with the statements about them: a command that moves no data leaves both as
they are, and every step keeps their canonical form.
-/
namespace Sys2Proof.Machine

/-! The relation between a state and the next -/

/-- P holds of the two memories of a state. -/
abbrev State.Has (P : Mem → Mem → Prop) (s : State) : Prop := s.dev.Has P

/-- What holds of the two memories holds of them in the later state. -/
def State.KeepsMem (P : Mem → Mem → Prop) (s t : State) : Prop := s.Has P → t.Has P

theorem Dev.Has.tileFrame {P : Mem → Mem → Prop} {s t : Dev} (h : s.Has P) (frame : s.TileFrame t) : t.Has P := by
  unfold Dev.Has
  rw [frame.hmem, frame.dmem]
  exact h

theorem State.stepRel_keepsMem (P : Mem → Mem → Prop) : StepRel (State.KeepsMem P) :=
  ⟨fun first second h => second (first h), fun only h => h.tileFrame only.dev⟩

/-! Operations that write no memory -/

section
variable {P : Mem → Mem → Prop} {s : State}

theorem State.Has.ite {c : Prop} [Decidable c] {a b : State} (yes : a.Has P) (no : b.Has P) : (if c then a else b).Has P :=
  iteInduction (motive := State.Has P) (fun _ => yes) fun _ => no

theorem State.Has.onDev {f : Dev → Dev} (on_f : (f s.dev).Has P) : (s.onDev f).Has P := on_f

variable (h : s.Has P)
include h

theorem State.Has.clkPlain {p : Nat} {f : PlainClk → PlainClk} : (s.clkPlain p f).Has P := .ite h h

theorem State.Has.dividerState {p : Nat} : (s.dividerState p).Has P := by
  unfold State.dividerState
  exact .ite h (.onDev h.setPlain.trace.refreshSusp)

theorem State.Has.tick : s.tick.Has P := by
  unfold State.tick
  exact .ite h (.onDev (.foldl (fun _ _ k => k.tickPlain) (.ite h.update.count.count h.update.count)))

theorem State.Has.disarm : s.disarm.Has P := h

theorem State.Has.fuseArm {w : Nat} : (s.fuseArm w).Has P := .ite h h

theorem State.Has.burnValue {v : BitVec 64} : (s.burnValue v).Has P := by
  unfold State.burnValue
  split <;> exact h

theorem State.Has.burnSoft {i : Nat} : (s.burnSoft i).Has P := by
  unfold State.burnSoft
  exact .ite h.burnValue h

theorem State.Has.burnRevoke {r : Nat} : (s.burnRevoke r).Has P := by
  unfold State.burnRevoke
  exact .ite h.burnValue h

theorem State.Has.startBoot {tests : BootTests} : (s.startBoot tests).Has P := by
  unfold State.startBoot
  refine .ite (.ite h.bootFail ?_) h
  split
  · exact h.bootFail
  · exact .ite h.bootFail (Dev.Has.ite h.bootTests.bootFail h.bootTests.becomeReady)

theorem State.Has.clearSticky {g w : Nat} : (s.clearSticky g w).Has P :=
  .ite h (Dev.Has.foldl (fun _ _ k => .ite k.sticky k) (.ite h.setRegN.clearLedger h.setRegN))

theorem State.Has.disarmFor {a : Nat} : (s.disarmFor a).Has P := .ite h h

theorem State.Has.calUserWrite {v en : Nat} : (s.calUserWrite v en).Has P := by
  unfold State.calUserWrite
  split <;> exact h

theorem State.Has.fusCmd {v : Nat} : (s.fusCmd v).Has P := .ite (.ite h.burnRevoke h) (.ite h.burnSoft h)

theorem State.Has.rwWrite {a v : Nat} : (s.rwWrite a v).Has P := by
  unfold State.rwWrite
  refine Dev.Has.ite h.setRegN (.ite h.setRegN.refreshIdle
    (.ite h.setRegN (.ite h.rngWrite (.ite h.setHead (.ite h.pmcCtlWrite (.ite h.setRegN ?_))))))
  exact .ite h.storeUnless (.ite h.sampSelWrite (.ite h.sampPerWrite (.ite h.trcCtlWrite (.ite h.storeUnless (.ite h.storeUnless h.setRegN)))))

theorem State.Has.w1cWrite {a v : Nat} : (s.w1cWrite a v).Has P := .ite h.clearSusp h.setRegN

theorem State.Has.cmdBit {v b : Nat} {f : State → State} (command : (f s).Has P) : (s.cmdBit v b f).Has P := .ite command h

end

/-! Operations that write memory -/

section
variable {s : State} (h : s.Has Formed)
include h

theorem State.Has.afterReset {cold : Bool} {cause : Nat} {m : Mode} : (s.afterReset cold cause m).Has Formed := ⟨h.1, rfl⟩

theorem State.Has.assertPin {cause : Nat} {f : Pins → Pins} : (s.assertPin cause f).Has Formed := by
  unfold State.assertPin
  exact .ite h (h.afterReset (cold := false) (cause := cause) (m := .held))

theorem State.Has.coldCmd : s.coldCmd.Has Formed := .ite h.afterReset h

theorem State.Has.warmCmd : s.warmCmd.Has Formed := .ite h.afterReset h

theorem State.Has.dumpNow : s.dumpNow.Has Formed := .ite h.dump h

theorem State.Has.rstCmd {v : Nat} : (s.rstCmd v).Has Formed := .ite h.coldCmd (.ite h.warmCmd h)

theorem State.Has.woWrite {a v : Nat} : (s.woWrite a v).Has Formed := by
  have command (b : Nat) {t : State} (k : t.Has Formed) {f : Dev → Dev} (on_f : ∀ d : Dev, d.Has Formed → (f d).Has Formed) :
      (t.cmdBit v b fun u => u.onDev f).Has Formed := k.cmdBit (on_f _ k)
  unfold State.woWrite
  refine .ite h.rstCmd (.ite (h.cmdBit h.startBoot) (.ite (command 0 h fun _ k => k.loadOp) ?_))
  refine .ite (command 1 (command 0 h fun _ k => k.keyInstall) fun _ k => k.keyErase) ?_
  refine .ite (command 2 (command 1 (command 0 h fun _ k => k.enumOp) fun _ k => k.releaseAddr) fun _ k => k.queryOp) ?_
  refine .ite (State.Has.cmdBit (command 0 h fun _ k => k.clearCounters) (command 0 h fun _ k => k.clearCounters).dumpNow) ?_
  refine .ite h.markOp (.ite (command 1 h fun _ k => k.injLock) (.ite h.injWord (.ite h.fuseArm (.ite h.fusCmd ?_))))
  exact .ite (command 0 h fun _ k => k.freezeCmd) (.ite h.testCmd h)

theorem State.Has.regWrite {a v en : Nat} {r : RegSpec} : (s.regWrite a v en r).Has Formed := by
  unfold State.regWrite
  split
  · exact h
  · exact h
  · exact .ite h.setRegN h
  · exact h.woWrite
  · exact h.w1cWrite
  · exact .ite h.calUserWrite (.ite h.keyCtlWrite (.ite h.keyDataWrite h.rwWrite))

theorem State.Has.writeWithin {f : Nat} {space : RegSpace} {off n v : Nat} : (s.writeWithin f space off n v).Has Formed := by
  have disarmed (a : Nat) : (s.disarmFor a).Has Formed := h.disarmFor
  unfold State.writeWithin
  dsimp only
  split
  · exact h
  · split
    · exact disarmed _
    · exact .ite (disarmed _).clearSticky (.ite (disarmed _).regWrite (disarmed _))

theorem State.Has.writeRegs {f : Nat} {space : RegSpace} {off n v : Nat} : (s.writeRegs f space off n v).Has Formed :=
  .ite h.writeWithin.writeWithin h.writeWithin

theorem State.Has.tileFault {tile : Nat} : (s.tileFault tile).Has Formed := .ite h h.tileFaultOp

theorem State.Has.plainFail {p : Nat} : (s.plainFail p).Has Formed := .ite h h.plainFailOp

theorem State.Has.placeWrite {tile : Nat} {p : XferPlace} {b : Bytes} : (s.placeWrite tile p b).Has Formed := by
  cases p with
  | pool w => exact h.setPlain
  | hbm a => exact h.putDev

/-- A statistics entry goes to memory, or its stream's first job, or the function, takes the fault (R69, R301). -/
theorem State.Has.writeStat {n a : Nat} {space : Bool} {b : Bytes} : (s.writeStat n space a b).Has Formed := by
  unfold State.writeStat State.onDev
  dsimp only
  split
  · exact h
  · refine Dev.Has.ite h ?_
    split
    next eq => exact h.writeSpace eq
    next =>
      split
      · exact h.jobFault
      · exact h.dataFault

end

/-! Every command -/

section
variable {P : Mem → Mem → Prop} (s : State)

theorem exec_keepsMem_fusBurnDone (o : BurnOutcome) : LeadsTo (State.KeepsMem P) s (exec (.fusBurnDone o) s) := by
  simp only [exec, execFusBurnDone]
  split
  · exact .next id
  · split
    · exact .next id
    · exact .next fun h => h.draw.fuseErr

theorem exec_keepsMem_pllSwitch (locks : Bool) (pause : Nat) : LeadsTo (State.KeepsMem P) s (exec (.pllSwitch locks pause) s) :=
  .ite (fun _ => .next id) fun _ => .ite (fun _ => .next fun h => h.failStop) fun _ => .next fun h => h.sticky.soft.count.update.pauseRedo

theorem exec_keepsMem_rootPllLock (ppm : Int) (hbmOk : Bool) : LeadsTo (State.KeepsMem P) s (exec (.rootPllLock ppm hbmOk) s) := by
  simp only [exec, execRootPllLock]
  split
  · refine .next fun h => ?_
    dsimp only [State.Has, State.onDev]
    exact .ite h.setMode.buildRepair.settlePlaces.update h.setMode.buildRepair.settlePlaces.bootFail
  · exact .next id

theorem exec_formed_devRst (ns : Nat) : LeadsTo (State.KeepsMem Formed) s (exec (.devRst ns) s) := by
  refine .ite (fun _ => .next id) fun _ => .ite (fun _ => .next fun h => h.assertPin) fun _ => ?_
  exact .ite (fun _ => .next fun h => State.Has.assertPin (s := { s with dev := s.dev.draw.2 }) h.draw) fun _ => .next fun h => h.draw

theorem exec_formed_railFault (r : Rail) : LeadsTo (State.KeepsMem Formed) s (exec (.railFault r) s) := by
  simp only [exec, execRailFault]
  split
  · exact .next id
  · split
    · refine .next fun h => State.Has.plainFail ?_
      exact h.sticky
    · exact .next fun h => h.sticky.failStop

theorem exec_formed_registerWrite (f : Fin 64) (space : RegSpace) (off : BitVec 24) (size : Fin 9) (value : BitVec 64) :
    LeadsTo (State.KeepsMem Formed) s (exec (.registerWrite f space off size value) s) := by
  simp only [exec, execRegisterWrite]
  split
  · exact .next id
  · split
    · exact .next fun h => h.msixControlWrite
    · exact .next id
    · exact .next fun h => .ite h.wakeOp h
    · exact .next fun h => h.writeRegs

theorem exec_formed_warpFault (p : Fin 8) : LeadsTo (State.KeepsMem Formed) s (exec (.warpFault p) s) :=
  .next fun h => Dev.Has.ite h.sticky.setPlain.loseInstance h

theorem exec_formed_regionFault (u : Fin 2) : LeadsTo (State.KeepsMem Formed) s (exec (.regionFault u) s) :=
  .next fun h => Dev.Has.ite h.sticky.update.loseInstance h

theorem exec_formed_lleFault (e : Fin 4) : LeadsTo (State.KeepsMem Formed) s (exec (.lleFault e) s) := by
  refine .next fun h => Dev.Has.ite (.loseInstance ?_) h
  split
  · exact .ite h.sticky.setLle.llFail h.sticky.setLle
  · exact h.sticky.setLle

theorem exec_formed_quiesce : LeadsTo (State.KeepsMem Formed) s (exec .quiesce s) := by
  simp only [exec, execQuiesce]
  split
  · refine .next fun h => ?_
    dsimp only [State.Has]
    exact h.quiesceOp
  · exact .next id

theorem exec_formed_d0Return (f : Fin 64) : LeadsTo (State.KeepsMem Formed) s (exec (.d0Return f) s) := by
  simp only [exec, execD0Return]
  split
  · exact .next fun h => State.Has.onDev h.setFn.refreshSusp.retryHeld
  · exact .next id

theorem exec_formed_departure (r : SeatRef) : LeadsTo (State.KeepsMem Formed) s (exec (.departure r) s) :=
  .next fun h => h.streamStep fun _ k => k.departureOp

/-- A command that moves no data has a next state, in which the two memories have what they had. -/
theorem exec_keepsMem (c : Instr) (moves_none : keepsMemory c = true) : LeadsTo (State.KeepsMem P) s (exec c s) := by
  have rel := State.stepRel_keepsMem P
  cases c with
  | wake f _ => exact .next fun h => h.wakeOp
  | modTime f c => exact .next fun h => h.modTimeOp
  | msixPendingSend f v => exact .next fun h => h.msixPendingOp
  | install => exact .next fun h => h.keyInstall
  | erase => exact .next fun h => h.keyErase
  | admKeyctlLock => exact .next fun h => h.keyLock
  | head => exact .next fun h => h.setHead
  | enum => exact .next fun h => h.enumOp
  | mchRelease => exact .next fun h => h.releaseAddr
  | query => exact .next fun h => h.queryOp
  | survey fr => exact .next fun h => h.surveyOp
  | assign fr => exact .next fun h => h.assignOp
  | join fr => exact .next fun h => h.joinOp
  | statusBroadcast => exact .next fun h => h.statusBroadcastOp
  | chainFrameDrop fr => exact .next fun h => h.frameDropOp
  | fusArm w => exact .next fun h => h.fuseArm
  | burn i => exact .next fun h => h.burnSoft
  | revoke r => exact .next fun h => h.burnRevoke
  | fusBurnDone o => exact exec_keepsMem_fusBurnDone s o
  | injUnlock w => exact .next fun h => h.injWord
  | injLock => exact .next fun h => h.injLock
  | injUnlockTimeout => exact .next fun h => Dev.Has.ite h.injEnd h
  | freeze => exact .next fun h => h.freezeCmd
  | frzNFall => exact .next fun h => Dev.Has.ite h.update.freeze h.update
  | frzNRise => exact .next id
  | tileBist => exact .next fun h => h.testCmd
  | mbist => exact .next fun h => h.testCmd
  | arrayTest => exact .next fun h => h.testCmd
  | engineTest => exact .next fun h => h.testCmd
  | laneTest => exact .next fun h => h.testCmd
  | clear => exact .next fun h => h.clearCounters
  | pmcValCapture size => exact .ite (fun _ => .next id) fun _ => .next id
  | glbTimeCapture size => exact .ite (fun _ => .next id) fun _ => .next id
  | mark w => exact .next fun h => h.markOp
  | sample e => exact .next fun h => h.sampleOp
  | stickyClear g w => exact .next fun h => State.Has.clearSticky (State.Has.disarm h)
  | admSuspClear w => exact .next fun h => h.clearSusp
  | vminLow p => exact .next fun h => h.clkPlain
  | vminRestored p => exact .next fun h => h.clkPlain
  | overTemp p deciC => exact .ite (fun _ => .next fun h => h.clkPlain.sticky) fun _ => .next id
  | overTempEnd p deciC => exact .ite (fun _ => .next fun h => h.clkPlain) fun _ => .next id
  | thermalFailstop p deciC => exact .ite (fun _ => .next fun h => h.clkPlain.failStop.update) fun _ => .next id
  | plainLimit p q => exact .ite (fun _ => .next fun h => h.sticky) fun _ => .next id
  | plainLimitEnd p q => exact .ite (fun _ => .next id) fun _ => .next id
  | powerCapStep estimate draws => exact .ite (fun _ => .next id) fun _ => .next id
  | dividerChange p => exact .next fun h => h.dividerState
  | refLoss => exact .ite (fun _ => .next fun h => h.setReg64.update.suspend.sticky.sticky) fun _ => .next id
  | holdoverEnd => exact .ite (fun _ => .next fun h => h.unsuspend) fun _ => .next id
  | pllSwitch locks pause => exact exec_keepsMem_pllSwitch s locks pause
  | linkRetrain gts width =>
    exact .ite (fun _ => .next fun h => State.Has.onDev (.refreshSusp (.ite h.update.count h.update.count.sticky))) fun _ => .next id
  | d3hot f => exact .ite (fun _ => .next fun h => State.Has.onDev h.setFn.refreshSusp) fun _ => .next id
  | vfEnable n => exact .next fun h => Dev.Has.ite h.update h
  | ledgerAudit => exact .next fun h => h.auditOp
  | gateEnter p => exact .ite (fun _ => .next fun h => h.gatePlain) fun _ => .next id
  | gateExit p => exact .ite (fun _ => .next fun h => h.wakePlain) fun _ => .next id
  | release u => exact .next fun h => Dev.Has.ite h.releaseOp h
  | heartbeat => exact .next fun h => h.heartbeatOp
  | hello l data => exact .next fun h => h.helloOp
  | replay l seq => exact .next fun h => h.replayOp
  | epochOpen k => exact .next fun h => Dev.Has.ite h.epochOpenOp h
  | abort k => exact .next fun h => Dev.Has.ite h.abortOp h
  | hbmLaneRepair stack channel lane => exact .next fun h => Dev.Has.ite h.repairHbmLane.count h
  | spineUe => exact .next fun h => Dev.Has.ite h.sticky h
  | watchdogExpiry => exact .next fun h => Dev.Has.ite h.sticky h
  | uinstrNop tile => exact leadsTo_uinstrNop rel s tile
  | swp tile arrs => exact leadsTo_swp rel s tile arrs
  | mac tile rec o => exact leadsTo_mac rel s tile rec o
  | mact tile rec o => exact leadsTo_mact rel s tile rec o
  | ard tile rec entry group rows => exact leadsTo_ard rel s tile rec entry group rows
  | epi tile rec => exact leadsTo_epi rel s tile rec
  | rot tile rec group => exact leadsTo_rot rel s tile rec group
  | row tile rec x y wide => exact leadsTo_row rel s tile rec x y wide
  | vop tile rec o => exact leadsTo_vop rel s tile rec o
  | st tile rec o => exact leadsTo_st rel s tile rec o
  | hwt tile rec side part value => exact leadsTo_hwt rel s tile rec side part value
  | haloReceive tile => exact leadsTo_haloReceive rel s tile
  | srs tile rec restore => exact leadsTo_srs rel s tile rec restore
  | endRec tile rec => exact leadsTo_endRec rel s tile rec
  | rootPllLock ppm hbmOk => exact exec_keepsMem_rootPllLock s ppm hbmOk
  | _ => cases moves_none

/-- A command that completes descriptors, moves data, writes records or resets the block has a next state, with memories in canonical form. -/
theorem exec_formed_of_moves (c : Instr) (moves : keepsMemory c = false) : LeadsTo (State.KeepsMem Formed) s (exec c s) := by
  have rel := State.stepRel_keepsMem Formed
  have fault (tile : Nat) (t : State) : State.KeepsMem Formed t (t.tileFault tile) := fun h => h.tileFault
  cases c with
  | nop d => exact .next fun h => h.runDesc fun _ _ k => k.nopOp
  | fence d => exact .next fun h => h.runDesc fun _ _ k => k.fenceOp
  | modelLoad d => exact .next fun h => h.runDesc fun _ _ k => k.modelLoadOp
  | modelUnload d => exact .next fun h => h.runDesc fun _ _ k => k.modelUnloadOp
  | contractOpen d => exact .next fun h => h.runDesc fun _ _ k => k.contractOpenOp
  | contractClose d => exact .next fun h => h.runDesc fun _ _ k => k.contractCloseOp
  | streamOpen d => exact .next fun h => h.runDesc fun _ _ k => k.streamOpenOp
  | streamClose d => exact .next fun h => h.streamDesc fun _ _ k => k.streamCloseOp
  | encPicture d => exact .next fun h => h.streamDesc fun _ _ k => k.encPictureJob
  | decUnits d => exact .next fun h => h.streamDesc fun _ _ k => k.decJob
  | poolMarkAlloc d => exact .next fun h => h.runDesc fun _ _ k => k.poolAllocOp
  | poolMarkTake d => exact .next fun h => h.runDesc fun _ _ k => k.poolTakeOp
  | poolMarkRelease d => exact .next fun h => h.runDesc fun _ _ k => k.poolReleaseOp.pumpWaiting
  | poolMarkDiscard d => exact .next fun h => h.runDesc fun _ _ k => k.poolDiscardOp.pumpWaiting
  | audEnc d => exact .next fun h => h.streamDesc fun _ _ k => k.audEncJob
  | audDec d => exact .next fun h => h.streamDesc fun _ _ k => k.decJob
  | fldEnc d => exact .next fun h => h.streamDesc fun _ _ k => k.fldEncJob
  | fldDec d => exact .next fun h => h.streamDesc fun _ _ k => k.decJob
  | llComp d => exact .next fun h => h.runDesc fun _ _ k => k.llOp
  | llDecomp d => exact .next fun h => h.runDesc fun _ _ k => k.llOp
  | copy2d d => exact .next fun h => h.runDesc fun _ _ k => k.copyOp
  | attach d => exact .next fun h => h.mirrorDesc fun _ _ k => k.attachOp
  | detach d => exact .next fun h => h.mirrorDesc fun _ _ k => k.detachOp
  | watch d => exact .next fun h => h.mirrorDesc fun _ _ k => k.watchOp
  | switch d => exact .next fun h => h.mirrorDesc fun _ _ k => k.switchOp
  | takeover d => exact .next fun h => h.mirrorDesc fun _ _ k => k.takeoverOp
  | load f => exact .next fun h => h.loadOp
  | poll f => exact .next fun h => h.pollAll
  | queryTimeout => exact .next fun h => h.queryTimeoutOp
  | testComplete o => exact .next fun h => h.testCompleteOp
  | coldCmd => exact .next fun h => State.Has.coldCmd (State.Has.disarm h)
  | warmCmd => exact .next fun h => State.Has.warmCmd (State.Has.disarm h)
  | start tests => exact .next fun h => State.Has.startBoot (State.Has.disarm h)
  | dumpNow => exact .next fun h => State.Has.dumpNow (State.Has.disarm h)
  | dump => exact .ite (fun _ => .next fun h => h.dump) fun _ => .next id
  | registerWrite f space off size value => exact exec_formed_registerWrite s f space off size value
  | perst => exact .next fun h => h.assertPin
  | devRst ns => exact exec_formed_devRst s ns
  | coldPower => exact .next fun h => h.afterReset
  | resetRelease => exact .ite (fun _ => .next fun h => h.update.setMode.update) fun _ => .next id
  | powerOnResetRelease =>
    exact .ite (fun _ => .ite (fun _ => .next fun h => h.setMode.update) fun _ => .next fun h => h.setMode) fun _ => .next id
  | railFault r => exact exec_formed_railFault s r
  | quiesce => exact exec_formed_quiesce s
  | functionLevelReset f vfClear => exact .next fun h => h.flrOp.pumpWaiting
  | d0Return f => exact exec_formed_d0Return s f
  | departure r => exact exec_formed_departure s r
  | contextPass u => exact .next fun h => h.streamStep fun _ k => k.contextPassOp
  | decodeSegment u => exact .next fun h => h.streamStep fun _ k => k.decodeSegmentOp
  | encodeUnit u => exact .next fun h => h.streamStep fun _ k => k.encodeUnitOp
  | train n => exact .next fun h => h.streamStep fun _ k => k.trainOp
  | regionJob n => exact .next fun h => h.streamStep fun _ k => k.regionOp
  | unitEmit n => exact .next fun h => h.streamStep fun _ k => k.unitEmitOp
  | pictureClose n => exact .next fun h => h.streamStep fun _ k => k.pictureCloseOp
  | pictureRecord n => exact .next fun h => h.streamStep fun _ k => k.pictureRecordOp
  | autoCopy n => exact .next fun h => h.streamStep fun _ k => k.autoCopyOp
  | outputRecord n => exact .next fun h => h.streamStep fun _ k => k.outputRecordOp
  | blockRecord n => exact .next fun h => h.streamStep fun _ k => k.blockRecordOp
  | llSuspend e => exact .next fun h => h.llSuspendOp
  | llResume e => exact .next fun h => h.llResumeOp
  | ldw tile arr part word => exact leadsTo_ldw rel s tile (fault tile) arr part word
  | lda tile rec o => exact leadsTo_lda rel s tile rec (fault tile) o
  | hsnd tile rec o => exact leadsTo_hsnd rel s tile rec (fault tile) o
  | xfr tile o => exact leadsTo_xfr rel s tile (fault tile) o fun _ _ h => h.placeWrite
  | stat tile rec space addr => exact leadsTo_stat rel s tile rec space addr fun _ _ _ h => h.writeStat
  | tileFault tile _ => exact .next fun h => h.tileFault
  | engineFault n => exact .next fun h => h.engineFaultOp
  | rimFault p => exact .next fun h => h.rimFaultOp
  | hbmUe addr reader state => exact .next fun h => h.hbmUeOp
  | plainFail p => exact .next fun h => h.plainFail
  | traceWrite => exact .next fun h => h.traceWriteOp
  | heartbeatReceive l serial roles => exact .next fun h => h.heartbeatReceiveOp
  | linkDown l => exact .next fun h => h.linkDownOp
  | laneSpare l lane => exact .next fun h => h.laneSpareOp
  | epochClose k number full image ok => exact .next fun h => Dev.Has.ite h.epochCloseOp h
  | epochAck k number committed => exact .next fun h => Dev.Has.ite h.epochAckOp h
  | switchRecord k => exact .next fun h => Dev.Has.ite h.switchRecordOp h
  | switchAck k => exact .next fun h => Dev.Has.ite h.switchAckOp h
  | closingNotice k closed => exact .next fun h => Dev.Has.ite h.closingNoticeOp h
  | relinquish k => exact .next fun h => Dev.Has.ite h.relinquishOp h
  | status fr => exact .next fun h => h.statusOp
  | statusReq fr => exact .next fun h => h.statusReqOp
  | warpFault p => exact exec_formed_warpFault s p
  | regionFault u => exact exec_formed_regionFault s u
  | lleFault e => exact exec_formed_lleFault s e
  | attachMatch p => exact .next fun h => h.attachMatchOp
  | _ => cases moves

theorem exec_formed (c : Instr) : LeadsTo (State.KeepsMem Formed) s (exec c s) := by
  cases moves : keepsMemory c with
  | true => exact exec_keepsMem s c moves
  | false => exact exec_formed_of_moves s c moves

end

/-- Settles O60, by what a command that moves no data keeps: that the two memories are those of the start. -/
theorem onlyDataCommandsWriteMemory : Obligations.OnlyDataCommandsWriteMemory := by
  unfold Obligations.OnlyDataCommandsWriteMemory
  intro c s t moves_none next
  obtain ⟨u, reached, keeps⟩ := exec_keepsMem (P := fun h d => h = s.dev.hmem ∧ d = s.dev.dmem) s c moves_none
  cases reached.symm.trans next
  exact keeps ⟨rfl, rfl⟩

/-- Settles O6, by what every command and a tick keep of the two memories. -/
theorem memoriesKeepTheirForm : Obligations.MemoriesKeepTheirForm := by
  unfold Obligations.MemoriesKeepTheirForm
  intro s t host device next
  have formed : s.Has Formed := ⟨host, device⟩
  unfold step at next
  split at next
  · cases next
    exact formed.tick
  · next c rest _ =>
    obtain ⟨u, reached, keeps⟩ := exec_formed { s with pending := rest } c
    cases reached.symm.trans next
    exact keeps formed

end Sys2Proof.Machine
end
